-- ==== Sys2Proof/Word.lean ====
section
/-! DEFINITION. The word types of the device and the keys its sparse stores use. -/

namespace Sys2Proof

/-- A byte of memory (R4). -/
abbrev Byte := BitVec 8

/-- A 32-bit word: one word of a syllable (R32), a link-core register (R384). -/
abbrev Half := BitVec 32

/-- A 64-bit doubleword: a scalar register (R11), a control register (R27). -/
abbrev Word := BitVec 64

/-- A vector register of 1,024 bits (R11). -/
abbrev VReg := BitVec 1024

/-- A lane mask: one bit for each byte lane (R11). -/
abbrev Mask := BitVec 128

/-- A byte at an address, as the host's interface lists memory. -/
abbrev Cell := Nat × Byte

end Sys2Proof
end

