-- ==== Sys2Proof/Syntax.lean ====
section
/-! DEFINITION. The syntax of the device: the operand records of the instruction formats (Tables 2-2, 2-3, 2-11, 2-12
and 17-5), of the queue packets (Table 20-2) and of the events, and the one inductive `Instr`. -/

namespace Sys2Proof

/-- The guard of a syllable (R38): it takes effect only if p[g] XOR gn is 1. -/
structure Guard where
  gn : Bool
  g  : BitVec 5
  deriving DecidableEq, Repr

/-- Format S3 (Table 2-2); `gw` is the guard word of the 64-bit form, absent in the 32-bit form. `fin` is the E bit
(R32) in every record. -/
structure S3 where
  fin : Bool
  gw  : Option Guard
  b   : BitVec 7
  a   : BitVec 7
  w   : Bool
  d   : BitVec 6
  deriving DecidableEq, Repr

/-- Format S3 with word 1 of S3X, for the opcodes whose XF field the mnemonic fixes. -/
structure S3X where
  fin : Bool
  b   : BitVec 7
  a   : BitVec 7
  w   : Bool
  d   : BitVec 6
  x8  : BitVec 8
  c   : BitVec 7
  g   : Guard
  deriving DecidableEq, Repr

/-- Format SI; `ext` is I26 and the guard of the SIX word. For SHI and CMPI `i10` holds the bits of I10 that are not
the kind or the condition: I10[5:0] and I10[6:0] (R41). -/
structure SI where
  fin : Bool
  i10 : BitVec 10
  a   : BitVec 7
  w   : Bool
  d   : BitVec 6
  ext : Option (BitVec 26 × Guard)
  deriving DecidableEq, Repr

/-- MOVI: the 36-bit value I10, I26 (R95). -/
structure MovI where
  fin : Bool
  imm : BitVec 36
  w   : Bool
  d   : BitVec 6
  g   : Guard
  deriving DecidableEq, Repr

/-- MOVH: the 32-bit immediate of word 1; no guard (R95). -/
structure MovH where
  fin : Bool
  w   : Bool
  d   : BitVec 6
  imm : BitVec 32
  deriving DecidableEq, Repr

/-- Format BR: guarded in word 0 (R38). -/
structure Br where
  fin : Bool
  off : BitVec 18
  g   : Guard
  deriving DecidableEq, Repr

/-- LOOP: count source and end offset (R111). -/
structure LoopI where
  fin : Bool
  n   : BitVec 10
  a   : BitVec 7
  gw  : Option Guard
  deriving DecidableEq, Repr

/-- Format CTL. -/
structure Ctl where
  fin : Bool
  gw  : Option Guard
  i6  : BitVec 6
  a   : BitVec 7
  w   : Bool
  d   : BitVec 6
  deriving DecidableEq, Repr

/-- Format MEM; size and sign are the mnemonic's. `ext` is OFF26 and the guard of MEMX, which requires OFF7 = 0. -/
structure Mem where
  fin : Bool
  off : BitVec 7
  a   : BitVec 7
  w   : Bool
  d   : BitVec 6
  ext : Option (BitVec 26 × Guard)
  deriving DecidableEq, Repr

/-- Format VMEM (VLD, VST). -/
structure VMem where
  fin : Bool
  off : BitVec 7
  a   : BitVec 7
  v   : BitVec 5
  lg  : BitVec 2
  wd  : BitVec 2
  deriving DecidableEq, Repr

/-- The fields of a VECX word 1. -/
structure VecX where
  fmto : BitVec 4
  x8   : BitVec 8
  vc   : BitVec 5
  msk  : BitVec 3
  g    : Guard
  deriving DecidableEq, Repr

/-- VGATH and VSCAT: VMEM with VECX. -/
structure VIdx where
  fin : Bool
  a   : BitVec 7
  v   : BitVec 5
  lg  : BitVec 2
  wd  : BitVec 2
  x   : VecX
  deriving DecidableEq, Repr

/-- Format VEC; `ext` is absent in the 32-bit form. -/
structure Vec where
  fin : Bool
  vb  : BitVec 5
  va  : BitVec 5
  vd  : BitVec 5
  lg  : BitVec 2
  wd  : BitVec 2
  ext : Option VecX
  deriving DecidableEq, Repr

/-- The 64-bit extension of ATOM: scaled offset, size (true: 32 bits) and guard (R209). -/
structure AtomX where
  sz : Bool
  x8 : BitVec 8
  g  : Guard
  deriving DecidableEq, Repr

/-- ATOM. -/
structure Atom where
  fin : Bool
  b   : BitVec 7
  a   : BitVec 7
  w   : Bool
  d   : BitVec 6
  ext : Option AtomX
  deriving DecidableEq, Repr

/-- ACAS (R213): the S3X fields and the size (true: 32 bits). -/
structure Acas where
  sz : Bool
  x  : S3X
  deriving DecidableEq, Repr

/-- Format EN with the engine number; the command is the mnemonic's. -/
structure En where
  fin : Bool
  gw  : Option Guard
  eng : BitVec 4
  sb  : BitVec 6
  sa  : BitVec 6
  deriving DecidableEq, Repr

/-- ESET: EN with the parameter pair `n` (R262). -/
structure Eset where
  n : BitVec 4
  e : En
  deriving DecidableEq, Repr

/-- PFXM (Table 2-11). -/
structure PfxM where
  fin   : Bool
  cache : BitVec 2
  space : BitVec 2
  scope : BitVec 3
  ord   : BitVec 3
  deriving DecidableEq, Repr

/-- PFXA (Table 2-12). -/
structure PfxA where
  fin : Bool
  ftz : Bool
  nan : BitVec 2
  sat : BitVec 2
  rnd : BitVec 3
  deriving DecidableEq, Repr

/-- Dolelm Register layout (Table 17-5). -/
structure DReg where
  b : BitVec 4
  a : BitVec 4
  d : BitVec 4
  deriving DecidableEq, Repr

/-- Dolelm Immediate layout. -/
structure DImm where
  i : BitVec 18
  a : BitVec 4
  d : BitVec 4
  deriving DecidableEq, Repr

/-- Dolelm Branch layout. -/
structure DBr where
  off : BitVec 18
  b   : BitVec 4
  a   : BitVec 4
  deriving DecidableEq, Repr

/-- A queue that the queue spill engine serves (R188). -/
inductive SpillQueue where
  | deferral (c path : Nat)
  | ready (l d lvl : Nat)
  | ring (win : Nat)
  | link (k : Nat)
  deriving DecidableEq, Repr

/-- Who consumed the data of an uncorrectable error (R335, R336); `submitRead` is a read that a submit makes (R399), and a link core is
the one whose local memory holds it (R396). -/
inductive SoftWho where
  | core (c : Nat)
  | submitRead (c : Nat) (va : BitVec 64)
  | parityOnce (c : Nat)
  | job (c slot : Nat)
  | walk (c : Nat) (va : BitVec 64)
  | jobWalk (c slot : Nat) (va : BitVec 64)
  | wake (c i : Nat)
  | link (k : Nat)
  | nobody
  deriving DecidableEq, Repr

/-- An uncorrectable error: the die that reports it, unit and place (Table 14-7), and its consumer. -/
structure SoftErr where
  die  : Nat
  unit : BitVec 4
  loc  : BitVec 52
  who  : SoftWho
  deriving DecidableEq, Repr

/-- The answer to a remote access of a core (R195): a value, an acknowledgement of the posted access with that
number, the rejection of the `i`th of the accesses awaited together (R149) or the expiry of the transport timeout of one. -/
inductive RemoteAnswer where
  | value (v : BitVec 1024)
  | posted (i : Nat)
  | reject (i : Nat)
  | timeout (i : Nat)
  deriving DecidableEq, Repr

/-- The combination a packet delivery context serves (R386), and for a target context the port die of its first
packet. -/
structure PdcKey where
  target : Bool
  peer   : BitVec 12
  mode   : BitVec 2
  sec    : Bool
  sdi    : BitVec 12
  pd     : Nat
  deriving DecidableEq, Repr

/-- What one acknowledgement packet says (R388): cumulative PSN, selective base and bitmap, count of marks, sampled
round trip with its PSN, and the data of a response. -/
structure AckInfo where
  cum  : BitVec 32
  sack : Option (BitVec 32 × BitVec 32)
  ecn  : BitVec 32
  rtt  : Option (BitVec 32 × BitVec 32)
  resp : Option (BitVec 32 × List (BitVec 8))
  deriving DecidableEq, Repr

/-- A remote request as it arrives (R363, R371): target context, PSN, port, flat address, length, key and operation. -/
structure RmaReq where
  k    : Nat
  i    : Nat
  psn  : BitVec 32
  src  : BitVec 12
  port : Nat
  flat : BitVec 64
  len  : Nat
  key  : BitVec 32
  e2e  : Bool
  auth : Bool
  data : List (BitVec 8)
  op   : BitVec 4
  half : Bool
  cmp  : BitVec 64
  deriving DecidableEq, Repr

/-- A placement packet as it arrives (R376, R377). -/
structure PlacePkt where
  k     : Nat
  i     : Nat
  psn   : BitVec 32
  src   : BitVec 12
  win   : BitVec 10
  arm   : BitVec 16
  coord : List Nat
  shape : List Nat
  loges : BitVec 2
  key   : BitVec 32
  sec   : Bool
  sdi   : BitVec 12
  auth  : Bool
  port  : Nat
  data  : List (BitVec 8)
  deriving DecidableEq, Repr

/-- The fields that the members of a collective compare (R405); `digest` is that of the rank list of a list group, and `perm` that of the
permutation table. -/
structure CollHdr where
  op     : BitVec 8
  dtype  : BitVec 8
  redop  : BitVec 8
  sec    : Bool
  sdi    : BitVec 12
  flags  : BitVec 9
  g0     : BitVec 64
  g1     : BitVec 64
  g2     : BitVec 64
  root   : BitVec 16
  count  : BitVec 48
  digest : BitVec 64
  perm   : BitVec 64
  sk     : BitVec 64
  deriving DecidableEq, Repr

/-- A list group (R401). -/
def CollHdr.isList (h : CollHdr) : Bool := h.g0.extractLsb' 62 2 = 1#2

/-- GROUP1 as far as it names the group: the address of a list does not (R405). -/
def CollHdr.gBox (h : CollHdr) : BitVec 64 := if h.isList then 0#64 else h.g1

/-- The fields that are compared (R405). -/
def CollHdr.compared (h : CollHdr) : CollHdr := { h with g1 := h.gBox }

/-- What a die sends home: the modified bytes of its copy of a line, which is dropped too where it is evicted (R354). -/
structure DieBatch where
  line  : Nat
  evict : Bool
  deriving DecidableEq, Repr

/-- A collective packet as it arrives (R404, R405) on a target context: elements of its sender's operand from an offset on, and the
status of the sender's sketch. -/
structure CollPkt where
  k      : Nat
  i      : Nat
  psn    : BitVec 32
  src    : BitVec 12
  auth   : Bool
  port   : Nat
  launch : BitVec 32
  num    : Nat
  hdr    : CollHdr
  off    : Nat
  elems  : List (BitVec 64)
  sk     : BitVec 2
  deriving DecidableEq, Repr

/-- The fields of a WAITMEM packet (R428). -/
structure WaitPkt where
  cond : BitVec 3
  w64  : Bool
  a    : BitVec 64
  v    : BitVec 64
  mask : BitVec 64
  tmo  : BitVec 48
  deriving DecidableEq, Repr

/-- The outcome of the work of a boot stage (R431): success, with the domes that failed their test, or a failure
with its code of Table 21-4. -/
inductive StageResult where
  | ok (failed : BitVec 96)
  | fail (code : BitVec 8)
  deriving DecidableEq, Repr

/-- A firmware image (R433): its bytes as they stand in the slot, the link-core images as bytes at local addresses, the bases that the capability
block reports, the physical address of the QPOOL word of the region that is created for the link cores (R387), the bytes that stage 2
loads at physical addresses, the page-table root of every die, and the start vector and record of each die's supervisor launch. -/
structure FwImage where
  raw    : List (BitVec 8)
  code   : List (List (Nat × BitVec 8))
  regtab : BitVec 64
  qtbase : BitVec 64
  pool   : BitVec 64
  bytes  : List (Nat × BitVec 8)
  ttroot : BitVec 52
  sups   : List (Nat × List (BitVec 64) × BitVec 52)
  deriving DecidableEq, Repr

/-- The operations and events of the device, one constructor for each row of the opcode table. The constructors
from `add` to `tmark` that carry a format record are syllables of the Eccor set; those of the Dolelm set begin
with `dol`; the packets of the command queues carry their fields; all others are the steps that the hardware or
the outside world takes, with the agent they concern. -/
inductive Instr where
  /-- ADD (R91): Scalar ALU0 add: d gets a+b modulo 2^64. -/
  | add (o : S3)
  /-- SUB (R91): Scalar ALU0 subtract: d gets a-b. -/
  | sub (o : S3)
  /-- AND (R91): Scalar ALU0 bitwise AND. -/
  | and (o : S3)
  /-- OR (R91): Scalar ALU0 bitwise OR. -/
  | or (o : S3)
  /-- XOR (R91): Scalar ALU0 bitwise XOR. -/
  | xor (o : S3)
  /-- ANDN (R91): Scalar ALU0 a AND NOT b. -/
  | andn (o : S3)
  /-- ORN (R91): Scalar ALU0 a OR NOT b. -/
  | orn (o : S3)
  /-- XNOR (R91): Scalar ALU0 NOT (a XOR b). -/
  | xnor (o : S3)
  /-- SLL (R91): Shift left logical by b[5:0]. -/
  | sll (o : S3)
  /-- SRL (R91): Shift right logical by b[5:0]. -/
  | srl (o : S3)
  /-- SRA (R91): Shift right arithmetic by b[5:0]. -/
  | sra (o : S3)
  /-- ROL (R91): Rotate left by b[5:0]. -/
  | rol (o : S3)
  /-- MIN (R91): Signed minimum of a and b. -/
  | min (o : S3)
  /-- MAX (R91): Signed maximum of a and b. -/
  | max (o : S3)
  /-- MINU (R91): Unsigned minimum of a and b. -/
  | minu (o : S3)
  /-- MAXU (R91): Unsigned maximum of a and b. -/
  | maxu (o : S3)
  /-- MUL (R91): Low 64 bits of a * b, latency 3. -/
  | mul (o : S3)
  /-- MULH (R91): High 64 bits of the signed 128-bit product. -/
  | mulh (o : S3)
  /-- MULHU (R91): High 64 bits of the unsigned 128-bit product. -/
  | mulhu (o : S3)
  /-- DIV (R92): Signed division truncating toward zero, never trapping. -/
  | div (o : S3)
  /-- DIVU (R92): Unsigned division; all ones on division by zero. -/
  | divu (o : S3)
  /-- REM (R92): Signed remainder with the sign of a. -/
  | rem (o : S3)
  /-- REMU (R92): Unsigned remainder; a on division by zero. -/
  | remu (o : S3)
  /-- ABSD (R91): Absolute difference of signed a and b written unsigned. -/
  | absd (o : S3)
  /-- CLZ (R91): Count leading zero bits of a. -/
  | clz (o : S3)
  /-- CTZ (R91): Count trailing zero bits of a. -/
  | ctz (o : S3)
  /-- POPC (R91): Count one bits of a. -/
  | popc (o : S3)
  /-- BREV (R91): Reverse the bit order of a. -/
  | brev (o : S3)
  /-- SEXT8 (R91): Sign-extend a[7:0]. -/
  | sext8 (o : S3)
  /-- SEXT16 (R91): Sign-extend a[15:0]. -/
  | sext16 (o : S3)
  /-- SEXT32 (R91): Sign-extend a[31:0]. -/
  | sext32 (o : S3)
  /-- ZEXT32 (R91): Zero-extend a[31:0]. -/
  | zext32 (o : S3)
  /-- CMP.EQ (R96): Predicate set when a equals b. -/
  | cmpEq (o : S3)
  /-- CMP.NE (R96): Predicate set when a differs from b. -/
  | cmpNe (o : S3)
  /-- CMP.LT (R96): Predicate set when a < b signed. -/
  | cmpLt (o : S3)
  /-- CMP.LTU (R96): Predicate set when a < b unsigned. -/
  | cmpLtu (o : S3)
  /-- CMP.GE (R96): Predicate set when a >= b signed. -/
  | cmpGe (o : S3)
  /-- CMP.GEU (R96): Predicate set when a >= b unsigned. -/
  | cmpGeu (o : S3)
  /-- CMP.TZ (R96): Predicate set when a is zero. -/
  | cmpTz (o : S3)
  /-- CMP.TNZ (R96): Predicate set when a is non-zero. -/
  | cmpTnz (o : S3)
  /-- ADDI (R93): Add a sign-extended immediate to a. -/
  | addi (o : SI)
  /-- ANDI (R93): AND a with a sign-extended immediate. -/
  | andi (o : SI)
  /-- ORI (R93): OR a with a sign-extended immediate. -/
  | ori (o : SI)
  /-- XORI (R93): XOR a with a sign-extended immediate. -/
  | xori (o : SI)
  /-- SLLI (R94): Shift left logical by an immediate amount. -/
  | slli (o : SI)
  /-- SRLI (R94): Shift right logical by an immediate amount. -/
  | srli (o : SI)
  /-- SRAI (R94): Shift right arithmetic by an immediate amount. -/
  | srai (o : SI)
  /-- ROLI (R94): Rotate left by an immediate amount. -/
  | roli (o : SI)
  /-- CMPI.EQ (R96): Predicate set when a equals the immediate. -/
  | cmpiEq (o : SI)
  /-- CMPI.NE (R96): Predicate set when a differs from the immediate. -/
  | cmpiNe (o : SI)
  /-- CMPI.LT (R96): Predicate set when a < immediate signed. -/
  | cmpiLt (o : SI)
  /-- CMPI.LTU (R96): Predicate set when a < immediate unsigned. -/
  | cmpiLtu (o : SI)
  /-- CMPI.GE (R96): Predicate set when a >= immediate signed. -/
  | cmpiGe (o : SI)
  /-- CMPI.GEU (R96): Predicate set when a >= immediate unsigned. -/
  | cmpiGeu (o : SI)
  /-- MOVI (R95): Load a sign-extended 36-bit immediate. -/
  | movi (o : MovI)
  /-- MOVH (R95): Replace the high 32 bits of d with an immediate, unguarded. -/
  | movh (o : MovH)
  /-- BEXT (R99): Extract a signed bit field. -/
  | bext (o : S3X)
  /-- BEXTU (R99): Extract an unsigned bit field. -/
  | bextu (o : S3X)
  /-- BINS (R99): Insert a bit field of b into a. -/
  | bins (o : S3X)
  /-- LOP3 (R100): Three-input bitwise truth-table function. -/
  | lop3 (o : S3X)
  /-- SEL (R101): Select a or b by a predicate; always writes. -/
  | sel (o : S3X)
  /-- PAND (R97): Predicate AND. -/
  | pand (o : S3)
  /-- POR (R97): Predicate OR. -/
  | por (o : S3)
  /-- PXOR (R97): Predicate XOR. -/
  | pxor (o : S3)
  /-- PANDN (R97): Predicate pa AND NOT pb. -/
  | pandn (o : S3)
  /-- PNOT (R97): Predicate NOT. -/
  | pnot (o : S3)
  /-- PDANY (R98): Dome vote writing the OR of the voters' predicates. -/
  | pdany (o : S3)
  /-- PDALL (R98): Dome vote writing the AND of the voters' predicates. -/
  | pdall (o : S3)
  /-- PTOS (R97): Copy all predicates into a scalar register. -/
  | ptos (o : S3)
  /-- FADD.S (R102): FP32 add rounded once. -/
  | faddS (o : S3)
  /-- FSUB.S (R102): FP32 subtract rounded once. -/
  | fsubS (o : S3)
  /-- FMUL.S (R102): FP32 multiply rounded once. -/
  | fmulS (o : S3)
  /-- FDIV.S (R102): FP32 divide rounded once, latency 12. -/
  | fdivS (o : S3)
  /-- FMIN.S (R102): FP32 minimum by R79. -/
  | fminS (o : S3)
  /-- FMAX.S (R102): FP32 maximum by R79. -/
  | fmaxS (o : S3)
  /-- FSQRT.S (R102): FP32 square root rounded once. -/
  | fsqrtS (o : S3)
  /-- FABS.S (R102): Clear the FP32 sign bit. -/
  | fabsS (o : S3)
  /-- FADD.D (R102): FP64 add rounded once. -/
  | faddD (o : S3)
  /-- FSUB.D (R102): FP64 subtract rounded once. -/
  | fsubD (o : S3)
  /-- FMUL.D (R102): FP64 multiply rounded once. -/
  | fmulD (o : S3)
  /-- FDIV.D (R102): FP64 divide rounded once, latency 20. -/
  | fdivD (o : S3)
  /-- FMIN.D (R102): FP64 minimum by R79. -/
  | fminD (o : S3)
  /-- FMAX.D (R102): FP64 maximum by R79. -/
  | fmaxD (o : S3)
  /-- FSQRT.D (R102): FP64 square root rounded once. -/
  | fsqrtD (o : S3)
  /-- FABS.D (R102): Clear the FP64 sign bit. -/
  | fabsD (o : S3)
  /-- FMA.S (R103): FP32 fused a * b+c rounded once. -/
  | fmaS (o : S3X)
  /-- FMS.S (R103): FP32 fused a * b−c rounded once. -/
  | fmsS (o : S3X)
  /-- FNMA.S (R103): FP32 fused −(a * b)+c rounded once. -/
  | fnmaS (o : S3X)
  /-- FNMS.S (R103): FP32 fused −(a * b)−c rounded once. -/
  | fnmsS (o : S3X)
  /-- FMA.D (R103): FP64 fused a * b+c rounded once. -/
  | fmaD (o : S3X)
  /-- FMS.D (R103): FP64 fused a * b−c rounded once. -/
  | fmsD (o : S3X)
  /-- FNMA.D (R103): FP64 fused −(a * b)+c rounded once. -/
  | fnmaD (o : S3X)
  /-- FNMS.D (R103): FP64 fused −(a * b)−c rounded once. -/
  | fnmsD (o : S3X)
  /-- FEQ.S (R104): FP32 equality compare to a predicate. -/
  | feqS (o : S3)
  /-- FLT.S (R104): FP32 less-than compare to a predicate. -/
  | fltS (o : S3)
  /-- FLE.S (R104): FP32 less-or-equal compare to a predicate. -/
  | fleS (o : S3)
  /-- FUN.S (R104): FP32 unordered test to a predicate. -/
  | funS (o : S3)
  /-- FEQ.D (R104): FP64 equality compare to a predicate. -/
  | feqD (o : S3)
  /-- FLT.D (R104): FP64 less-than compare to a predicate. -/
  | fltD (o : S3)
  /-- FLE.D (R104): FP64 less-or-equal compare to a predicate. -/
  | fleD (o : S3)
  /-- FUN.D (R104): FP64 unordered test to a predicate. -/
  | funD (o : S3)
  /-- CVT.S.D (R105): Convert FP64 to FP32. -/
  | cvtSD (o : S3)
  /-- CVT.D.S (R105): Convert FP32 to FP64 exactly. -/
  | cvtDS (o : S3)
  /-- CVT.S.L (R105): Convert signed 64-bit integer to FP32. -/
  | cvtSL (o : S3)
  /-- CVT.S.LU (R105): Convert unsigned 64-bit integer to FP32. -/
  | cvtSLu (o : S3)
  /-- CVT.D.L (R105): Convert signed 64-bit integer to FP64. -/
  | cvtDL (o : S3)
  /-- CVT.D.LU (R105): Convert unsigned 64-bit integer to FP64. -/
  | cvtDLu (o : S3)
  /-- CVT.L.S (R105): Convert FP32 to signed 64-bit integer. -/
  | cvtLS (o : S3)
  /-- CVT.LU.S (R105): Convert FP32 to unsigned 64-bit integer. -/
  | cvtLuS (o : S3)
  /-- CVT.L.D (R105): Convert FP64 to signed 64-bit integer. -/
  | cvtLD (o : S3)
  /-- CVT.LU.D (R105): Convert FP64 to unsigned 64-bit integer. -/
  | cvtLuD (o : S3)
  /-- CVT.H.S (R105): Convert FP32 to FP16 in bits [15:0]. -/
  | cvtHS (o : S3)
  /-- CVT.S.H (R105): Convert FP16 to FP32 exactly. -/
  | cvtSH (o : S3)
  /-- BR (R106): Relative branch, guarded in word 0. -/
  | br (o : Br)
  /-- CALL (R106): Relative call pushing the return address. -/
  | call (o : Br)
  /-- JR (R107): Jump to the address in a register. -/
  | jr (o : Ctl)
  /-- JRL (R107): Jump to a register address and push the return address. -/
  | jrl (o : Ctl)
  /-- RET (R107): Pop the return-address store and jump there. -/
  | ret (o : Ctl)
  /-- LOOP (R111): Start a hardware loop over a body of bundles with a register count. -/
  | loop (o : LoopI)
  /-- NOP (R116): Do nothing. -/
  | nop (o : Ctl)
  /-- JOIN.ALL (R162): Stream join waiting for every core of the tag's detach set. -/
  | joinAll (o : Ctl)
  /-- JOIN.ANY (R163): Stream join opening a window of up to 256 cycles. -/
  | joinAny (o : Ctl)
  /-- SUSPEND (R184): Dome-uniform end of the continuation writing its record as SUSPENDED. -/
  | suspend (o : Ctl)
  /-- YIELD (R184): Dome-uniform end of the continuation re-enqueuing its record as READY. -/
  | yield (o : Ctl)
  /-- EXIT (R185): The core enters the exited state; the record ends when all cores exit. -/
  | exit (o : Ctl)
  /-- TRAP (R117): Raise TRAPI with a code. -/
  | trap (o : Ctl)
  /-- BRK (R117): Raise BRK, or stop the core when BRKSTOP is set. -/
  | brk (o : Ctl)
  /-- DSYNC (R116): Dome-uniform issue alignment of all attached cores. -/
  | dsync (o : Ctl)
  /-- IFENCE (R119): Discard fetched-ahead bundles and mark segments stale. -/
  | ifence (o : Ctl)
  /-- RFT (R118): Return from trap to TRAPPC, clearing INTRAP. -/
  | rft (o : Ctl)
  /-- SEGHINT (R120): Hint that an overlay segment will soon be entered. -/
  | seghint (o : Ctl)
  /-- MFC (R121): Read a control register into a scalar register. -/
  | mfc (o : Ctl)
  /-- MTC (R121): Write a control register. -/
  | mtc (o : Ctl)
  /-- MSET (R121): OR bits into a control register. -/
  | mset (o : Ctl)
  /-- MCLR (R121): Clear bits of a control register. -/
  | mclr (o : Ctl)
  /-- PFXM (R48): Memory prefix setting order, scope, space and cache of the next syllable. -/
  | pfxm (o : PfxM)
  /-- PFXA (R49): Arithmetic prefix setting rounding, saturation, NaN and FTZ of the next syllable. -/
  | pfxa (o : PfxA)
  /-- LD.8 (R206): Load 8 bits zero-extended. -/
  | ld8 (o : Mem)
  /-- LD.16 (R206): Load 16 bits zero-extended. -/
  | ld16 (o : Mem)
  /-- LD.32 (R206): Load 32 bits zero-extended. -/
  | ld32 (o : Mem)
  /-- LD.64 (R206): Load 64 bits. -/
  | ld64 (o : Mem)
  /-- LD.8S (R206): Load 8 bits sign-extended. -/
  | ld8s (o : Mem)
  /-- LD.16S (R206): Load 16 bits sign-extended. -/
  | ld16s (o : Mem)
  /-- LD.32S (R206): Load 32 bits sign-extended. -/
  | ld32s (o : Mem)
  /-- ST.8 (R206): Store 8 bits. -/
  | st8 (o : Mem)
  /-- ST.16 (R206): Store 16 bits. -/
  | st16 (o : Mem)
  /-- ST.32 (R206): Store 32 bits. -/
  | st32 (o : Mem)
  /-- ST.64 (R206): Store 64 bits. -/
  | st64 (o : Mem)
  /-- VLD (R147): Vector load of the named lane groups. -/
  | vld (o : VMem)
  /-- VST (R147): Vector store of the named lane groups. -/
  | vst (o : VMem)
  /-- VGATH (R148): Indexed vector gather. -/
  | vgath (o : VIdx)
  /-- VSCAT (R148): Indexed vector scatter. -/
  | vscat (o : VIdx)
  /-- AADD (R209): Atomic add at the home, returning or reduction form. -/
  | aadd (o : Atom)
  /-- AMIN (R209): Atomic signed minimum at the home. -/
  | amin (o : Atom)
  /-- AMAX (R209): Atomic signed maximum at the home. -/
  | amax (o : Atom)
  /-- AAND (R209): Atomic AND at the home. -/
  | aand (o : Atom)
  /-- AOR (R209): Atomic OR at the home. -/
  | aor (o : Atom)
  /-- AXOR (R209): Atomic XOR at the home. -/
  | axor (o : Atom)
  /-- AXCHG (R209): Atomic exchange at the home. -/
  | axchg (o : Atom)
  /-- AFADD (R210): Atomic floating add rounded by RNE at the home. -/
  | afadd (o : Atom)
  /-- ACAS (R213): Atomic compare-and-swap at the home. -/
  | acas (o : Acas)
  /-- TLOOK (R201): Look up the scratchpad tag table for an address. -/
  | tlook (o : Ctl)
  /-- TSET (R201): Record a granule tag in a slot, invalidating duplicates. -/
  | tset (o : Ctl)
  /-- TINV (R201): Invalidate the matching tag entry. -/
  | tinv (o : Ctl)
  /-- TPIN (R201): Pin the matching tag entry. -/
  | tpin (o : Ctl)
  /-- TUNPIN (R201): Unpin the matching tag entry. -/
  | tunpin (o : Ctl)
  /-- MONITOR (R214): Arm the core's monitor on a line and wait for confirmation. -/
  | monitor (o : Ctl)
  /-- WAITM (R216): Wait for a monitor event or the timer class expiry. -/
  | waitm (o : Ctl)
  /-- FENCE (R218): Stall until earlier accesses meet the ordering of its ORD and scope. -/
  | fence (o : Ctl)
  /-- EFENCE (R219): Stall until earlier engine jobs of this core complete. -/
  | efence (o : Ctl)
  /-- CINV (R220): Invalidate a line's L1 copy and, at package scope, its L2 copy. -/
  | cinv (o : Ctl)
  /-- CWB (R220): Write back a modified L2 copy of a line homed on another die. -/
  | cwb (o : Ctl)
  /-- CPREF (R221): Prefetch a line into the L1. -/
  | cpref (o : Ctl)
  /-- DEFER (R169): Append elements of active lanes to a deferral-queue path. -/
  | defer (o : Vec)
  /-- DQCNT (R169): Read the element counts of a deferral path. -/
  | dqcnt (o : Vec)
  /-- DQDRAIN (R169): Remove up to n on-chip elements of a deferral path into registers. -/
  | dqdrain (o : Vec)
  /-- VADD (R130): Element-wise vector add. -/
  | vadd (o : Vec)
  /-- VSUB (R130): Element-wise vector subtract. -/
  | vsub (o : Vec)
  /-- VMUL (R130): Element-wise vector multiply. -/
  | vmul (o : Vec)
  /-- VMIN (R130): Element-wise vector minimum. -/
  | vmin (o : Vec)
  /-- VMAX (R130): Element-wise vector maximum. -/
  | vmax (o : Vec)
  /-- VABS (R130): Element-wise absolute value. -/
  | vabs (o : Vec)
  /-- VNEG (R130): Element-wise negation. -/
  | vneg (o : Vec)
  /-- VMULH (R130): High half of the signed integer product. -/
  | vmulh (o : Vec)
  /-- VAND (R132): Bitwise vector AND. -/
  | vand (o : Vec)
  /-- VOR (R132): Bitwise vector OR. -/
  | vor (o : Vec)
  /-- VXOR (R132): Bitwise vector XOR. -/
  | vxor (o : Vec)
  /-- VANDN (R132): Bitwise vector a AND NOT b. -/
  | vandn (o : Vec)
  /-- VNOT (R132): Bitwise vector NOT. -/
  | vnot (o : Vec)
  /-- VSLL (R132): Element shift left logical. -/
  | vsll (o : Vec)
  /-- VSRL (R132): Element shift right logical. -/
  | vsrl (o : Vec)
  /-- VSRA (R132): Element shift right arithmetic. -/
  | vsra (o : Vec)
  /-- VLOP3 (R133): Three-input vector truth-table function. -/
  | vlop3 (o : Vec)
  /-- VFMA (R131): Vector fused a * b+c rounded once. -/
  | vfma (o : Vec)
  /-- VFMS (R131): Vector fused a * b−c rounded once. -/
  | vfms (o : Vec)
  /-- VFNMA (R131): Vector fused −(a * b)+c rounded once. -/
  | vfnma (o : Vec)
  /-- VFNMS (R131): Vector fused −(a * b)−c rounded once. -/
  | vfnms (o : Vec)
  /-- VEQ (R134): Vector equality compare into a mask. -/
  | veq (o : Vec)
  /-- VNE (R134): Vector inequality compare into a mask. -/
  | vne (o : Vec)
  /-- VLT (R134): Vector less-than compare into a mask. -/
  | vlt (o : Vec)
  /-- VLE (R134): Vector less-or-equal compare into a mask. -/
  | vle (o : Vec)
  /-- VGT (R134): Vector greater-than compare into a mask. -/
  | vgt (o : Vec)
  /-- VGE (R134): Vector greater-or-equal compare into a mask. -/
  | vge (o : Vec)
  /-- VUN (R134): Vector unordered test into a mask. -/
  | vun (o : Vec)
  /-- VRADD (R135): Pairwise-tree vector add reduction to element 0. -/
  | vradd (o : Vec)
  /-- VRMAX (R135): Pairwise-tree vector maximum reduction. -/
  | vrmax (o : Vec)
  /-- VRMIN (R135): Pairwise-tree vector minimum reduction. -/
  | vrmin (o : Vec)
  /-- VRAND (R135): Pairwise-tree bitwise AND reduction. -/
  | vrand (o : Vec)
  /-- VSHUF (R136): Shuffle elements by an index vector. -/
  | vshuf (o : Vec)
  /-- VSLIDEU (R136): Slide elements up by k. -/
  | vslideu (o : Vec)
  /-- VSLIDED (R136): Slide elements down by k. -/
  | vslided (o : Vec)
  /-- VZIP (R136): Interleave halves of two vectors. -/
  | vzip (o : Vec)
  /-- VUNZIP (R136): De-interleave two vectors. -/
  | vunzip (o : Vec)
  /-- VMOV (R136): Vector register move. -/
  | vmov (o : Vec)
  /-- VMOV (R137): Move one element of a vector into a scalar register. -/
  | vmovToScalar (o : Vec)
  /-- VBCST (R136): Broadcast one element to all active elements. -/
  | vbcst (o : Vec)
  /-- VBCST (R136): Broadcast a scalar register to all active elements. -/
  | vbcstScalar (o : Vec)
  /-- VCVT (R141): Convert vector elements between types and parts. -/
  | vcvt (o : Vec)
  /-- VCVTQ (R144): Quantise elements against SCL block scales into QF. -/
  | vcvtq (o : Vec)
  /-- VDQ (R145): Dequantise QF codes with SCL block scales. -/
  | vdq (o : Vec)
  /-- VMAXEXP (R143): Compute block scales into SCL after three issue cycles. -/
  | vmaxexp (o : Vec)
  /-- VSCLMV (R146): Copy both SCL entries into a vector register. -/
  | vsclmvToVector (o : Vec)
  /-- VSCLMV (R146): Load both SCL entries from a vector register. -/
  | vsclmvToScl (o : Vec)
  /-- VRCP (R139): Element reciprocal rounded once. -/
  | vrcp (o : Vec)
  /-- VRSQ (R139): Element reciprocal square root rounded once. -/
  | vrsq (o : Vec)
  /-- VEXP2 (R139): Element base-2 exponential rounded once. -/
  | vexp2 (o : Vec)
  /-- VLOG2 (R139): Element base-2 logarithm rounded once. -/
  | vlog2 (o : Vec)
  /-- VCMUL (R138): Complex multiply part by part. -/
  | vcmul (o : Vec)
  /-- VCMULJ (R138): Complex multiply by the conjugate. -/
  | vcmulj (o : Vec)
  /-- VCFMA (R138): Complex fused multiply-add. -/
  | vcfma (o : Vec)
  /-- MAND (R140): Mask AND. -/
  | mand (o : Vec)
  /-- MOR (R140): Mask OR. -/
  | mor (o : Vec)
  /-- MXOR (R140): Mask XOR. -/
  | mxor (o : Vec)
  /-- MANDN (R140): Mask AND NOT. -/
  | mandn (o : Vec)
  /-- MNOT (R140): Mask NOT. -/
  | mnot (o : Vec)
  /-- MPOPC (R140): Count set mask bits into a vector register. -/
  | mpopc (o : Vec)
  /-- MFIRST (R140): Index of the lowest set mask bit into a vector register. -/
  | mfirst (o : Vec)
  /-- SKUPDV (R298): Post count-sketch updates for active lanes. -/
  | skupdv (o : Vec)
  /-- SKQRYV (R299): Query the count sketch for active lanes. -/
  | skqryv (o : Vec)
  /-- ESET (R262): Write a pair of engine parameter registers. -/
  | eset (o : Eset)
  /-- MMA (R284): Submit a matrix multiply-accumulate job. -/
  | mma (o : En)
  /-- MZERO (R288): Submit a job zeroing accumulator tiles. -/
  | mzero (o : En)
  /-- MDRAIN (R289): Submit a job converting accumulator elements to memory. -/
  | mdrain (o : En)
  /-- MCFG (R281): Set the fusion mode of a matrix array between its jobs. -/
  | mcfg (o : En)
  /-- COPY (R278): Submit a strided copy job. -/
  | copy (o : En)
  /-- CSTRM (R279): Submit a job appending bytes to an array operand stream. -/
  | cstrm (o : En)
  /-- TWAIT (R273): Wait until the named task slots are free, reporting faults. -/
  | twait (o : En)
  /-- TCANCEL (R274): Cancel the jobs in the named task slots. -/
  | tcancel (o : En)
  /-- TDEP (R275): Add dependence edges to the next submitted job. -/
  | tdep (o : En)
  /-- SKUPD (R306): Submit a sketch update job. -/
  | skupd (o : En)
  /-- SKADD (R307): Submit a job adding one sketch into another. -/
  | skadd (o : En)
  /-- SKCLR (R308): Submit a job clearing a sketch. -/
  | skclr (o : En)
  /-- PHINIT (R244): Initialise a phaser at its home. -/
  | phinit (o : En)
  /-- PHREG (R245): Register membership for the next phase. -/
  | phreg (o : En)
  /-- PHDROP (R245): Drop membership for the next phase. -/
  | phdrop (o : En)
  /-- PHSIG (R246): Post a signal to a phaser. -/
  | phsig (o : En)
  /-- PHWAIT (R247): Wait for a phaser phase to end or ERR. -/
  | phwait (o : En)
  /-- PHSW (R247): Signal a phaser and wait for the phase to end. -/
  | phsw (o : En)
  /-- RDSEND (R253): Submit a router tree-reduction member job. -/
  | rdsend (o : En)
  /-- XWR (R370): Submit a remote RMA write job. -/
  | xwr (o : En)
  /-- XWR (R376): Submit a placement job sending a box of chunks to a window. -/
  | xwrPlace (o : En)
  /-- XRD (R370): Submit a remote read job. -/
  | xrd (o : En)
  /-- XAMO (R371): Submit a remote atomic job. -/
  | xamo (o : En)
  /-- XARM (R373): Submit a job arming a receive window. -/
  | xarm (o : En)
  /-- XCOLL (R399): Submit a collective described by a parameter block. -/
  | xcoll (o : En)
  /-- TMARK (R340): Queue a TMARK trace record. -/
  | tmark (o : En)
  /-- ADD (R391): Link-core add. -/
  | dolAdd (o : DReg)
  /-- SUB (R391): Link-core subtract. -/
  | dolSub (o : DReg)
  /-- AND (R391): Link-core AND. -/
  | dolAnd (o : DReg)
  /-- OR (R391): Link-core OR. -/
  | dolOr (o : DReg)
  /-- XOR (R391): Link-core XOR. -/
  | dolXor (o : DReg)
  /-- SLL (R391): Link-core shift left by b[4:0]. -/
  | dolSll (o : DReg)
  /-- SRL (R391): Link-core shift right by b[4:0]. -/
  | dolSrl (o : DReg)
  /-- ADDI (R391): Link-core add immediate. -/
  | dolAddi (o : DImm)
  /-- ANDI (R391): Link-core AND immediate. -/
  | dolAndi (o : DImm)
  /-- ORI (R391): Link-core OR immediate. -/
  | dolOri (o : DImm)
  /-- SLLI (R391): Link-core shift left by an immediate. -/
  | dolSlli (o : DImm)
  /-- SRLI (R391): Link-core shift right by an immediate. -/
  | dolSrli (o : DImm)
  /-- LUI (R391): Link-core load upper immediate. -/
  | dolLui (o : DImm)
  /-- LW (R391): Link-core load word from local memory. -/
  | dolLw (o : DImm)
  /-- SW (R391): Link-core store word to local memory. -/
  | dolSw (o : DImm)
  /-- LDC (R391): Load a word of a PDC record. -/
  | dolLdc (o : DImm)
  /-- STC (R391): Store a program word of a PDC record. -/
  | dolStc (o : DImm)
  /-- BEQ (R391): Branch if equal. -/
  | dolBeq (o : DBr)
  /-- BNE (R391): Branch if not equal. -/
  | dolBne (o : DBr)
  /-- BLT (R391): Branch if less, signed. -/
  | dolBlt (o : DBr)
  /-- BLTU (R391): Branch if less, unsigned. -/
  | dolBltu (o : DBr)
  /-- JALR (R391): Jump and link through a register. -/
  | dolJalr (o : DImm)
  /-- EWAIT (R392): Take the oldest event into four registers, waiting or not. -/
  | dolEwait (o : DImm)
  /-- RETX (R393): Queue an unacknowledged PSN for resending. -/
  | dolRetx (o : DReg)
  /-- SETWIN (R393): Set a PDC's congestion window. -/
  | dolSetwin (o : DReg)
  /-- SETPATH (R393): Set a PDC's port group and port mask. -/
  | dolSetpath (o : DReg)
  /-- ARMTMR (R393): Arm or disarm a PDC timer. -/
  | dolArmtmr (o : DReg)
  /-- SACK (R393): Send a selective acknowledgement at once. -/
  | dolSack (o : DReg)
  /-- NAKSEND (R393): Send a trim NAK for a PSN not received. -/
  | dolNaksend (o : DReg)
  /-- POSTC (R394): Retire acknowledged PSNs of a PDC. -/
  | dolPostc (o : DReg)
  /-- FAILC (R393): Fail a PDC's jobs and close it. -/
  | dolFailc (o : DReg)
  /-- RDSTAT (R393): Read a port-die statistic. -/
  | dolRdstat (o : DReg)
  /-- WRSTAT (R393): Write a port-die statistic. -/
  | dolWrstat (o : DReg)
  /-- HALT (R396): Halt the link core for good. -/
  | dolHalt (o : DReg)
  /-- TRAP (R396): Stop the link core with cause TRAP and restart. -/
  | dolTrap (o : DImm)
  /-- LOOP_END (R112): The loop count expires, the loop ends and control passes to E. -/
  | loopEnd (c : Nat)
  /-- MONITOR_CONFIRM (R214): The line's home confirms the arming and the core issues on. -/
  | monitorConfirm (c : Nat)
  /-- MONITOR_EVENT (R215): A write, a dropped arming or a spurious event records a pending event and ends a WAITM. -/
  | monitorEvent (c : Nat) (code : Nat)
  /-- WAITM_TIMEOUT (R216): The WAITM timer expires and the wait returns code 2. -/
  | waitmTimeout (c : Nat)
  /-- QUEUE_SPILL_REFILL (R188): The queue spill engine moves spilled entries back on chip in order. -/
  | queueSpillRefill (q : SpillQueue)
  /-- SKETCH_UPDATE_APPLY (R295): A sketch unit applies one counter update with clamping at the home. -/
  | sketchUpdateApply (c : Nat) (i : Nat)
  /-- SKETCH_QUERY_DONE (R296): The query's counter reads arrive and the median is written to the lane. -/
  | sketchQueryDone (c : Nat) (i : Nat)
  /-- PHASER_COMMAND_ARRIVE (R248): A posted PHINIT, PHREG or PHDROP is applied at the phaser's home. -/
  | phaserCommandArrive (c : Nat) (i : Nat)
  /-- PHASER_SIGNAL (R246): A signal is applied at the home, possibly ending the phase. -/
  | phaserSignal (c : Nat) (i : Nat)
  /-- PHASER_WAIT_COMPLETE (R247): The home reports completion and the waiting core issues on. -/
  | phaserWaitComplete (c : Nat)
  /-- EXPOSED_WRITEBACK (R19): A syllable of latency L writes its destination and flags at the end of issue cycle c+L−1. -/
  | exposedWriteback (c : Nat)
  /-- LOAD_COMPLETE (R21): A scoreboarded load delivers its value and releases stalled bundles. -/
  | loadComplete (c : Nat) (i : Nat)
  /-- MEMORY_PERFORM (R227): An access is performed at its home in die order. -/
  | memoryPerform (c : Nat) (i : Nat)
  /-- DIE_BATCH_WRITEBACK (R354): Modified bytes of a remote-homed L2 copy are sent home at release, eviction or timeout. -/
  | dieBatchWriteback (d : Nat) (b : DieBatch)
  /-- PAGE_WALK (R322): A four-level translation walk completes or faults. -/
  | pageWalk (d : Nat) (va : BitVec 52)
  /-- STREAM_DELIVER (R153): The Meridian front end delivers a bundle to every attached core's queue. -/
  | streamDeliver (dm : Nat)
  /-- FINDER_FILL (R157): A finder line is filled from instruction memory after a miss. -/
  | finderFill (c : Nat) (a : BitVec 52)
  /-- SEGMENT_LOAD (R173): An overlay segment is evicted and loaded into instruction memory. -/
  | segmentLoad (dm : Nat) (a : BitVec 52)
  /-- JOIN_COMPLETE (R162): A JOIN.ALL completes and waiting cores reattach. -/
  | joinComplete (dm : Nat)
  /-- JOIN_ANY_CLOSE (R163): A JOIN.ANY window closes at its timeout or early. -/
  | joinAnyClose (dm : Nat)
  /-- WAIT_BUDGET_TICK (R166): A waiting core's BUDGET is decremented every 256th cycle. -/
  | waitBudgetTick (c : Nat)
  /-- TRAP_ENTRY (R310): After a drain the core records the trap and enters its handler or forwards. -/
  | trapEntry (c : Nat) (cause : BitVec 6) (info : BitVec 64)
  /-- BUDGET_STOP (R315): BUDGET reaches zero and the core stops with cause BUDGET. -/
  | budgetStop (c : Nat)
  /-- CONTINUATION_START (R186): An idle dome takes a ready record, checks it and starts it. -/
  | continuationStart (dm : Nat)
  /-- READY_AGING (R187): A ready entry waiting 2^20 cycles rises one level. -/
  | readyAging (d : Nat)
  /-- WAKE_PORT_STORE (R183): A store to a wake port wakes a continuation record. -/
  | wakePortStore (c : Nat) (i : Nat)
  /-- WAKE_PORT_READ (R183): An LD.64 of a wake port returns the number of ready continuations. -/
  | wakePortRead (c : Nat) (i : Nat)
  /-- LAUNCH_COMPLETE (R181): LIVE reaches zero, reservations are released and the completion word is written. -/
  | launchComplete (l : Nat)
  /-- JOB_START (R271): An engine takes its oldest ready job. -/
  | jobStart (c : Nat) (eng : Nat)
  /-- JOB_END (R266): A job ends: writes performed, status written, phaser signalled, slot freed, successors released. -/
  | jobEnd (c : Nat) (slot : Nat)
  /-- JOB_FAULT (R272): A job meets an unrecoverable fault, ends with CODE 3 and cancels dependants. -/
  | jobFault (c : Nat) (slot : Nat) (cause : BitVec 6)
  /-- JOB_PARK (R326): A job meeting XLATE parks at its boundary and appends a record. -/
  | jobPark (c : Nat) (slot : Nat) (a : BitVec 64)
  /-- COPY_GRANULE (R280): A copy granule's writes are performed and the phaser signalled. -/
  | copyGranule (c : Nat) (slot : Nat)
  /-- CSTRM_GRANULE (R280): A granule enters the operand stream once room appears. -/
  | cstrmGranule (c : Nat) (slot : Nat)
  /-- MMA_STEP (R285): A matrix job consumes a step of stream bytes and accumulates. -/
  | mmaStep (c : Nat) (slot : Nat)
  /-- MCFG_APPLY (R281): The fusion mode changes between jobs and stream bytes are discarded. -/
  | mcfgApply (c : Nat) (arr : Nat)
  /-- SKETCH_JOB_GROUP (R309): A sketch job completes a group of 256 values or a 4 KiB granule. -/
  | sketchJobGroup (c : Nat) (slot : Nat)
  /-- REDUCTION_HANDOVER (R255): A member job hands its contribution to its router. -/
  | reductionHandover (c : Nat) (slot : Nat)
  /-- ROUTER_COMBINE (R256): A router forms its output in fixed order when all inputs are present. -/
  | routerCombine (d : Nat) (r : Nat)
  /-- REDUCTION_DONE (R258): The root writes the result, the status and signals the phaser. -/
  | reductionDone (c : Nat) (slot : Nat)
  /-- REDUCTION_TIMEOUT (R260): The root's timer expires; status TIMEOUT and phaser ERR. -/
  | reductionTimeout (c : Nat) (slot : Nat)
  /-- TRACE_RECORD_WRITE (R337): A queued trace record is written to the trace ring. -/
  | traceRecordWrite (c : Nat)
  /-- SAMPLE_TRIGGER (R341): The sample period expires and a SAMPLE record is queued. -/
  | sampleTrigger (c : Nat)
  /-- PMC_OVERFLOW (R347): A performance counter wraps, setting OVF and queuing an OVERFLOW record. -/
  | pmcOverflow (c : Nat) (n : Nat)
  /-- SQ_RECORD_WRITE (R317): A pending supervisor record is written to the ring and SQTAIL advanced. -/
  | sqRecordWrite (d : Nat)
  /-- CONTROL_SPACE_WRITE (R318): A supervisor write to a control-space register without behaviour of its own. -/
  | controlSpaceWrite (d : Nat) (off : Nat) (v : BitVec 64)
  /-- CCB_IMAGE_WRITE (R319): A write to a register image of a stopped core sets that register. -/
  | ccbImageWrite (c : Nat) (n : Nat) (v : BitVec 64)
  /-- RESUME (R320): Resume a stopped core at RESUMEPC or in its handler. -/
  | resume (c : Nat)
  /-- KILL (R321): Kill the continuation of the named core's dome. -/
  | kill (c : Nat)
  /-- STOP (R320): Stop a running core at its next boundary. -/
  | stop (c : Nat)
  /-- PREEMPT (R328): Pre-empt the dome in favour of a newcomer record. -/
  | preempt (c : Nat)
  /-- JOBRESUME (R327): Restart a parked job at its boundary. -/
  | jobresume (c : Nat) (slot : Nat)
  /-- JOBKILL (R327): End a parked job with CODE 3. -/
  | jobkill (c : Nat) (slot : Nat)
  /-- PARK (R320): Park a register bank in an accumulator tile during start-up or recovery. -/
  | park (c : Nat)
  /-- VICTIM_STOP (R329): The victim reaches zero drift, drains and saves its stream state; the newcomer starts. -/
  | victimStop (dm : Nat)
  /-- BANK_CLAIM (R330): A victim bank is saved and cleared at the newcomer's first access. -/
  | bankClaim (c : Nat) (b : Nat)
  /-- VICTIM_RESTORE (R333): After the newcomer ends, claimed banks, engine and stream state are restored. -/
  | victimRestore (dm : Nat)
  /-- TLBICMD (R325): Enqueue a translation shootdown. -/
  | tlbicmd (d : Nat) (v : BitVec 64)
  /-- TLBI_DONE (R325): A shootdown completes and TLBIDONE advances. -/
  | tlbiDone (d : Nat)
  /-- SOFT_ERROR (R336): An uncorrectable error is found, raising SOFTERR or ending a job and appending a record. -/
  | softError (e : SoftErr)
  /-- REMOTE_RESPONSE (R195): The answer to a remote access returns and the core issues on. -/
  | remoteResponse (c : Nat) (r : RemoteAnswer)
  /-- REMOTE_REJECTION_HELD (R195): A rejection of a posted remote store is held for a later fence. -/
  | remoteRejectionHeld (c : Nat) (a : BitVec 64)
  /-- PDC_OPEN (R386): Hardware opens a packet delivery context and queues OPEN. -/
  | pdcOpen (p : PdcKey)
  /-- PDC_IDLE_CLOSE (R386): A PDC idle for 2^28 cycles closes and queues CLOSE. -/
  | pdcIdleClose (k : Nat) (i : Nat)
  /-- PACKET_SEND (R369): The transport sends the next packet within the window on a chosen port. -/
  | packetSend (k : Nat) (i : Nat)
  /-- ACK_RECEIVED (R388): An acknowledgement arrives, queuing ACK, SACK, ECN and RTT events. -/
  | ackReceived (k : Nat) (i : Nat) (a : AckInfo)
  /-- TRIM_NAK_RECEIVED (R387): A trim NAK arrives and a TRIMNAK event is queued. -/
  | trimNakReceived (k : Nat) (i : Nat) (psn : BitVec 32)
  /-- NOT_READY_NAK_RECEIVED (R387): A not-ready NAK arrives and an NRNAK event is queued. -/
  | notReadyNakReceived (k : Nat) (i : Nat) (psn : BitVec 32)
  /-- REJECTING_NAK_RECEIVED (R372): A rejecting NAK ends the job with REMOTE and queues REJNAK. -/
  | rejectingNakReceived (k : Nat) (i : Nat) (psn : BitVec 32) (reason : Nat)
  /-- TRANSPORT_TIMEOUT (R372): TMO expires with a packet unacknowledged; the job ends with TIMEOUT. -/
  | transportTimeout (c : Nat) (slot : Nat)
  /-- RMA_WRITE_REQUEST (R363): A remote write packet is checked and performed at the target. -/
  | rmaWriteRequest (r : RmaReq)
  /-- RMA_READ_REQUEST (R363): A remote read request is checked and answered at the target. -/
  | rmaReadRequest (r : RmaReq)
  /-- RMA_ATOMIC_REQUEST (R371): A remote atomic is executed exactly once at the target. -/
  | rmaAtomicRequest (r : RmaReq)
  /-- INCOMING_SEND (R361): An incoming send operation is refused. -/
  | incomingSend (r : RmaReq)
  /-- PLACEMENT_PACKET (R377): A placement packet is judged against the window and placed or dropped. -/
  | placementPacket (p : PlacePkt)
  /-- TARGET_AUTO_ACK (R394): A target acknowledges after 16 packets or 2,048 cycles. -/
  | targetAutoAck (k : Nat) (i : Nat)
  /-- PATHFAIL (R387): A port goes down and a PATHFAIL event is queued to all link cores. -/
  | pathfail (port : Nat)
  /-- LINKUP (R387): A port comes up and a LINKUP event is queued to all link cores. -/
  | linkup (port : Nat)
  /-- LC_TIMER_EXPIRY (R393): A PDC timer armed by ARMTMR expires and queues TIMER. -/
  | lcTimerExpiry (k : Nat) (i : Nat)
  /-- COLLECTIVE_PACKET (R405): A collective packet arrives, is matched and combined or refused. -/
  | collectivePacket (p : CollPkt)
  /-- COLLECTIVE_DONE (R412): A member's collective writes and acknowledgements finish; status DONE. -/
  | collectiveDone (c : Nat) (slot : Nat)
  /-- COLLECTIVE_TIMEOUT (R412): The collective TIMEOUT expires; status EUNREACH. -/
  | collectiveTimeout (c : Nat) (slot : Nat)
  /-- EWAIT_WAKE (R392): An event arrives for a link core waiting in EWAIT. -/
  | ewaitWake (k : Nat)
  /-- LC_RESTART (R396): The root controller reloads and restarts a stopped link core. -/
  | lcRestart (k : Nat)
  /-- QUEUE_SLOT (R421): The queue processor's slot for a queue starts, reading TAIL and starting packets. -/
  | queueSlot (q : Nat)
  /-- QUEUE_ENABLE (R419): EN set to 1 is observed; the queue is checked and started at byte 0. -/
  | queueEnable (q : Nat)
  /-- QUEUE_DISABLE (R419): EN cleared to 0 is observed and the queue becomes idle. -/
  | queueDisable (q : Nat)
  /-- QUEUE_RELEASE (R423): REL written to a held queue is observed and service resumes. -/
  | queueRelease (q : Nat)
  /-- PKT_NOP (R423): NOP packet doing nothing. -/
  | pktNop (sync : Bool) (len : BitVec 8) (h : BitVec 32)
  /-- LAUNCH (R424): LAUNCH packet starting or refusing a launch. -/
  | launch (sync : Bool) (sv : BitVec 64) (cw : BitVec 64)
  /-- LAUNCH_PRE (R425): LAUNCH packet with PRE waiving the overlap check. -/
  | launchPre (sync : Bool) (sv : BitVec 64) (cw : BitVec 64)
  /-- WRITE32 (R423): WRITE32 packet writing HDATA with release. -/
  | write32 (sync : Bool) (v : BitVec 32) (a : BitVec 64)
  /-- WRITE64 (R423): WRITE64 packet writing a doubleword with release. -/
  | write64 (sync : Bool) (a : BitVec 64) (v : BitVec 64)
  /-- PKT_COPY (R423): COPY packet copying bytes by port-die hardware. -/
  | pktCopy (sync : Bool) (src : BitVec 64) (dst : BitVec 64) (len : BitVec 33)
  /-- PKT_COPY_DONE (R423): A COPY packet's writes are all performed. -/
  | pktCopyDone (q : Nat) (i : Nat)
  /-- WAITMEM (R428): WAITMEM packet waiting until a memory condition holds. -/
  | waitmem (sync : Bool) (p : WaitPkt)
  /-- WAITMEM_SKIP (R428): WAITMEM with SKIP reading once and skipping K packets when false. -/
  | waitmemSkip (sync : Bool) (k : BitVec 8) (p : WaitPkt)
  /-- WAITMEM_TIMEOUT (R428): A WAITMEM timeout passes and the queue stops with ETIMEOUT. -/
  | waitmemTimeout (q : Nat)
  /-- IB (R426): IB packet executing an indirect buffer as a nested stream. -/
  | ib (sync : Bool) (a : BitVec 64) (len : BitVec 64)
  /-- PKT_LOOP (R427): LOOP packet repeating the next N packets COUNT times. -/
  | pktLoop (sync : Bool) (n : BitVec 8) (count : BitVec 16)
  /-- FFENCE (R429): FFENCE packet discarding the stream's fetch buffer. -/
  | ffence (sync : Bool)
  /-- SIGNAL (R423): SIGNAL packet writing a 64-bit value. -/
  | signal (sync : Bool) (a : BitVec 64) (v : BitVec 64)
  /-- SIGNAL_PHASER (R423): SIGNAL packet with PH applying a phaser signal through a window. -/
  | signalPhaser (sync : Bool) (a : BitVec 64) (v : BitVec 64)
  /-- REPLAYMARK (R423): REPLAYMARK packet waiting as SYNC and writing MARK. -/
  | replaymark (sync : Bool) (mark : BitVec 32)
  /-- REPLAYMARK_HOLD (R423): REPLAYMARK with HOLD holding the queue quiescent. -/
  | replaymarkHold (sync : Bool) (mark : BitVec 32)
  /-- LOG_ROOM_RESUME (R350): LOGHEAD gives room and a STALL-policy queue resumes. -/
  | logRoomResume (q : Nat)
  /-- POWER_GOOD (R431): Power-good starts stage 0 of the staged start. -/
  | powerGood
  /-- BOOT_STAGE_ADVANCE (R431): A stage succeeds and the next begins, or fails and BOOTSTAT records it. -/
  | bootStageAdvance (r : StageResult)
  /-- DEVICE_RESET (R433): A device reset restarts the sequence and applies a new image. -/
  | deviceReset
  /-- REIMAGE (R433): A new firmware image is written over the management port. -/
  | reimage (img : FwImage)
  /-- ATTESTATION_REQUEST (R434): The root controller returns a signed attestation report. -/
  | attestationRequest (nonce : BitVec 256)
  /-- KEY_MAILBOX_GO (R435): GO installs the mailbox key in a slot and zeroes the key bytes. -/
  | keyMailboxGo
  /-- KEY_MAILBOX_ERASE (R435): GO with ERASE empties a key slot. -/
  | keyMailboxErase
  /-- DROOP_SAG (R436): A rail sag stretches the affected die's clock. -/
  | droopSag (d : Nat)
  /-- THERMAL_THROTTLE (R436): Junction at 105 °C stretches every compute-die clock. -/
  | thermalThrottle
  /-- THERMAL_RECOVER (R436): Junction below 100 °C ends the thermal stretch. -/
  | thermalRecover
  /-- THERMAL_SHUTDOWN (R436): 115 °C or inlet above 45 °C removes power. -/
  | thermalShutdown
  /-- TRIMMED_PACKET_RECEIVED (R387): A target port receives a packet that a switch has trimmed, counts it and queues a TRIMRX event to its link core. -/
  | trimmedPacketReceived (k : Nat) (i : Nat) (psn : BitVec 32)
  /-- DROOP_END (R436): The rail recovers from a sag and the affected die's clock returns to its unstretched period. -/
  | droopEnd (d : Nat)
  deriving DecidableEq, Repr

end Sys2Proof
end

