-- ==== Sys2Proof/Decode.lean ====
section
/-! DEFINITION. The decoder of the Eccor syllables (spec/02 R32 to R47) and of the Dolelm instructions (spec/17 R389,
R390), total on all words, and after it the encoder from the same tables. The decoders are marked noncomputable only because
Lean's compiler gives no code for a constructor past its 244th; its kernel evaluates them. -/

namespace Sys2Proof

/-- The encoding faults of one syllable (Table 2-9), in R47's order of preference; ILLPFX belongs to a bundle and is
found there. -/
inductive EncFault where
  | illop
  | illrsv
  | illsrc
  deriving DecidableEq, Repr

/-- What the decoder answers: the instruction, or the refusal by name. -/
inductive Decoded where
  | ok (i : Instr)
  | bad (f : EncFault)
  deriving DecidableEq, Repr

/-- MAJ, bits [7:2] of word 0 (R32). -/
def majOf (w0 : Half) : Nat := (w0.extractLsb' 2 6).toNat

/-- E, bit 1 of word 0: this syllable ends the bundle (R32). -/
def endOf (w0 : Half) : Bool := w0.getLsbD 1

/-- L, bit 0 of word 0: a 64-bit syllable (R32). -/
def longOf (w0 : Half) : Bool := w0.getLsbD 0

/-- The guard in a word that begins with G and GN (R38). -/
def guardOf (w1 : Half) : Guard := { gn := w1.getLsbD 5, g := w1.extractLsb' 0 5 }

/-- The guard word of a 64-bit form, absent in the 32-bit form. -/
def gwOf (w0 w1 : Half) : Option Guard := if longOf w0 then some (guardOf w1) else none

def s3Of (w0 w1 : Half) : S3 :=
  { fin := endOf w0, gw := gwOf w0 w1, b := w0.extractLsb' 22 7, a := w0.extractLsb' 15 7, w := w0.getLsbD 14,
    d := w0.extractLsb' 8 6 }

def s3xOf (w0 w1 : Half) : S3X :=
  { fin := endOf w0, b := w0.extractLsb' 22 7, a := w0.extractLsb' 15 7, w := w0.getLsbD 14, d := w0.extractLsb' 8 6,
    x8 := w1.extractLsb' 13 8, c := w1.extractLsb' 6 7, g := guardOf w1 }

/-- I26 and the guard of a SIX or MEMX word. -/
def ext26Of (w0 w1 : Half) : Option (BitVec 26 × Guard) :=
  if longOf w0 then some (w1.extractLsb' 6 26, guardOf w1) else none

/-- Format SI; `mask` keeps the bits of I10 that are not a minor code. -/
def siOf (mask : BitVec 10) (w0 w1 : Half) : SI :=
  { fin := endOf w0, i10 := w0.extractLsb' 22 10 &&& mask, a := w0.extractLsb' 15 7, w := w0.getLsbD 14,
    d := w0.extractLsb' 8 6, ext := ext26Of w0 w1 }

def brOf (w0 : Half) : Br :=
  { fin := endOf w0, off := w0.extractLsb' 14 18, g := { gn := w0.getLsbD 13, g := w0.extractLsb' 8 5 } }

def ctlOf (w0 w1 : Half) : Ctl :=
  { fin := endOf w0, gw := gwOf w0 w1, i6 := w0.extractLsb' 26 6, a := w0.extractLsb' 15 7, w := w0.getLsbD 14,
    d := w0.extractLsb' 8 6 }

def memOf (w0 w1 : Half) : Mem :=
  { fin := endOf w0, off := w0.extractLsb' 25 7, a := w0.extractLsb' 15 7, w := w0.getLsbD 14,
    d := w0.extractLsb' 8 6, ext := ext26Of w0 w1 }

def vmemOf (w0 : Half) : VMem :=
  { fin := endOf w0, off := w0.extractLsb' 24 7, a := w0.extractLsb' 17 7, v := w0.extractLsb' 12 5,
    lg := w0.extractLsb' 10 2, wd := w0.extractLsb' 8 2 }

def vecXOf (w1 : Half) : VecX :=
  { fmto := w1.extractLsb' 22 4, x8 := w1.extractLsb' 14 8, vc := w1.extractLsb' 9 5, msk := w1.extractLsb' 6 3,
    g := guardOf w1 }

def vidxOf (w0 w1 : Half) : VIdx :=
  { fin := endOf w0, a := w0.extractLsb' 17 7, v := w0.extractLsb' 12 5, lg := w0.extractLsb' 10 2,
    wd := w0.extractLsb' 8 2, x := vecXOf w1 }

def vecOf (w0 w1 : Half) : Vec :=
  { fin := endOf w0, vb := w0.extractLsb' 22 5, va := w0.extractLsb' 17 5, vd := w0.extractLsb' 12 5,
    lg := w0.extractLsb' 10 2, wd := w0.extractLsb' 8 2, ext := if longOf w0 then some (vecXOf w1) else none }

def atomOf (w0 w1 : Half) : Atom :=
  { fin := endOf w0, b := w0.extractLsb' 22 7, a := w0.extractLsb' 15 7, w := w0.getLsbD 14, d := w0.extractLsb' 8 6,
    ext := if longOf w0 then some { sz := w1.getLsbD 21, x8 := w1.extractLsb' 13 8, g := guardOf w1 } else none }

def acasOf (w0 w1 : Half) : Acas := { sz := w1.getLsbD 21, x := s3xOf w0 w1 }

def enOf (w0 w1 : Half) : En :=
  { fin := endOf w0, gw := gwOf w0 w1, eng := w0.extractLsb' 20 4, sb := w0.extractLsb' 14 6,
    sa := w0.extractLsb' 8 6 }

def pfxMOf (w0 : Half) : PfxM :=
  { fin := endOf w0, cache := w0.extractLsb' 17 2, space := w0.extractLsb' 15 2, scope := w0.extractLsb' 12 3,
    ord := w0.extractLsb' 9 3 }

def pfxAOf (w0 : Half) : PfxA :=
  { fin := endOf w0, ftz := w0.getLsbD 16, nan := w0.extractLsb' 14 2, sat := w0.extractLsb' 12 2,
    rnd := w0.extractLsb' 9 3 }

def dRegOf (w : Half) : DReg := { b := w.extractLsb' 14 4, a := w.extractLsb' 10 4, d := w.extractLsb' 6 4 }

def dImmOf (w : Half) : DImm := { i := w.extractLsb' 14 18, a := w.extractLsb' 10 4, d := w.extractLsb' 6 4 }

def dBrOf (w : Half) : DBr := { off := w.extractLsb' 14 18, b := w.extractLsb' 10 4, a := w.extractLsb' 6 4 }


/-- The operations of format S3, by major opcode and FN (Table 2-4). -/
def s3Row (maj fn : Nat) (o : S3) : Option Instr :=
  match maj, fn with
  | 0, 0 => some (.add o) | 0, 1 => some (.sub o) | 0, 2 => some (.and o) | 0, 3 => some (.or o)
  | 0, 4 => some (.xor o) | 0, 5 => some (.andn o) | 0, 6 => some (.orn o) | 0, 7 => some (.xnor o)
  | 1, 0 => some (.sll o) | 1, 1 => some (.srl o) | 1, 2 => some (.sra o) | 1, 3 => some (.rol o)
  | 1, 4 => some (.min o) | 1, 5 => some (.max o) | 1, 6 => some (.minu o) | 1, 7 => some (.maxu o)
  | 2, 0 => some (.mul o) | 2, 1 => some (.mulh o) | 2, 2 => some (.mulhu o) | 2, 3 => some (.div o)
  | 2, 4 => some (.divu o) | 2, 5 => some (.rem o) | 2, 6 => some (.remu o) | 2, 7 => some (.absd o)
  | 3, 0 => some (.clz o) | 3, 1 => some (.ctz o) | 3, 2 => some (.popc o) | 3, 3 => some (.brev o)
  | 3, 4 => some (.sext8 o) | 3, 5 => some (.sext16 o) | 3, 6 => some (.sext32 o) | 3, 7 => some (.zext32 o)
  | 4, 0 => some (.cmpEq o) | 4, 1 => some (.cmpNe o) | 4, 2 => some (.cmpLt o) | 4, 3 => some (.cmpLtu o)
  | 4, 4 => some (.cmpGe o) | 4, 5 => some (.cmpGeu o) | 4, 6 => some (.cmpTz o) | 4, 7 => some (.cmpTnz o)
  | 16, 0 => some (.pand o) | 16, 1 => some (.por o) | 16, 2 => some (.pxor o) | 16, 3 => some (.pandn o)
  | 16, 4 => some (.pnot o) | 16, 5 => some (.pdany o) | 16, 6 => some (.pdall o) | 16, 7 => some (.ptos o)
  | 17, 0 => some (.faddS o) | 17, 1 => some (.fsubS o) | 17, 2 => some (.fmulS o) | 17, 3 => some (.fdivS o)
  | 17, 4 => some (.fminS o) | 17, 5 => some (.fmaxS o) | 17, 6 => some (.fsqrtS o) | 17, 7 => some (.fabsS o)
  | 18, 0 => some (.faddD o) | 18, 1 => some (.fsubD o) | 18, 2 => some (.fmulD o) | 18, 3 => some (.fdivD o)
  | 18, 4 => some (.fminD o) | 18, 5 => some (.fmaxD o) | 18, 6 => some (.fsqrtD o) | 18, 7 => some (.fabsD o)
  | 20, 0 => some (.feqS o) | 20, 1 => some (.fltS o) | 20, 2 => some (.fleS o) | 20, 3 => some (.funS o)
  | 20, 4 => some (.feqD o) | 20, 5 => some (.fltD o) | 20, 6 => some (.fleD o) | 20, 7 => some (.funD o)
  | _, _ => none

/-- The conversions, by code (Table 2-5). -/
def cvtRow (code : Nat) (o : S3) : Option Instr :=
  match code with
  | 0 => some (.cvtSD o) | 1 => some (.cvtDS o) | 2 => some (.cvtSL o)
  | 3 => some (.cvtSLu o) | 4 => some (.cvtDL o) | 5 => some (.cvtDLu o)
  | 6 => some (.cvtLS o) | 7 => some (.cvtLuS o) | 8 => some (.cvtLD o)
  | 9 => some (.cvtLuD o) | 10 => some (.cvtHS o) | 11 => some (.cvtSH o)
  | _ => none

/-- SHI by kind I10[7:6] (R41). -/
def shiRow (kind : Nat) (o : SI) : Option Instr :=
  match kind with
  | 0 => some (.slli o) | 1 => some (.srli o) | 2 => some (.srai o) | 3 => some (.roli o) | _ => none

/-- CMPI by condition I10[9:7] (R41). -/
def cmpiRow (cc : Nat) (o : SI) : Option Instr :=
  match cc with
  | 0 => some (.cmpiEq o) | 1 => some (.cmpiNe o) | 2 => some (.cmpiLt o) | 3 => some (.cmpiLtu o) | 4 => some (.cmpiGe o) | 5 => some (.cmpiGeu o)
  | _ => none

/-- FMA by XF (R103). -/
def fmaRow (xf : Nat) (o : S3X) : Option Instr :=
  match xf with
  | 0 => some (.fmaS o) | 1 => some (.fmsS o) | 2 => some (.fnmaS o) | 3 => some (.fnmsS o) | 4 => some (.fmaD o) | 5 => some (.fmsD o) | 6 => some (.fnmaD o) | 7 => some (.fnmsD o)
  | _ => none

/-- The operations of format CTL, by major opcode and FN4 (Tables 2-4 and 2-6); JOIN's mode is split off by
`ctlJoin`. -/
def ctlRow (maj fn4 : Nat) (o : Ctl) : Option Instr :=
  match maj, fn4 with
  | 0x18, 0 => some (.jr o) | 0x18, 1 => some (.jrl o) | 0x18, 2 => some (.ret o)
  | 0x1A, 0 => some (.nop o) | 0x1A, 1 => some (.joinAll o) | 0x1A, 2 => some (.suspend o) | 0x1A, 3 => some (.yield o)
  | 0x1A, 4 => some (.exit o) | 0x1A, 5 => some (.trap o) | 0x1A, 6 => some (.brk o) | 0x1A, 7 => some (.dsync o)
  | 0x1A, 8 => some (.ifence o) | 0x1A, 9 => some (.rft o) | 0x1A, 10 => some (.seghint o)
  | 0x1B, 0 => some (.mfc o) | 0x1B, 1 => some (.mtc o) | 0x1B, 2 => some (.mset o) | 0x1B, 3 => some (.mclr o)
  | 0x23, 0 => some (.tlook o) | 0x23, 1 => some (.tset o) | 0x23, 2 => some (.tinv o) | 0x23, 3 => some (.tpin o)
  | 0x23, 4 => some (.tunpin o)
  | 0x24, 0 => some (.monitor o) | 0x24, 1 => some (.waitm o)
  | 0x25, 0 => some (.fence o) | 0x25, 1 => some (.efence o) | 0x25, 2 => some (.cinv o) | 0x25, 3 => some (.cwb o)
  | 0x25, 4 => some (.cpref o)
  | _, _ => none

/-- LD by X and SZ (Table 2-2); X = 1 with SZ = 3 is no load (R43). -/
def ldRow (x : Bool) (sz : Nat) (o : Mem) : Option Instr :=
  match x, sz with
  | false, 0 => some (.ld8 o) | false, 1 => some (.ld16 o) | false, 2 => some (.ld32 o) | false, 3 => some (.ld64 o)
  | true, 0 => some (.ld8s o) | true, 1 => some (.ld16s o) | true, 2 => some (.ld32s o) | _, _ => none

/-- ST by SZ (R206). -/
def stRow (sz : Nat) (o : Mem) : Option Instr :=
  match sz with
  | 0 => some (.st8 o) | 1 => some (.st16 o) | 2 => some (.st32 o) | 3 => some (.st64 o) | _ => none

/-- ATOM by FN (R209). -/
def atomRow (fn : Nat) (o : Atom) : Option Instr :=
  match fn with
  | 0 => some (.aadd o) | 1 => some (.amin o) | 2 => some (.amax o) | 3 => some (.aand o) | 4 => some (.aor o) | 5 => some (.axor o) | 6 => some (.axchg o) | 7 => some (.afadd o)
  | _ => none

/-- The vector operations, by major opcode and FN4 (Table 2-7). `x7` and `x0` are bits 7 and 0 of X8, which select the
scalar forms of VMOV and VBCST (R136) and the form of VSCLMV (R146). -/
def vecRow (maj fn4 : Nat) (x7 x0 : Bool) (o : Vec) : Option Instr :=
  match maj, fn4 with
  | 0x27, 0 => some (.defer o) | 0x27, 1 => some (.dqcnt o) | 0x27, 2 => some (.dqdrain o)
  | 0x28, 0 => some (.vadd o) | 0x28, 1 => some (.vsub o) | 0x28, 2 => some (.vmul o) | 0x28, 3 => some (.vmin o)
  | 0x28, 4 => some (.vmax o) | 0x28, 5 => some (.vabs o) | 0x28, 6 => some (.vneg o) | 0x28, 7 => some (.vmulh o)
  | 0x29, 0 => some (.vand o) | 0x29, 1 => some (.vor o) | 0x29, 2 => some (.vxor o) | 0x29, 3 => some (.vandn o)
  | 0x29, 4 => some (.vnot o) | 0x29, 5 => some (.vsll o) | 0x29, 6 => some (.vsrl o) | 0x29, 7 => some (.vsra o)
  | 0x2A, 0 => some (.vlop3 o)
  | 0x2B, 0 => some (.vfma o) | 0x2B, 1 => some (.vfms o) | 0x2B, 2 => some (.vfnma o) | 0x2B, 3 => some (.vfnms o)
  | 0x2C, 0 => some (.veq o) | 0x2C, 1 => some (.vne o) | 0x2C, 2 => some (.vlt o) | 0x2C, 3 => some (.vle o)
  | 0x2C, 4 => some (.vgt o) | 0x2C, 5 => some (.vge o) | 0x2C, 6 => some (.vun o)
  | 0x2D, 0 => some (.vradd o) | 0x2D, 1 => some (.vrmax o) | 0x2D, 2 => some (.vrmin o) | 0x2D, 3 => some (.vrand o)
  | 0x2E, 0 => some (.vshuf o) | 0x2E, 1 => some (.vslideu o) | 0x2E, 2 => some (.vslided o) | 0x2E, 3 => some (.vzip o)
  | 0x2E, 4 => some (.vunzip o) | 0x2E, 5 => some (if x7 then .vmovToScalar o else .vmov o) | 0x2E, 6 => some (if x7 then .vbcstScalar o else .vbcst o)
  | 0x2F, 0 => some (.vcvt o) | 0x2F, 1 => some (.vcvtq o) | 0x2F, 2 => some (.vdq o) | 0x2F, 3 => some (.vmaxexp o)
  | 0x2F, 4 => some (if x0 then .vsclmvToScl o else .vsclmvToVector o)
  | 0x30, 0 => some (.vrcp o) | 0x30, 1 => some (.vrsq o) | 0x30, 2 => some (.vexp2 o) | 0x30, 3 => some (.vlog2 o)
  | 0x31, 0 => some (.vcmul o) | 0x31, 1 => some (.vcmulj o) | 0x31, 2 => some (.vcfma o)
  | 0x32, 0 => some (.mand o) | 0x32, 1 => some (.mor o) | 0x32, 2 => some (.mxor o) | 0x32, 3 => some (.mandn o)
  | 0x32, 4 => some (.mnot o) | 0x32, 5 => some (.mpopc o) | 0x32, 6 => some (.mfirst o)
  | 0x34, 0 => some (.skupdv o) | 0x34, 1 => some (.skqryv o)
  | _, _ => none

/-- The engine commands, by engine and EOP (Table 2-8). -/
noncomputable def enRow (eng eop : Nat) (o : En) : Option Instr :=
  match eng, eop with
  | 0, 32 => some (.mma o) | 0, 33 => some (.mzero o) | 0, 34 => some (.mdrain o)
  | 0, 35 => some (.mcfg o) | 1, 32 => some (.mma o) | 1, 33 => some (.mzero o)
  | 1, 34 => some (.mdrain o) | 1, 35 => some (.mcfg o) | 2, 32 => some (.copy o)
  | 2, 33 => some (.cstrm o) | 3, 32 => some (.skupd o) | 3, 33 => some (.skadd o)
  | 3, 34 => some (.skclr o) | 4, 32 => some (.phinit o) | 4, 33 => some (.phreg o)
  | 4, 34 => some (.phdrop o) | 4, 35 => some (.phsig o) | 4, 36 => some (.phwait o)
  | 4, 37 => some (.phsw o) | 4, 38 => some (.rdsend o) | 5, 32 => some (.twait o)
  | 5, 33 => some (.tcancel o) | 5, 34 => some (.tdep o) | 6, 32 => some (.xwr o)
  | 6, 33 => some (.xrd o) | 6, 34 => some (.xamo o) | 6, 35 => some (.xarm o)
  | 6, 36 => some (.xcoll o) | 7, 32 => some (.tmark o)
  | _, _ => none

/-- The Dolelm operations, by OP (Table 17-6). -/
noncomputable def dolRow (op : Nat) (r : DReg) (m : DImm) (b : DBr) : Option Instr :=
  match op with
  | 0x0 => some (.dolAdd r) | 0x1 => some (.dolSub r) | 0x2 => some (.dolAnd r) | 0x3 => some (.dolOr r)
  | 0x4 => some (.dolXor r) | 0x5 => some (.dolSll r) | 0x6 => some (.dolSrl r) | 0x8 => some (.dolAddi m)
  | 0x9 => some (.dolAndi m) | 0xA => some (.dolOri m) | 0xB => some (.dolSlli m) | 0xC => some (.dolSrli m)
  | 0xD => some (.dolLui m) | 0x10 => some (.dolLw m) | 0x11 => some (.dolSw m) | 0x12 => some (.dolLdc m)
  | 0x13 => some (.dolStc m) | 0x18 => some (.dolBeq b) | 0x19 => some (.dolBne b) | 0x1A => some (.dolBlt b)
  | 0x1B => some (.dolBltu b) | 0x1C => some (.dolJalr m) | 0x20 => some (.dolEwait m) | 0x21 => some (.dolRetx r)
  | 0x22 => some (.dolSetwin r) | 0x23 => some (.dolSetpath r) | 0x24 => some (.dolArmtmr r) | 0x25 => some (.dolSack r)
  | 0x26 => some (.dolNaksend r) | 0x27 => some (.dolPostc r) | 0x28 => some (.dolFailc r) | 0x29 => some (.dolRdstat r)
  | 0x2A => some (.dolWrstat r) | 0x3E => some (.dolHalt r) | 0x3F => some (.dolTrap m)
  | _ => none

/-- Table 2-4 to 2-8: the opcodes that have only a 64-bit form. -/
def only64 (maj : Nat) : Bool :=
  [0x0B, 0x0C, 0x0D, 0x0E, 0x0F, 0x13, 0x20, 0x22, 0x2A, 0x2B, 0x34].contains maj

/-- Tables 2-4 to 2-8: the opcodes that have only a 32-bit form. -/
def only32 (maj : Nat) : Bool := [0x16, 0x17, 0x1E, 0x1F, 0x26].contains maj

/-- R40: the length is one that the opcode map lists. -/
def lenOk (maj : Nat) (long : Bool) : Bool := if long then !only32 maj else !only64 maj

/-- The bits of word 0 and word 1 that Tables 2-2 to 2-8 show as zero and no operand record holds. -/
def zeroBits (maj : Nat) : Half × Half :=
  let gw : Half := 0xFFFFFFC0#32
  match maj with
  | 0x05 | 0x06 | 0x07 | 0x08 | 0x0A | 0x0C | 0x1C => (0#32, 0#32)
  | 0x09 => (0xC0000000#32, 0#32)
  | 0x0B => (0x003F8000#32, 0#32)
  | 0x0D => (0#32, 0xFFE00000#32)
  | 0x0E | 0x0F => (0xE0000000#32, 0xFFE00000#32)
  | 0x13 => (0xE0000000#32, 0xFF000000#32)
  | 0x15 => (0xE0000000#32, gw)
  | 0x16 | 0x17 => (0#32, 0#32)
  | 0x19 => (0x00007F00#32, gw)
  | 0x1D => (0x01000000#32, 0#32)
  | 0x1E | 0x1F => (0x80000000#32, 0#32)
  | 0x20 => (0xFE000000#32, 0xFC000000#32)
  | 0x21 => (0#32, 0xFFC01FC0#32)
  | 0x22 => (0xE0000000#32, 0xFFC00000#32)
  | 0x26 => (0#32, 0#32)
  | 0x33 => (0xC0000000#32, gw)
  | _ => if 0x27 ≤ maj then (0x80000000#32, 0xFC000000#32) else (0#32, gw)

/-- The bits of a prefix that must be zero (R48, R49). -/
def pfxZero (w0 : Half) : Half := if w0.getLsbD 8 then 0xFFFE0000#32 else 0xFFF80000#32

/-- R35: the bits that must be zero and stand in no record are zero. MOVH has A = 0 and I10 = 0 and no guard. -/
def zeroOk (w0 w1 : Half) : Bool :=
  let maj := majOf w0
  let z := zeroBits maj
  w0 &&& z.1 == 0#32 && (!longOf w0 || w1 &&& z.2 == 0#32) &&
    (maj != 0x0C || w0 &&& 0xFFFF8000#32 == 0#32) && (maj != 0x26 || w0 &&& pfxZero w0 == 0#32)

/-- The answer of a table: an unassigned minor code is ILLOP (Table 2-9). -/
def rowOr (r : Option Instr) : Decoded := match r with | some i => .ok i | none => .bad .illop

/-- The instruction that the opcode and the minor code of a syllable select, with its fields; Tables 2-4 to 2-8. -/
noncomputable def rawSyllable (w0 w1 : Half) : Decoded :=
  let maj := majOf w0
  let fn := (w0.extractLsb' 29 3).toNat
  let c4 := (w0.extractLsb' 22 4).toNat
  let v4 := (w0.extractLsb' 27 4).toNat
  if !lenOk maj (longOf w0) then .bad .illop
  else match maj with
  | 0x05 => .ok (.addi (siOf 0x3FF#10 w0 w1))
  | 0x06 => .ok (.andi (siOf 0x3FF#10 w0 w1))
  | 0x07 => .ok (.ori (siOf 0x3FF#10 w0 w1))
  | 0x08 => .ok (.xori (siOf 0x3FF#10 w0 w1))
  | 0x09 => rowOr (shiRow (w0.extractLsb' 28 2).toNat (siOf 0x03F#10 w0 w1))
  | 0x0A => rowOr (cmpiRow (w0.extractLsb' 29 3).toNat (siOf 0x07F#10 w0 w1))
  | 0x0B => .ok (.movi { fin := endOf w0, imm := w0.extractLsb' 22 10 ++ w1.extractLsb' 6 26, w := w0.getLsbD 14,
                         d := w0.extractLsb' 8 6, g := guardOf w1 })
  | 0x0C => .ok (.movh { fin := endOf w0, w := w0.getLsbD 14, d := w0.extractLsb' 8 6, imm := w1 })
  | 0x0D => rowOr (match fn with
      | 0 => some (.bext (s3xOf w0 w1)) | 1 => some (.bextu (s3xOf w0 w1)) | 2 => some (.bins (s3xOf w0 w1))
      | _ => none)
  | 0x0E => .ok (.lop3 (s3xOf w0 w1))
  | 0x0F => .ok (.sel (s3xOf w0 w1))
  | 0x13 => rowOr (fmaRow (w1.extractLsb' 21 3).toNat (s3xOf w0 w1))
  | 0x15 => rowOr (cvtRow (w0.extractLsb' 22 7).toNat { s3Of w0 w1 with b := 0#7 })
  | 0x16 => .ok (.br (brOf w0))
  | 0x17 => .ok (.call (brOf w0))
  | 0x19 => .ok (.loop { fin := endOf w0, n := w0.extractLsb' 22 10, a := w0.extractLsb' 15 7, gw := gwOf w0 w1 })
  | 0x1C => match ldRow (w0.getLsbD 24) (w0.extractLsb' 22 2).toNat (memOf w0 w1) with
      | some i => .ok i
      | none => .bad .illrsv
  | 0x1D => rowOr (stRow (w0.extractLsb' 22 2).toNat (memOf w0 w1))
  | 0x1E => .ok (.vld (vmemOf w0))
  | 0x1F => .ok (.vst (vmemOf w0))
  | 0x20 => .ok (if w0.getLsbD 24 then .vscat (vidxOf w0 w1) else .vgath (vidxOf w0 w1))
  | 0x21 => rowOr (atomRow fn (atomOf w0 w1))
  | 0x22 => .ok (.acas (acasOf w0 w1))
  | 0x26 => .ok (if w0.getLsbD 8 then .pfxa (pfxAOf w0) else .pfxm (pfxMOf w0))
  | 0x33 =>
      let o := enOf w0 w1
      let eop := (w0.extractLsb' 24 6).toNat
      if 8 ≤ o.eng.toNat then .bad .illop
      else if eop < 16 then .ok (.eset { n := w0.extractLsb' 24 4, e := o })
      else rowOr (enRow o.eng.toNat eop o)
  | 0x1A =>
      let o := ctlOf w0 w1
      if c4 == 1 && o.d.getLsbD 0 then .ok (.joinAny { o with d := o.d &&& 0x3E#6 }) else rowOr (ctlRow maj c4 o)
  | 0x18 | 0x1B | 0x23 | 0x24 | 0x25 => rowOr (ctlRow maj c4 (ctlOf w0 w1))
  | _ =>
    if maj < 0x16 then rowOr (s3Row maj fn (s3Of w0 w1))
    else rowOr (vecRow maj v4 (w1.getLsbD 21 && longOf w0) (w1.getLsbD 14 && longOf w0) (vecOf w0 w1))

/-- A guard number is 0 to 23 (R38). -/
def gOk (g : Guard) : Bool := g.g.toNat < 24

def ogOk : Option Guard → Bool
  | none => true
  | some g => gOk g

def oxOk : Option (BitVec 26 × Guard) → Bool
  | none => true
  | some x => gOk x.2

/-- R37: W = 0 requires D = 0. -/
def wdOk (w : Bool) (d : BitVec 6) : Bool := w || d == 0#6

/-- R41: D names a predicate. -/
def pdOk (w : Bool) (d : BitVec 6) : Bool := wdOk w d && d.toNat < 24

/-- R44: the width is not reserved, and LG is aligned to it. -/
def lgOk (lg wd : BitVec 2) : Bool :=
  match wd.toNat with
  | 0 => true
  | 1 => lg == 0#2 || lg == 2#2
  | 2 => lg == 0#2
  | _ => false

def s3Ok (o : S3) : Bool := ogOk o.gw && wdOk o.w o.d
def s3uOk (o : S3) : Bool := s3Ok o && o.b == 0#7
def s3pOk (o : S3) : Bool := ogOk o.gw && pdOk o.w o.d
def siOk (o : SI) : Bool := oxOk o.ext && wdOk o.w o.d
def shiOk (o : SI) : Bool := siOk o && o.i10.toNat < 64 && (match o.ext with | none => true | some x => x.1 == 0#26)
def cmpiOk (o : SI) : Bool := oxOk o.ext && pdOk o.w o.d && o.i10.toNat < 128
def s3xOk (o : S3X) : Bool := gOk o.g && wdOk o.w o.d
def bfxOk (o : S3X) : Bool := s3xOk o && o.x8.toNat < 64 && 1 ≤ o.c.toNat && o.c.toNat ≤ 64
def plogOk (o : S3) : Bool := s3pOk o && o.a.toNat < 24 && o.b.toNat < 24

/-- The fields of a CTL form that the opcode does not use are zero: I6, A, and D with W. -/
def ctlOk (i6 a dw : Bool) (o : Ctl) : Bool :=
  ogOk o.gw && (i6 || o.i6 == 0#6) && (a || o.a == 0#7) && (if dw then wdOk o.w o.d else !o.w && o.d == 0#6)

def memOk (o : Mem) : Bool := oxOk o.ext && (o.ext.isNone || o.off == 0#7)
def ldOk (o : Mem) : Bool := memOk o && wdOk o.w o.d
def stOk (o : Mem) : Bool := memOk o && !o.w
def vecXOk (x : VecX) : Bool := gOk x.g && x.fmto.toNat ≤ 8
def vidxOk (o : VIdx) : Bool := lgOk o.lg o.wd && vecXOk o.x && o.x.x8 == 0#8
def atomOk (o : Atom) : Bool := wdOk o.w o.d && (match o.ext with | none => true | some x => gOk x.g)

/-- The VECX word of a vector syllable; the 32-bit form acts as zeros (R40). -/
def vx (o : Vec) : VecX := o.ext.getD { fmto := 0#4, x8 := 0#8, vc := 0#5, msk := 0#3, g := { gn := false, g := 0#5 } }

def vecOk (o : Vec) : Bool := lgOk o.lg o.wd && vecXOk (vx o)
def vbZ (o : Vec) : Bool := o.vb == 0#5
def vcZ (o : Vec) : Bool := (vx o).vc == 0#5
def xZ (o : Vec) (n : Nat) : Bool := (vx o).x8.toNat < 2 ^ n
def enOk (o : En) : Bool := ogOk o.gw
def enSb0 (o : En) : Bool := enOk o && o.sb == 0#6
def enSb16 (o : En) : Bool := enOk o && o.sb.toNat < 16

/-- The control registers that are read-only (Table 1-4). -/
def crReadOnly (n : Nat) : Bool := [9, 10, 11, 12, 13, 14, 15, 19, 20, 22, 33].contains n

/-- What makes a syllable ILLOP beyond its minor code: the control-register number (R26) and the engine number (R45);
for a term of `Instr` also that it has a length and an engine that the opcode map lists. -/
def opOk (i : Instr) : Bool :=
  match i with
  | .mfc o => o.i6.toNat < 35
  | .mtc o | .mset o | .mclr o => o.i6.toNat < 35 && !crReadOnly o.i6.toNat
  | .eset o => o.e.eng.toNat < 8
  | .mma o | .mzero o | .mdrain o | .mcfg o => o.eng.toNat < 2
  | .copy o | .cstrm o => o.eng == 2#4
  | .skupd o | .skadd o | .skclr o => o.eng == 3#4
  | .phinit o | .phreg o | .phdrop o | .phsig o | .phwait o | .phsw o | .rdsend o => o.eng == 4#4
  | .twait o | .tcancel o | .tdep o => o.eng == 5#4
  | .xwr o | .xrd o | .xamo o | .xarm o | .xcoll o => o.eng == 6#4
  | .tmark o => o.eng == 7#4
  | .vlop3 o | .vfma o | .vfms o | .vfnma o | .vfnms o | .skupdv o | .skqryv o => o.ext.isSome
  | _ => true

/-- The limits of Tables 2-4 to 2-12 on the fields of a syllable that are not scalar sources; packets and events have
no such limits. -/
def fieldsOk (i : Instr) : Bool :=
  match i with
  | .add o | .sub o | .and o | .or o | .xor o | .andn o | .orn o | .xnor o => s3Ok o
  | .sll o | .srl o | .sra o | .rol o | .min o | .max o | .minu o | .maxu o => s3Ok o
  | .mul o | .mulh o | .mulhu o | .div o | .divu o | .rem o | .remu o | .absd o => s3Ok o
  | .clz o | .ctz o | .popc o | .brev o | .sext8 o | .sext16 o | .sext32 o | .zext32 o => s3uOk o
  | .cmpEq o | .cmpNe o | .cmpLt o | .cmpLtu o | .cmpGe o | .cmpGeu o => s3pOk o
  | .cmpTz o | .cmpTnz o => s3pOk o && o.b == 0#7
  | .addi o | .andi o | .ori o | .xori o => siOk o
  | .slli o | .srli o | .srai o | .roli o => shiOk o
  | .cmpiEq o | .cmpiNe o | .cmpiLt o | .cmpiLtu o | .cmpiGe o | .cmpiGeu o => cmpiOk o
  | .movi o => gOk o.g && wdOk o.w o.d
  | .movh o => wdOk o.w o.d
  | .bext o | .bextu o | .bins o => bfxOk o
  | .lop3 o => s3xOk o
  | .sel o => s3xOk o && o.c == 0#7 && o.x8 == 0#8
  | .pand o | .por o | .pxor o | .pandn o => plogOk o
  | .pnot o | .pdany o | .pdall o => plogOk o && o.b == 0#7
  | .ptos o => s3uOk o && o.a == 0#7
  | .faddS o | .fsubS o | .fmulS o | .fdivS o | .fminS o | .fmaxS o => s3Ok o
  | .faddD o | .fsubD o | .fmulD o | .fdivD o | .fminD o | .fmaxD o => s3Ok o
  | .fsqrtS o | .fabsS o | .fsqrtD o | .fabsD o => s3uOk o
  | .fmaS o | .fmsS o | .fnmaS o | .fnmsS o | .fmaD o | .fmsD o | .fnmaD o | .fnmsD o => s3xOk o && o.x8 == 0#8
  | .feqS o | .fltS o | .fleS o | .funS o | .feqD o | .fltD o | .fleD o | .funD o => s3pOk o
  | .cvtSD o | .cvtDS o | .cvtSL o | .cvtSLu o | .cvtDL o | .cvtDLu o => s3uOk o
  | .cvtLS o | .cvtLuS o | .cvtLD o | .cvtLuD o | .cvtHS o | .cvtSH o => s3uOk o
  | .br o | .call o => gOk o.g
  | .jr o | .jrl o => ctlOk false true false o
  | .ret o => ctlOk false false false o
  | .loop o => ogOk o.gw && o.n != 0#10
  | .nop o | .suspend o | .yield o | .exit o | .brk o | .dsync o | .ifence o | .rft o => ctlOk false false false o
  | .joinAll o | .joinAny o | .trap o => ctlOk true false false o
  | .seghint o => ctlOk false true false o
  | .mfc o => ctlOk true false true o
  | .mtc o | .mset o | .mclr o => ctlOk true true false o
  | .pfxm o => o.ord.toNat < 6 && o.scope.toNat < 6
  | .pfxa o => o.rnd.toNat < 7 && o.nan.toNat < 3
  | .ld8 o | .ld16 o | .ld32 o | .ld64 o | .ld8s o | .ld16s o | .ld32s o => ldOk o
  | .st8 o | .st16 o | .st32 o | .st64 o => stOk o
  | .vld o | .vst o => lgOk o.lg o.wd
  | .vgath o | .vscat o => vidxOk o
  | .aadd o | .amin o | .amax o | .aand o | .aor o | .axor o | .axchg o | .afadd o => atomOk o
  | .acas o => s3xOk o.x
  | .tlook o => ctlOk false true true o
  | .tset o => ogOk o.gw && o.i6 == 0#6 && !o.w
  | .tinv o | .tpin o | .tunpin o | .monitor o => ctlOk false true false o
  | .waitm o => ctlOk true false true o && o.i6.toNat < 4
  | .fence o => ctlOk true false false o && o.i6.toNat % 8 < 6 && o.i6.toNat / 8 < 6
  | .efence o => ctlOk true false false o && o.i6.toNat % 8 == 0 && o.i6.toNat / 8 < 6
  | .cinv o | .cwb o => ctlOk true true false o && o.i6.toNat % 8 == 0 && o.i6.toNat / 8 < 6
  | .cpref o => ctlOk false true false o
  | .defer o => vecOk o && o.vd == 0#5 && vcZ o && xZ o 4 && o.va.toNat + (vx o).x8.toNat % 4 ≤ 31
  | .dqcnt o => vecOk o && o.va == 0#5 && vbZ o && vcZ o && xZ o 4 && (vx o).x8.toNat % 4 == 0
  | .dqdrain o => vecOk o && o.va == 0#5 && vcZ o && xZ o 4 && (vx o).msk == 0#3 && o.vd.toNat + (vx o).x8.toNat % 4 ≤ 31
  | .vadd o | .vsub o | .vmul o | .vmin o | .vmax o | .vmulh o => vecOk o && vcZ o && xZ o 0
  | .vabs o | .vneg o => vecOk o && vbZ o && vcZ o && xZ o 0
  | .vand o | .vor o | .vxor o | .vandn o | .vsll o | .vsrl o | .vsra o => vecOk o && vcZ o && xZ o 0
  | .vnot o => vecOk o && vbZ o && vcZ o && xZ o 0
  | .vlop3 o => vecOk o
  | .vfma o | .vfms o | .vfnma o | .vfnms o => vecOk o && xZ o 0
  | .veq o | .vne o | .vlt o | .vle o | .vgt o | .vge o | .vun o => vecOk o && vcZ o && xZ o 0 && o.vd.toNat < 8
  | .vradd o | .vrmax o | .vrmin o | .vrand o => vecOk o && vbZ o && vcZ o && xZ o 0
  | .vshuf o => vecOk o && vcZ o && xZ o 0
  | .vslideu o | .vslided o => vecOk o && vcZ o
  | .vzip o | .vunzip o => vecOk o && vcZ o && xZ o 1
  | .vmov o => vecOk o && vbZ o && vcZ o && xZ o 0
  | .vmovToScalar o => vecOk o && vbZ o && vcZ o && (vx o).x8.getLsbD 7
  | .vbcst o => vecOk o && vbZ o && vcZ o && xZ o 7
  | .vbcstScalar o => vecOk o && vbZ o && vcZ o && (vx o).x8 == 0x80#8
  | .vcvt o => vecOk o && vbZ o && vcZ o && xZ o 6 && (vx o).x8.toNat % 16 < 8
  | .vcvtq o | .vdq o => vecOk o && vbZ o && vcZ o && xZ o 2
  | .vmaxexp o => vecOk o && o.vd == 0#5 && vbZ o && vcZ o && xZ o 1
  | .vsclmvToVector o => vecOk o && vbZ o && vcZ o && xZ o 0 && o.va == 0#5
  | .vsclmvToScl o => vecOk o && vbZ o && vcZ o && (vx o).x8 == 1#8 && o.vd == 0#5
  | .vrcp o | .vrsq o | .vexp2 o | .vlog2 o => vecOk o && vbZ o && vcZ o && xZ o 0
  | .vcmul o | .vcmulj o => vecOk o && vcZ o && xZ o 0
  | .vcfma o => vecOk o && xZ o 0
  | .mand o | .mor o | .mxor o | .mandn o =>
      vecOk o && vcZ o && xZ o 0 && o.vd.toNat < 8 && o.va.toNat < 8 && o.vb.toNat < 8
  | .mnot o => vecOk o && vbZ o && vcZ o && xZ o 0 && o.vd.toNat < 8 && o.va.toNat < 8
  | .mpopc o | .mfirst o => vecOk o && vbZ o && vcZ o && xZ o 0 && o.va.toNat < 8
  | .skupdv o => vecOk o && o.vd == 0#5 && xZ o 7
  | .skqryv o => vecOk o && o.va == 0#5 && xZ o 7
  | .eset o => enOk o.e
  | .mma o | .mzero o => enSb16 o
  | .mcfg o => enSb0 o && o.sa.toNat < 4
  | .mdrain o | .copy o | .cstrm o | .twait o | .tcancel o | .tdep o => enSb0 o
  | .skupd o | .skadd o | .skclr o | .rdsend o | .tmark o => enSb0 o
  | .xwr o | .xwrPlace o | .xrd o | .xamo o | .xarm o | .xcoll o => enSb0 o
  | .phinit o | .phreg o | .phdrop o | .phsig o | .phwait o | .phsw o => enOk o
  | _ => true

/-- A scalar source field names s0 to s63 or b0 to b7 (R36). -/
def srcOk (f : BitVec 7) : Bool := f.toNat < 72

def src1 (o : S3) : Bool := srcOk o.a
def src2 (o : S3) : Bool := srcOk o.a && srcOk o.b

/-- Every field that the instruction reads as a scalar source is in range (R36). -/
def sourcesOk (i : Instr) : Bool :=
  match i with
  | .add o | .sub o | .and o | .or o | .xor o | .andn o | .orn o | .xnor o => src2 o
  | .sll o | .srl o | .sra o | .rol o | .min o | .max o | .minu o | .maxu o => src2 o
  | .mul o | .mulh o | .mulhu o | .div o | .divu o | .rem o | .remu o | .absd o => src2 o
  | .clz o | .ctz o | .popc o | .brev o | .sext8 o | .sext16 o | .sext32 o | .zext32 o => src1 o
  | .cmpEq o | .cmpNe o | .cmpLt o | .cmpLtu o | .cmpGe o | .cmpGeu o => src2 o
  | .cmpTz o | .cmpTnz o => src1 o
  | .addi o | .andi o | .ori o | .xori o => srcOk o.a
  | .slli o | .srli o | .srai o | .roli o => srcOk o.a
  | .cmpiEq o | .cmpiNe o | .cmpiLt o | .cmpiLtu o | .cmpiGe o | .cmpiGeu o => srcOk o.a
  | .bext o | .bextu o => srcOk o.a
  | .bins o | .sel o => srcOk o.a && srcOk o.b
  | .lop3 o => srcOk o.a && srcOk o.b && srcOk o.c
  | .faddS o | .fsubS o | .fmulS o | .fdivS o | .fminS o | .fmaxS o => src2 o
  | .faddD o | .fsubD o | .fmulD o | .fdivD o | .fminD o | .fmaxD o => src2 o
  | .fsqrtS o | .fabsS o | .fsqrtD o | .fabsD o => src1 o
  | .fmaS o | .fmsS o | .fnmaS o | .fnmsS o | .fmaD o | .fmsD o | .fnmaD o | .fnmsD o =>
      srcOk o.a && srcOk o.b && srcOk o.c
  | .feqS o | .fltS o | .fleS o | .funS o | .feqD o | .fltD o | .fleD o | .funD o => src2 o
  | .cvtSD o | .cvtDS o | .cvtSL o | .cvtSLu o | .cvtDL o | .cvtDLu o => src1 o
  | .cvtLS o | .cvtLuS o | .cvtLD o | .cvtLuD o | .cvtHS o | .cvtSH o => src1 o
  | .jr o | .jrl o | .seghint o | .mtc o | .mset o | .mclr o => srcOk o.a
  | .loop o => srcOk o.a
  | .ld8 o | .ld16 o | .ld32 o | .ld64 o | .ld8s o | .ld16s o | .ld32s o => srcOk o.a
  | .st8 o | .st16 o | .st32 o | .st64 o => srcOk o.a
  | .vld o | .vst o => srcOk o.a
  | .vgath o | .vscat o => srcOk o.a
  | .aadd o | .amin o | .amax o | .aand o | .aor o | .axor o | .axchg o | .afadd o => srcOk o.a && srcOk o.b
  | .acas o => srcOk o.x.a && srcOk o.x.b && srcOk o.x.c
  | .tlook o | .tset o | .tinv o | .tpin o | .tunpin o | .monitor o | .cinv o | .cwb o | .cpref o => srcOk o.a
  | .skupdv o | .skqryv o => (vx o).x8.toNat % 128 < 72
  | _ => true

/-- Decode one Eccor syllable; `w1` is the word after it, read only if L = 1. Of several faults the first of ILLOP,
ILLRSV, ILLSRC is reported (R47). -/
noncomputable def decodeSyllable (w0 w1 : Half) : Decoded :=
  match rawSyllable w0 w1 with
  | .bad f => .bad f
  | .ok i =>
    if !opOk i then .bad .illop
    else if !(zeroOk w0 w1 && fieldsOk i) then .bad .illrsv
    else if !sourcesOk i then .bad .illsrc
    else .ok i

/-- The fields a Dolelm instruction does not use are zero (R390 to R393). -/
def dolFieldsOk (i : Instr) : Bool :=
  match i with
  | .dolSlli o | .dolSrli o => o.i.toNat < 32
  | .dolLui o => o.a == 0#4
  | .dolLdc o | .dolStc o => o.i.toNat < 16
  | .dolEwait o => o.a == 0#4 && o.i.toNat < 2
  | .dolSetpath o | .dolArmtmr o | .dolNaksend o | .dolFailc o | .dolWrstat o => o.d == 0#4
  | .dolSack o => o.d == 0#4 && o.b == 0#4
  | .dolRdstat o => o.b == 0#4
  | .dolHalt o => o.d == 0#4 && o.a == 0#4 && o.b == 0#4
  | .dolTrap o => o.d == 0#4 && o.a == 0#4
  | _ => true

/-- The Register layout of Table 17-5 has zeros in [31:18]. -/
def dolRegister (op : Nat) : Bool := op < 8 || 0x21 ≤ op && op < 0x3F

/-- Decode one Dolelm word: an OP that Table 17-6 does not list is ILLOP, a non-zero unused field ILLRSV (R390). -/
noncomputable def decodeDol (w : Half) : Decoded :=
  let op := (w.extractLsb' 0 6).toNat
  match dolRow op (dRegOf w) (dImmOf w) (dBrOf w) with
  | none => .bad .illop
  | some i =>
    if !dolFieldsOk i || dolRegister op && w.extractLsb' 18 14 != 0#14 then .bad .illrsv else .ok i

/-! ## The encoder, from the same tables -/

/-- Bits [7:0] of word 0 (Table 2-1). -/
def tail8 (maj : Nat) (fin long : Bool) : BitVec 8 := BitVec.ofNat 6 maj ++ BitVec.ofBool fin ++ BitVec.ofBool long

def guardBits (g : Guard) : BitVec 6 := BitVec.ofBool g.gn ++ g.g

/-- Word 0 and, for a 64-bit form, the guard word GW. -/
def withGw (w0 : BitVec 24) (maj : Nat) (fin : Bool) (gw : Option Guard) : List Half :=
  match gw with
  | none => [w0 ++ tail8 maj fin false]
  | some g => [w0 ++ tail8 maj fin true, 0#26 ++ guardBits g]

/-- Word 0 and, for a 64-bit form, I26 or OFF26 with the guard. -/
def with26 (w0 : BitVec 24) (maj : Nat) (fin : Bool) (x : Option (BitVec 26 × Guard)) : List Half :=
  match x with
  | none => [w0 ++ tail8 maj fin false]
  | some x => [w0 ++ tail8 maj fin true, x.1 ++ guardBits x.2]

def s3Word (maj fn bcode : Nat) (o : S3) : List Half :=
  withGw (BitVec.ofNat 3 fn ++ (o.b ||| BitVec.ofNat 7 bcode) ++ o.a ++ BitVec.ofBool o.w ++ o.d) maj o.fin o.gw

def siWord (maj : Nat) (kind : BitVec 10) (o : SI) : List Half :=
  with26 ((o.i10 ||| kind) ++ o.a ++ BitVec.ofBool o.w ++ o.d) maj o.fin o.ext

def movIWord (o : MovI) : List Half :=
  [o.imm.extractLsb' 26 10 ++ 0#7 ++ BitVec.ofBool o.w ++ o.d ++ tail8 0x0B o.fin true,
   o.imm.extractLsb' 0 26 ++ guardBits o.g]

def movHWord (o : MovH) : List Half := [0#17 ++ BitVec.ofBool o.w ++ o.d ++ tail8 0x0C o.fin true, o.imm]

/-- An S3X word 1. -/
def x3Word (xf : Nat) (x8 : BitVec 8) (c : BitVec 7) (g : Guard) : Half :=
  0#8 ++ BitVec.ofNat 3 xf ++ x8 ++ c ++ guardBits g

def s3xWord (maj fn xf : Nat) (o : S3X) : List Half :=
  [BitVec.ofNat 3 fn ++ o.b ++ o.a ++ BitVec.ofBool o.w ++ o.d ++ tail8 maj o.fin true, x3Word xf o.x8 o.c o.g]

def brWord (maj : Nat) (o : Br) : List Half := [o.off ++ guardBits o.g ++ tail8 maj o.fin false]

def loopWord (o : LoopI) : List Half := withGw (o.n ++ o.a ++ 0#7) 0x19 o.fin o.gw

def ctlWord (maj fn4 : Nat) (o : Ctl) : List Half :=
  withGw (o.i6 ++ BitVec.ofNat 4 fn4 ++ o.a ++ BitVec.ofBool o.w ++ o.d) maj o.fin o.gw

def pfxMWord (o : PfxM) : List Half := [0#13 ++ o.cache ++ o.space ++ o.scope ++ o.ord ++ 0#1 ++ tail8 0x26 o.fin false]

def pfxAWord (o : PfxA) : List Half :=
  [0#15 ++ BitVec.ofBool o.ftz ++ o.nan ++ o.sat ++ o.rnd ++ 1#1 ++ tail8 0x26 o.fin false]

def memWord (maj : Nat) (x : Bool) (sz : Nat) (o : Mem) : List Half :=
  with26 (o.off ++ BitVec.ofBool x ++ BitVec.ofNat 2 sz ++ o.a ++ BitVec.ofBool o.w ++ o.d) maj o.fin o.ext

def vmemWord (maj : Nat) (o : VMem) : List Half :=
  [0#1 ++ o.off ++ o.a ++ o.v ++ o.lg ++ o.wd ++ tail8 maj o.fin false]

def vecXWord (x : VecX) : Half := 0#6 ++ x.fmto ++ x.x8 ++ x.vc ++ x.msk ++ guardBits x.g

def vidxWord (bit24 : Nat) (o : VIdx) : List Half :=
  [0#7 ++ BitVec.ofNat 1 bit24 ++ o.a ++ o.v ++ o.lg ++ o.wd ++ tail8 0x20 o.fin true, vecXWord o.x]

def atomWord (fn : Nat) (o : Atom) : List Half :=
  let w0 := BitVec.ofNat 3 fn ++ o.b ++ o.a ++ BitVec.ofBool o.w ++ o.d
  match o.ext with
  | none => [w0 ++ tail8 0x21 o.fin false]
  | some x => [w0 ++ tail8 0x21 o.fin true, x3Word x.sz.toNat x.x8 0#7 x.g]

def acasWord (o : Acas) : List Half := s3xWord 0x22 0 o.sz.toNat o.x

def vecWord (maj fn4 : Nat) (o : Vec) : List Half :=
  let w0 := 0#1 ++ BitVec.ofNat 4 fn4 ++ o.vb ++ o.va ++ o.vd ++ o.lg ++ o.wd
  match o.ext with
  | none => [w0 ++ tail8 maj o.fin false]
  | some x => [w0 ++ tail8 maj o.fin true, vecXWord x]

def enWord (eop : BitVec 6) (o : En) : List Half := withGw (0#2 ++ eop ++ o.eng ++ o.sb ++ o.sa) 0x33 o.fin o.gw

def dRegWord (op : Nat) (o : DReg) : List Half := [0#14 ++ o.b ++ o.a ++ o.d ++ BitVec.ofNat 6 op]

def dImmWord (op : Nat) (o : DImm) : List Half := [o.i ++ o.a ++ o.d ++ BitVec.ofNat 6 op]

def dBrWord (op : Nat) (o : DBr) : List Half := [o.off ++ o.b ++ o.a ++ BitVec.ofNat 6 op]


/-- The 32-bit words of a syllable or of a link-core instruction, word 0 first, from the same tables; none for a
packet or an event, which has no such words. -/
def encode (i : Instr) : List Half :=
  match i with
  | .add o => s3Word 0 0 0 o
  | .sub o => s3Word 0 1 0 o
  | .and o => s3Word 0 2 0 o
  | .or o => s3Word 0 3 0 o
  | .xor o => s3Word 0 4 0 o
  | .andn o => s3Word 0 5 0 o
  | .orn o => s3Word 0 6 0 o
  | .xnor o => s3Word 0 7 0 o
  | .sll o => s3Word 1 0 0 o
  | .srl o => s3Word 1 1 0 o
  | .sra o => s3Word 1 2 0 o
  | .rol o => s3Word 1 3 0 o
  | .min o => s3Word 1 4 0 o
  | .max o => s3Word 1 5 0 o
  | .minu o => s3Word 1 6 0 o
  | .maxu o => s3Word 1 7 0 o
  | .mul o => s3Word 2 0 0 o
  | .mulh o => s3Word 2 1 0 o
  | .mulhu o => s3Word 2 2 0 o
  | .div o => s3Word 2 3 0 o
  | .divu o => s3Word 2 4 0 o
  | .rem o => s3Word 2 5 0 o
  | .remu o => s3Word 2 6 0 o
  | .absd o => s3Word 2 7 0 o
  | .clz o => s3Word 3 0 0 o
  | .ctz o => s3Word 3 1 0 o
  | .popc o => s3Word 3 2 0 o
  | .brev o => s3Word 3 3 0 o
  | .sext8 o => s3Word 3 4 0 o
  | .sext16 o => s3Word 3 5 0 o
  | .sext32 o => s3Word 3 6 0 o
  | .zext32 o => s3Word 3 7 0 o
  | .cmpEq o => s3Word 4 0 0 o
  | .cmpNe o => s3Word 4 1 0 o
  | .cmpLt o => s3Word 4 2 0 o
  | .cmpLtu o => s3Word 4 3 0 o
  | .cmpGe o => s3Word 4 4 0 o
  | .cmpGeu o => s3Word 4 5 0 o
  | .cmpTz o => s3Word 4 6 0 o
  | .cmpTnz o => s3Word 4 7 0 o
  | .addi o => siWord 5 0 o
  | .andi o => siWord 6 0 o
  | .ori o => siWord 7 0 o
  | .xori o => siWord 8 0 o
  | .slli o => siWord 9 (0x0 : BitVec 10) o
  | .srli o => siWord 9 (0x40 : BitVec 10) o
  | .srai o => siWord 9 (0x80 : BitVec 10) o
  | .roli o => siWord 9 (0xC0 : BitVec 10) o
  | .cmpiEq o => siWord 0xA (0x0 : BitVec 10) o
  | .cmpiNe o => siWord 0xA (0x80 : BitVec 10) o
  | .cmpiLt o => siWord 0xA (0x100 : BitVec 10) o
  | .cmpiLtu o => siWord 0xA (0x180 : BitVec 10) o
  | .cmpiGe o => siWord 0xA (0x200 : BitVec 10) o
  | .cmpiGeu o => siWord 0xA (0x280 : BitVec 10) o
  | .movi o => movIWord o
  | .movh o => movHWord o
  | .bext o => s3xWord 0xD 0 0 o
  | .bextu o => s3xWord 0xD 1 0 o
  | .bins o => s3xWord 0xD 2 0 o
  | .lop3 o => s3xWord 0xE 0 0 o
  | .sel o => s3xWord 0xF 0 0 o
  | .pand o => s3Word 16 0 0 o
  | .por o => s3Word 16 1 0 o
  | .pxor o => s3Word 16 2 0 o
  | .pandn o => s3Word 16 3 0 o
  | .pnot o => s3Word 16 4 0 o
  | .pdany o => s3Word 16 5 0 o
  | .pdall o => s3Word 16 6 0 o
  | .ptos o => s3Word 16 7 0 o
  | .faddS o => s3Word 17 0 0 o
  | .fsubS o => s3Word 17 1 0 o
  | .fmulS o => s3Word 17 2 0 o
  | .fdivS o => s3Word 17 3 0 o
  | .fminS o => s3Word 17 4 0 o
  | .fmaxS o => s3Word 17 5 0 o
  | .fsqrtS o => s3Word 17 6 0 o
  | .fabsS o => s3Word 17 7 0 o
  | .faddD o => s3Word 18 0 0 o
  | .fsubD o => s3Word 18 1 0 o
  | .fmulD o => s3Word 18 2 0 o
  | .fdivD o => s3Word 18 3 0 o
  | .fminD o => s3Word 18 4 0 o
  | .fmaxD o => s3Word 18 5 0 o
  | .fsqrtD o => s3Word 18 6 0 o
  | .fabsD o => s3Word 18 7 0 o
  | .fmaS o => s3xWord 0x13 0 0 o
  | .fmsS o => s3xWord 0x13 0 1 o
  | .fnmaS o => s3xWord 0x13 0 2 o
  | .fnmsS o => s3xWord 0x13 0 3 o
  | .fmaD o => s3xWord 0x13 0 4 o
  | .fmsD o => s3xWord 0x13 0 5 o
  | .fnmaD o => s3xWord 0x13 0 6 o
  | .fnmsD o => s3xWord 0x13 0 7 o
  | .feqS o => s3Word 20 0 0 o
  | .fltS o => s3Word 20 1 0 o
  | .fleS o => s3Word 20 2 0 o
  | .funS o => s3Word 20 3 0 o
  | .feqD o => s3Word 20 4 0 o
  | .fltD o => s3Word 20 5 0 o
  | .fleD o => s3Word 20 6 0 o
  | .funD o => s3Word 20 7 0 o
  | .cvtSD o => s3Word 0x15 0 0 o
  | .cvtDS o => s3Word 0x15 0 1 o
  | .cvtSL o => s3Word 0x15 0 2 o
  | .cvtSLu o => s3Word 0x15 0 3 o
  | .cvtDL o => s3Word 0x15 0 4 o
  | .cvtDLu o => s3Word 0x15 0 5 o
  | .cvtLS o => s3Word 0x15 0 6 o
  | .cvtLuS o => s3Word 0x15 0 7 o
  | .cvtLD o => s3Word 0x15 0 8 o
  | .cvtLuD o => s3Word 0x15 0 9 o
  | .cvtHS o => s3Word 0x15 0 10 o
  | .cvtSH o => s3Word 0x15 0 11 o
  | .br o => brWord 0x16 o
  | .call o => brWord 0x17 o
  | .jr o => ctlWord 0x18 0 o
  | .jrl o => ctlWord 0x18 1 o
  | .ret o => ctlWord 0x18 2 o
  | .loop o => loopWord o
  | .nop o => ctlWord 0x1A 0 o
  | .joinAll o => ctlWord 0x1A 1 o
  | .joinAny o => ctlWord 0x1A 1 (Ctl.mk o.fin o.gw o.i6 o.a o.w (o.d ||| 1))
  | .suspend o => ctlWord 0x1A 2 o
  | .yield o => ctlWord 0x1A 3 o
  | .exit o => ctlWord 0x1A 4 o
  | .trap o => ctlWord 0x1A 5 o
  | .brk o => ctlWord 0x1A 6 o
  | .dsync o => ctlWord 0x1A 7 o
  | .ifence o => ctlWord 0x1A 8 o
  | .rft o => ctlWord 0x1A 9 o
  | .seghint o => ctlWord 0x1A 10 o
  | .mfc o => ctlWord 0x1B 0 o
  | .mtc o => ctlWord 0x1B 1 o
  | .mset o => ctlWord 0x1B 2 o
  | .mclr o => ctlWord 0x1B 3 o
  | .pfxm o => pfxMWord o
  | .pfxa o => pfxAWord o
  | .ld8 o => memWord 0x1C false 0 o
  | .ld16 o => memWord 0x1C false 1 o
  | .ld32 o => memWord 0x1C false 2 o
  | .ld64 o => memWord 0x1C false 3 o
  | .ld8s o => memWord 0x1C true 0 o
  | .ld16s o => memWord 0x1C true 1 o
  | .ld32s o => memWord 0x1C true 2 o
  | .st8 o => memWord 0x1D false 0 o
  | .st16 o => memWord 0x1D false 1 o
  | .st32 o => memWord 0x1D false 2 o
  | .st64 o => memWord 0x1D false 3 o
  | .vld o => vmemWord 0x1E o
  | .vst o => vmemWord 0x1F o
  | .vgath o => vidxWord 0 o
  | .vscat o => vidxWord 1 o
  | .aadd o => atomWord 0 o
  | .amin o => atomWord 1 o
  | .amax o => atomWord 2 o
  | .aand o => atomWord 3 o
  | .aor o => atomWord 4 o
  | .axor o => atomWord 5 o
  | .axchg o => atomWord 6 o
  | .afadd o => atomWord 7 o
  | .acas o => acasWord o
  | .tlook o => ctlWord 0x23 0 o
  | .tset o => ctlWord 0x23 1 o
  | .tinv o => ctlWord 0x23 2 o
  | .tpin o => ctlWord 0x23 3 o
  | .tunpin o => ctlWord 0x23 4 o
  | .monitor o => ctlWord 0x24 0 o
  | .waitm o => ctlWord 0x24 1 o
  | .fence o => ctlWord 0x25 0 o
  | .efence o => ctlWord 0x25 1 o
  | .cinv o => ctlWord 0x25 2 o
  | .cwb o => ctlWord 0x25 3 o
  | .cpref o => ctlWord 0x25 4 o
  | .defer o => vecWord 0x27 0 o
  | .dqcnt o => vecWord 0x27 1 o
  | .dqdrain o => vecWord 0x27 2 o
  | .vadd o => vecWord 0x28 0 o
  | .vsub o => vecWord 0x28 1 o
  | .vmul o => vecWord 0x28 2 o
  | .vmin o => vecWord 0x28 3 o
  | .vmax o => vecWord 0x28 4 o
  | .vabs o => vecWord 0x28 5 o
  | .vneg o => vecWord 0x28 6 o
  | .vmulh o => vecWord 0x28 7 o
  | .vand o => vecWord 0x29 0 o
  | .vor o => vecWord 0x29 1 o
  | .vxor o => vecWord 0x29 2 o
  | .vandn o => vecWord 0x29 3 o
  | .vnot o => vecWord 0x29 4 o
  | .vsll o => vecWord 0x29 5 o
  | .vsrl o => vecWord 0x29 6 o
  | .vsra o => vecWord 0x29 7 o
  | .vlop3 o => vecWord 0x2A 0 o
  | .vfma o => vecWord 0x2B 0 o
  | .vfms o => vecWord 0x2B 1 o
  | .vfnma o => vecWord 0x2B 2 o
  | .vfnms o => vecWord 0x2B 3 o
  | .veq o => vecWord 0x2C 0 o
  | .vne o => vecWord 0x2C 1 o
  | .vlt o => vecWord 0x2C 2 o
  | .vle o => vecWord 0x2C 3 o
  | .vgt o => vecWord 0x2C 4 o
  | .vge o => vecWord 0x2C 5 o
  | .vun o => vecWord 0x2C 6 o
  | .vradd o => vecWord 0x2D 0 o
  | .vrmax o => vecWord 0x2D 1 o
  | .vrmin o => vecWord 0x2D 2 o
  | .vrand o => vecWord 0x2D 3 o
  | .vshuf o => vecWord 0x2E 0 o
  | .vslideu o => vecWord 0x2E 1 o
  | .vslided o => vecWord 0x2E 2 o
  | .vzip o => vecWord 0x2E 3 o
  | .vunzip o => vecWord 0x2E 4 o
  | .vmov o => vecWord 0x2E 5 o
  | .vmovToScalar o => vecWord 0x2E 5 o
  | .vbcst o => vecWord 0x2E 6 o
  | .vbcstScalar o => vecWord 0x2E 6 o
  | .vcvt o => vecWord 0x2F 0 o
  | .vcvtq o => vecWord 0x2F 1 o
  | .vdq o => vecWord 0x2F 2 o
  | .vmaxexp o => vecWord 0x2F 3 o
  | .vsclmvToVector o => vecWord 0x2F 4 o
  | .vsclmvToScl o => vecWord 0x2F 4 o
  | .vrcp o => vecWord 0x30 0 o
  | .vrsq o => vecWord 0x30 1 o
  | .vexp2 o => vecWord 0x30 2 o
  | .vlog2 o => vecWord 0x30 3 o
  | .vcmul o => vecWord 0x31 0 o
  | .vcmulj o => vecWord 0x31 1 o
  | .vcfma o => vecWord 0x31 2 o
  | .mand o => vecWord 0x32 0 o
  | .mor o => vecWord 0x32 1 o
  | .mxor o => vecWord 0x32 2 o
  | .mandn o => vecWord 0x32 3 o
  | .mnot o => vecWord 0x32 4 o
  | .mpopc o => vecWord 0x32 5 o
  | .mfirst o => vecWord 0x32 6 o
  | .skupdv o => vecWord 0x34 0 o
  | .skqryv o => vecWord 0x34 1 o
  | .eset o => enWord (o.n.setWidth 6) o.e
  | .mma o => enWord 32 o
  | .mzero o => enWord 33 o
  | .mdrain o => enWord 34 o
  | .mcfg o => enWord 35 o
  | .copy o => enWord 32 o
  | .cstrm o => enWord 33 o
  | .twait o => enWord 32 o
  | .tcancel o => enWord 33 o
  | .tdep o => enWord 34 o
  | .skupd o => enWord 32 o
  | .skadd o => enWord 33 o
  | .skclr o => enWord 34 o
  | .phinit o => enWord 32 o
  | .phreg o => enWord 33 o
  | .phdrop o => enWord 34 o
  | .phsig o => enWord 35 o
  | .phwait o => enWord 36 o
  | .phsw o => enWord 37 o
  | .rdsend o => enWord 38 o
  | .xwr o => enWord 32 o
  | .xwrPlace o => enWord 32 o
  | .xrd o => enWord 33 o
  | .xamo o => enWord 34 o
  | .xarm o => enWord 35 o
  | .xcoll o => enWord 36 o
  | .tmark o => enWord 32 o
  | .dolAdd o => dRegWord 0x0 o
  | .dolSub o => dRegWord 0x1 o
  | .dolAnd o => dRegWord 0x2 o
  | .dolOr o => dRegWord 0x3 o
  | .dolXor o => dRegWord 0x4 o
  | .dolSll o => dRegWord 0x5 o
  | .dolSrl o => dRegWord 0x6 o
  | .dolAddi o => dImmWord 0x8 o
  | .dolAndi o => dImmWord 0x9 o
  | .dolOri o => dImmWord 0xA o
  | .dolSlli o => dImmWord 0xB o
  | .dolSrli o => dImmWord 0xC o
  | .dolLui o => dImmWord 0xD o
  | .dolLw o => dImmWord 0x10 o
  | .dolSw o => dImmWord 0x11 o
  | .dolLdc o => dImmWord 0x12 o
  | .dolStc o => dImmWord 0x13 o
  | .dolBeq o => dBrWord 0x18 o
  | .dolBne o => dBrWord 0x19 o
  | .dolBlt o => dBrWord 0x1A o
  | .dolBltu o => dBrWord 0x1B o
  | .dolJalr o => dImmWord 0x1C o
  | .dolEwait o => dImmWord 0x20 o
  | .dolRetx o => dRegWord 0x21 o
  | .dolSetwin o => dRegWord 0x22 o
  | .dolSetpath o => dRegWord 0x23 o
  | .dolArmtmr o => dRegWord 0x24 o
  | .dolSack o => dRegWord 0x25 o
  | .dolNaksend o => dRegWord 0x26 o
  | .dolPostc o => dRegWord 0x27 o
  | .dolFailc o => dRegWord 0x28 o
  | .dolRdstat o => dRegWord 0x29 o
  | .dolWrstat o => dRegWord 0x2A o
  | .dolHalt o => dRegWord 0x3E o
  | .dolTrap o => dImmWord 0x3F o
  | .loopEnd _ => []
  | .monitorConfirm _ => []
  | .monitorEvent _ _ => []
  | .waitmTimeout _ => []
  | .queueSpillRefill _ => []
  | .sketchUpdateApply _ _ => []
  | .sketchQueryDone _ _ => []
  | .phaserCommandArrive _ _ => []
  | .phaserSignal _ _ => []
  | .phaserWaitComplete _ => []
  | .exposedWriteback _ => []
  | .loadComplete _ _ => []
  | .memoryPerform _ _ => []
  | .dieBatchWriteback _ _ => []
  | .pageWalk _ _ => []
  | .streamDeliver _ => []
  | .finderFill _ _ => []
  | .segmentLoad _ _ => []
  | .joinComplete _ => []
  | .joinAnyClose _ => []
  | .waitBudgetTick _ => []
  | .trapEntry _ _ _ => []
  | .budgetStop _ => []
  | .continuationStart _ => []
  | .readyAging _ => []
  | .wakePortStore _ _ => []
  | .wakePortRead _ _ => []
  | .launchComplete _ => []
  | .jobStart _ _ => []
  | .jobEnd _ _ => []
  | .jobFault _ _ _ => []
  | .jobPark _ _ _ => []
  | .copyGranule _ _ => []
  | .cstrmGranule _ _ => []
  | .mmaStep _ _ => []
  | .mcfgApply _ _ => []
  | .sketchJobGroup _ _ => []
  | .reductionHandover _ _ => []
  | .routerCombine _ _ => []
  | .reductionDone _ _ => []
  | .reductionTimeout _ _ => []
  | .traceRecordWrite _ => []
  | .sampleTrigger _ => []
  | .pmcOverflow _ _ => []
  | .sqRecordWrite _ => []
  | .controlSpaceWrite _ _ _ => []
  | .ccbImageWrite _ _ _ => []
  | .resume _ => []
  | .kill _ => []
  | .stop _ => []
  | .preempt _ => []
  | .jobresume _ _ => []
  | .jobkill _ _ => []
  | .park _ => []
  | .victimStop _ => []
  | .bankClaim _ _ => []
  | .victimRestore _ => []
  | .tlbicmd _ _ => []
  | .tlbiDone _ => []
  | .softError _ => []
  | .remoteResponse _ _ => []
  | .remoteRejectionHeld _ _ => []
  | .pdcOpen _ => []
  | .pdcIdleClose _ _ => []
  | .packetSend _ _ => []
  | .ackReceived _ _ _ => []
  | .trimNakReceived _ _ _ => []
  | .notReadyNakReceived _ _ _ => []
  | .rejectingNakReceived _ _ _ _ => []
  | .transportTimeout _ _ => []
  | .rmaWriteRequest _ => []
  | .rmaReadRequest _ => []
  | .rmaAtomicRequest _ => []
  | .incomingSend _ => []
  | .placementPacket _ => []
  | .targetAutoAck _ _ => []
  | .pathfail _ => []
  | .linkup _ => []
  | .lcTimerExpiry _ _ => []
  | .collectivePacket _ => []
  | .collectiveDone _ _ => []
  | .collectiveTimeout _ _ => []
  | .ewaitWake _ => []
  | .lcRestart _ => []
  | .queueSlot _ => []
  | .queueEnable _ => []
  | .queueDisable _ => []
  | .queueRelease _ => []
  | .pktNop _ _ _ => []
  | .launch _ _ _ => []
  | .launchPre _ _ _ => []
  | .write32 _ _ _ => []
  | .write64 _ _ _ => []
  | .pktCopy _ _ _ _ => []
  | .pktCopyDone _ _ => []
  | .waitmem _ _ => []
  | .waitmemSkip _ _ _ => []
  | .waitmemTimeout _ => []
  | .ib _ _ _ => []
  | .pktLoop _ _ _ => []
  | .ffence _ => []
  | .signal _ _ _ => []
  | .signalPhaser _ _ _ => []
  | .replaymark _ _ => []
  | .replaymarkHold _ _ => []
  | .logRoomResume _ => []
  | .powerGood => []
  | .bootStageAdvance _ => []
  | .deviceReset => []
  | .reimage _ => []
  | .attestationRequest _ => []
  | .keyMailboxGo => []
  | .keyMailboxErase => []
  | .droopSag _ => []
  | .thermalThrottle => []
  | .thermalRecover => []
  | .thermalShutdown => []
  | .trimmedPacketReceived _ _ _ => []
  | .droopEnd _ => []

/-- Whether an instruction is a Dolelm instruction. -/
def isDol (i : Instr) : Bool :=
  match i with
  | .dolAdd _ | .dolSub _ | .dolAnd _ | .dolOr _ | .dolXor _ | .dolSll _ | .dolSrl _ => true
  | .dolAddi _ | .dolAndi _ | .dolOri _ | .dolSlli _ | .dolSrli _ | .dolLui _ => true
  | .dolLw _ | .dolSw _ | .dolLdc _ | .dolStc _ | .dolBeq _ | .dolBne _ | .dolBlt _ | .dolBltu _ => true
  | .dolJalr _ | .dolEwait _ | .dolRetx _ | .dolSetwin _ | .dolSetpath _ | .dolArmtmr _ | .dolSack _ => true
  | .dolNaksend _ | .dolPostc _ | .dolFailc _ | .dolRdstat _ | .dolWrstat _ | .dolHalt _ | .dolTrap _ => true
  | _ => false

/-- Decode the words of one instruction of either set, word 0 first. -/
noncomputable def decodeWords (dol : Bool) (ws : List Half) : Decoded :=
  match dol, ws with
  | true, [w] => decodeDol w
  | false, [w0] => if longOf w0 then .bad .illop else decodeSyllable w0 0#32
  | false, [w0, w1] => if longOf w0 then decodeSyllable w0 w1 else .bad .illop
  | _, _ => .bad .illop

/-- The instruction, if the decoder gives one. -/
def Decoded.get? (d : Decoded) : Option Instr := match d with | .ok i => some i | .bad _ => none

/-- The instruction read from bits numbered as the opcode table numbers them. The table gives bits only for the Dolelm
rows, which are 32-bit words; a 32-bit word is read as a Dolelm word, and as an Eccor syllable where that refuses it;
longer bits are a 64-bit Eccor syllable (log entry 4). -/
noncomputable def decodeTableWord (nbits w : Nat) : Option Instr :=
  if nbits ≤ 32 then
    match (decodeDol (BitVec.ofNat 32 w)).get? with
    | some i => some i
    | none => (decodeWords false [BitVec.ofNat 32 w]).get?
  else (decodeWords false [BitVec.ofNat 32 w, BitVec.ofNat 32 (w / 2 ^ 32)]).get?

end Sys2Proof
end

