-- ==== Sys2Proof/Machine/Formats.lean ====
section
/-! DEFINITION. Number formats and exact arithmetic (spec/03 R57 to R85): decoding, the one rounding to a format, range
limiting, NaN results and the operations on exact values. Nothing here reads the state; a result carries its flags. -/

namespace Sys2Proof.Machine

/-- The formats of Tables 3-1 and 3-2; an integer format carries its width. -/
inductive Nf where
  | f64 | f32 | f16 | b16 | e5m2 | e4m3 | t8 | t6 | e3m2 | e2m3 | e2m1
  | sint (w : Nat)
  | uint (w : Nat)
  deriving DecidableEq, Repr

/-- Exponent bits and fraction bits of a binary format (Table 3-1); none for the others. -/
def Nf.bin : Nf → Option (Nat × Nat)
  | .f64 => some (11, 52) | .f32 => some (8, 23) | .f16 => some (5, 10) | .b16 => some (8, 7)
  | .e5m2 => some (5, 2) | .e4m3 => some (4, 3) | .e3m2 => some (3, 2) | .e2m3 => some (2, 3) | .e2m1 => some (2, 1)
  | _ => none

def Nf.width : Nf → Nat
  | .f64 => 64 | .f32 => 32 | .f16 => 16 | .b16 => 16 | .e5m2 => 8 | .e4m3 => 8 | .t8 => 8 | .t6 => 6
  | .e3m2 => 6 | .e2m3 => 6 | .e2m1 => 4 | .sint w => w | .uint w => w

def Nf.isInt : Nf → Bool
  | .sint _ => true | .uint _ => true | _ => false

def Nf.isTapered : Nf → Bool
  | .t8 => true | .t6 => true | _ => false

/-- The formats with infinities (Table 3-1). -/
def Nf.hasInf : Nf → Bool
  | .f64 => true | .f32 => true | .f16 => true | .b16 => true | .e5m2 => true | _ => false

/-- The formats to which flushing applies (R78). -/
def Nf.flushes : Nf → Bool
  | .f64 => true | .f32 => true | .f16 => true | .b16 => true | _ => false

/-- Table 3-8, and none for the formats without NaN (R77). -/
def Nf.canonNan : Nf → Option Nat
  | .f64 => some 0x7FF8000000000000 | .f32 => some 0x7FC00000 | .f16 => some 0x7E00 | .b16 => some 0x7FC0
  | .e5m2 => some 0x7E | .e4m3 => some 0x7F | .t8 => some 0x80 | .t6 => some 0x20 | _ => none

/-- The matrix operand formats by code (Table 3-1); the complex codes name the format of one part. -/
def Nf.ofCode : Nat → Nf
  | 0 => .f32 | 1 => .f32 | 2 => .f16 | 3 => .b16 | 4 => .f16 | 5 => .e5m2 | 6 => .e4m3 | 7 => .t8 | 8 => .t6
  | 9 => .e3m2 | 10 => .e2m3 | 11 => .e2m1 | 12 => .sint 8 | 13 => .uint 8 | 14 => .sint 4 | _ => .uint 4

/-- The vector element types by code (Table 3-2); a complex type names the format of one part. -/
def Nf.ofType : Nat → Nf
  | 0 => .f32 | 1 => .f16 | 2 => .b16 | 3 => .sint 32 | 4 => .sint 16 | 5 => .sint 8 | 6 => .f32 | _ => .f16

/-- An exact value: a NaN with its sign, whether it is quiet and its fraction aligned at the top of 52 bits; an
infinity; or (-1)^neg * m * 2^e. -/
inductive Val where
  | nan (neg quiet : Bool) (frac : Nat)
  | inf (neg : Bool)
  | num (neg : Bool) (m : Nat) (e : Int)
  deriving DecidableEq, Repr

/-- The flags of STATUS bits [6:0] (Table 1-7). -/
abbrev Flags := BitVec 7
def fNV : Flags := 1#7
def fDZ : Flags := 2#7
def fOF : Flags := 4#7
def fUF : Flags := 8#7
def fNX : Flags := 16#7
def fSATF : Flags := 32#7
def fLATINV : Flags := 64#7

/-- A flag that is set where the condition holds. -/
def flagIf (c : Bool) (f : Flags) : Flags := if c then f else 0#7

/-- The effective codes of one operation (R49, R70). -/
structure Codes where
  rnd : Nat
  sat : Nat
  nan : Nat
  ftz : Bool
  deriving DecidableEq, Repr

/-- The codes of an engine: a rounding and a saturation code; NAN is canonical and nothing is flushed (R77, R78). -/
def Codes.engine (rnd sat : Nat) : Codes := { rnd := rnd, sat := sat, nan := 0, ftz := false }

/-- The rounding mode after R70. -/
def Codes.mode (c : Codes) : Nat := if c.rnd = 0 || c.rnd = 7 then 1 else c.rnd

/-- A result: its bits in the destination format and the flags it sets. -/
structure Res where
  bits : Nat
  fl   : Flags
  deriving DecidableEq, Repr

def Res.or (r : Res) (f : Flags) : Res := { r with fl := r.fl ||| f }

/-! ## Decoding (R59 to R63) -/

/-- Length of the run of bits equal to `b` from bit `i - 1` down. -/
def runLen (b : Bool) (mag : Nat) : Nat → Nat
  | 0 => 0
  | i + 1 => if mag.testBit i = b then runLen b mag i + 1 else 0

/-- The magnitude of a tapered code (R61, R62): `top` magnitude bits, with or without an exponent bit. -/
def taperMag (top : Nat) (hasE : Bool) (mag : Nat) : Nat × Int :=
  if mag = 0 then (0, 0)
  else
    let b := mag.testBit (top - 1)
    let k := runLen b mag top
    let regime : Int := if b then (k : Int) - 1 else -(k : Int)
    let rest := top - (k + 1)
    let r := mag % 2 ^ rest
    if hasE then
      let e : Nat := if rest = 0 then 0 else (r.testBit (rest - 1)).toNat
      let fb := rest - 1
      (2 ^ fb + r % 2 ^ fb, 2 * regime + e - fb)
    else (2 ^ rest + r, regime - rest)

def taperOf (f : Nf) (mag : Nat) : Nat × Int :=
  match f with
  | .t8 => taperMag 7 true mag
  | _ => taperMag 5 false mag

/-- The exact value of a code (R59 to R63). -/
def Nf.decode (f : Nf) (bits : Nat) : Val :=
  match f with
  | .sint w =>
    let v := bits % 2 ^ w
    if v.testBit (w - 1) then .num true (2 ^ w - v) 0 else .num false v 0
  | .uint w => .num false (bits % 2 ^ w) 0
  | .t8 | .t6 =>
    let w := f.width
    let s := bits.testBit (w - 1)
    let mag := bits % 2 ^ (w - 1)
    if mag = 0 then (if s then .nan false true (2 ^ 51) else .num false 0 0)
    else .num s (taperOf f mag).1 (taperOf f mag).2
  | _ =>
    match f.bin with
    | none => .num false 0 0
    | some (eb, mb) =>
      let s := bits.testBit (eb + mb)
      let e := bits / 2 ^ mb % 2 ^ eb
      let m := bits % 2 ^ mb
      let bias : Int := 2 ^ (eb - 1) - 1
      let top := 2 ^ eb - 1
      if f.hasInf && e = top then
        (if m = 0 then .inf s else .nan s (f = .e5m2 || m.testBit (mb - 1)) (m * 2 ^ (52 - mb)))
      else if f = .e4m3 && e = top && m = 7 then .nan s true (m * 2 ^ (52 - mb))
      else if e = 0 then .num s m (1 - bias - mb)
      else .num s (2 ^ mb + m) (e - bias - mb)

/-- The least exponent of a normal magnitude of a binary format. -/
def eminOf (eb : Nat) : Int := 2 - 2 ^ (eb - 1)

/-- R78: a subnormal input is read as a zero of its sign where flushing is in effect. -/
def Nf.read (f : Nf) (ftz : Bool) (bits : Nat) : Val :=
  match f.decode bits, f.bin with
  | .num s m e, some (_, mb) => if ftz && f.flushes && m < 2 ^ mb then .num s 0 e else .num s m e
  | v, _ => v

def Val.isNan : Val → Bool
  | .nan .. => true | _ => false

def Val.isSnan : Val → Bool
  | .nan _ q _ => !q | _ => false

def Val.isInf : Val → Bool
  | .inf _ => true | _ => false

def Val.isZero : Val → Bool
  | .num _ m _ => m = 0 | _ => false

def Val.sign : Val → Bool
  | .nan s _ _ => s | .inf s => s | .num s _ _ => s

def Val.neg : Val → Val
  | .nan s q f => .nan s q f | .inf s => .inf !s | .num s m e => .num (!s) m e

/-! ## Rounding (R69 to R72) -/

/-- Whether the upper neighbour is taken, for an exact value at p = rem/den between lo and hi (Table 3-5, R72); `r` is
the 24-bit draw. -/
def roundUp (mode : Nat) (neg loEven : Bool) (rem den r : Nat) : Bool :=
  if rem = 0 then false
  else match mode with
  | 2 => false
  | 3 => !neg
  | 4 => neg
  | 5 => den ≤ 2 * rem
  | 6 => den * 2 ^ 24 ≤ rem * 2 ^ 24 + r * den
  | _ => den < 2 * rem || den = 2 * rem && !loEven

/-- The sign bit in place. -/
def signBit (f : Nf) (neg : Bool) : Nat := if neg then 2 ^ (f.width - 1) else 0

/-- n * 2^s / (d * 2^t) as a quotient and a remainder with its divisor. -/
def scaled (n d : Nat) (q : Int) : Nat × Nat × Nat :=
  let n' := n * 2 ^ (-q).toNat
  let d' := d * 2 ^ q.toNat
  (n' / d', n' % d', d')

/-- floor (log2 (n/d)) for positive n, d. -/
def flog2 (n d : Nat) : Int :=
  let k : Int := (n.log2 : Int) - d.log2
  if n * 2 ^ (-k).toNat < d * 2 ^ k.toNat then k - 1 else k

/-- The code of the largest finite magnitude of a format (Table 3-1). -/
def maxCode (f : Nf) : Nat :=
  match f with
  | .f64 => 0x7FEFFFFFFFFFFFFF | .f32 => 0x7F7FFFFF | .f16 => 0x7BFF | .b16 => 0x7F7F | .e5m2 => 0x7B | .e4m3 => 0x7E
  | .t8 => 0x7F | .t6 => 0x1F | .e3m2 => 0x1F | .e2m3 => 0x1F | .e2m1 => 0x7
  | .sint w => 2 ^ (w - 1) - 1 | .uint w => 2 ^ w - 1

/-- The code of infinity in a format that has one. -/
def infCode (f : Nf) : Nat := maxCode f + 1

/-- A rounded magnitude: its code, where it is in range; whether it overflows (R74), is inexact, is tiny (the magnitude
rounded with the exponent unbounded lies below the least normal one, Table 3-9) and is subnormal. -/
structure Rounded where
  code : Nat
  ovf  : Bool
  inex : Bool
  tiny : Bool
  sub  : Bool
  deriving DecidableEq, Repr

/-- Round n/d, not zero, to a binary format with the exponent unbounded above (R71). -/
def roundBin (eb mb mode : Nat) (neg : Bool) (n d r : Nat) (max : Nat) : Rounded :=
  let emin := eminOf eb
  let E := flog2 n d
  let pick (q : Int) : Nat × Bool :=
    let x := scaled n d q
    (x.1 + (roundUp mode neg (x.1 % 2 = 0) x.2.1 x.2.2 r).toNat, x.2.1 ≠ 0)
  let q := (if E < emin then emin else E) - mb
  let k := pick q
  let code : Nat :=
    if k.1 < 2 ^ mb then k.1
    else if k.1 = 2 ^ (mb + 1) then (q + 1 + mb - emin + 1).toNat * 2 ^ mb
    else (q + mb - emin + 1).toNat * 2 ^ mb + (k.1 - 2 ^ mb)
  let u := pick (E - mb)
  { code := code, ovf := max < code, inex := k.2,
    tiny := E < emin && !(E = emin - 1 && u.1 = 2 ^ (mb + 1)), sub := k.1 < 2 ^ mb }

/-- Round n/d, not zero, to a tapered format: the neighbours are adjacent magnitude codes, and a value above the
largest one overflows in every mode (R71, R74). UF is set only where a non-zero value rounds to 0 (log entry 107). -/
def roundTaper (f : Nf) (mode : Nat) (neg : Bool) (n d r : Nat) : Rounded :=
  let le (c : Nat) : Bool :=
    let v := taperOf f c
    v.1 * 2 ^ v.2.toNat * d ≤ n * 2 ^ (-v.2).toNat
  let lo := ((List.range (maxCode f + 1)).filter le).length - 1
  let at12 (c : Nat) : Nat := (taperOf f c).1 * 2 ^ ((taperOf f c).2 + 16).toNat
  let vlo := at12 lo
  let x := n * 2 ^ 16
  if lo = maxCode f then
    { code := lo, ovf := x ≠ vlo * d, inex := x ≠ vlo * d, tiny := false, sub := false }
  else
    let rem := x - vlo * d
    let den := (at12 (lo + 1) - vlo) * d
    let c := lo + (roundUp mode neg (lo % 2 = 0) rem den r).toNat
    { code := c, ovf := false, inex := rem ≠ 0, tiny := c = 0, sub := false }

/-- The value written for an overflowing finite result in a floating or tapered format (Table 3-7). -/
def overflowRes (f : Nf) (c : Codes) (neg : Bool) : Res :=
  if c.sat = 3 && neg then { bits := 0, fl := fOF ||| fNX ||| fSATF }
  else if 2 ≤ c.sat || !f.hasInf then { bits := signBit f neg + maxCode f, fl := fOF ||| fNX ||| fSATF }
  else
    let toMax := c.mode = 2 || c.mode = 3 && neg || c.mode = 4 && !neg
    { bits := signBit f neg + (if toMax then maxCode f else infCode f), fl := fOF ||| fNX }

/-- Bring an integer into a format of `w` bits: code 2 clamps and code 3 clamps to non-negative with SATF; under the
others it wraps. -/
def intReduce (w sat : Nat) (v : Int) : Res :=
  let hi : Int := 2 ^ (w - 1) - 1
  let lo : Int := if sat = 3 then 0 else -(2 ^ (w - 1))
  let out := if 2 ≤ sat then max lo (min hi v) else v
  { bits := (out % 2 ^ w).toNat, fl := flagIf (out != v) fSATF }

/-- The range of an integer format. -/
def intRange (f : Nf) : Int × Int :=
  match f with
  | .uint w => (0, 2 ^ w - 1)
  | _ => (-(2 ^ (f.width - 1)), 2 ^ (f.width - 1) - 1)

/-- A floating or wider value brought to an integer format (Table 3-7, R75, R80). A clamp or a wrap sets NX whatever the source, an integer
one included (log entry 12). -/
def roundInt (f : Nf) (c : Codes) (neg : Bool) (n d r : Nat) : Res :=
  let k := n / d + (roundUp c.mode neg (n / d % 2 = 0) (n % d) d r).toNat
  let v : Int := if neg then -(k : Int) else k
  let rg := intRange f
  let outside := v < rg.1 || rg.2 < v
  let wrap := c.sat = 1 && outside
  let out := if c.sat = 1 then v else max (if c.sat = 3 then 0 else rg.1) (min rg.2 v)
  { bits := (out % 2 ^ f.width).toNat,
    fl := flagIf (out != v) fSATF ||| flagIf wrap fNV ||| flagIf (n % d ≠ 0 || out != v || wrap) fNX }

/-- The result whose exact value is (-1)^neg * n/d, rounded once to `f` and limited (R69 to R75, R78, R80). `r` is the
draw of a result rounded under SR (log entry 11). -/
def roundTo (f : Nf) (c : Codes) (r : Nat) (neg : Bool) (n d : Nat) : Res :=
  if f.isInt then roundInt f c neg n d r
  else if n = 0 then { bits := if c.sat = 3 then 0 else (if f.isTapered then 0 else signBit f neg), fl := 0#7 }
  else
    let x := match f.bin with
      | some (eb, mb) => roundBin eb mb c.mode neg n d r (maxCode f)
      | none => roundTaper f c.mode neg n d r
    if x.ovf then overflowRes f c neg
    else
      let flush := c.ftz && f.flushes && x.sub && x.code ≠ 0
      let mag := if flush then 0 else x.code
      let inex := x.inex || flush
      let clamp := c.sat = 3 && neg
      let fl := flagIf inex fNX ||| flagIf (x.tiny && (x.inex || clamp) || flush) fUF ||| flagIf (clamp && mag ≠ 0) fSATF
      { bits := if clamp then 0 else if mag = 0 && f.isTapered then 0 else signBit f neg + mag, fl := fl }

/-- A dyadic value to a format. -/
def roundDyad (f : Nf) (c : Codes) (r : Nat) (neg : Bool) (m : Nat) (e : Int) : Res :=
  roundTo f c r neg (m * 2 ^ e.toNat) (2 ^ (-e).toNat)

/-- An infinite result (Table 3-7, R75): no OF and no NX. It stays infinite in every rounding mode under codes 0 and 1 (log entry 109). -/
def infRes (f : Nf) (c : Codes) (neg : Bool) : Res :=
  if f.isInt then
    if c.sat = 1 then { bits := 0, fl := fNV }
    else
      let v := if neg then (if c.sat = 3 then 0 else (intRange f).1) else (intRange f).2
      { bits := (v % 2 ^ f.width).toNat, fl := fSATF }
  else if c.sat = 3 && neg then { bits := 0, fl := fSATF }
  else if 2 ≤ c.sat || !f.hasInf then { bits := signBit f neg + maxCode f, fl := fSATF }
  else { bits := signBit f neg + infCode f, fl := 0#7 }

/-- A NaN result (R76, R77); `op` is the first NaN operand, absent for an invalid operation. -/
def nanRes (f : Nf) (c : Codes) (op : Option Val) : Res :=
  match f.canonNan with
  | none => { bits := 0, fl := fNV }
  | some canon =>
    if c.nan = 2 then { bits := 0, fl := 0#7 }
    else match c.nan, op, f.bin with
    | 1, some (.nan s _ frac), some (eb, mb) =>
      if f = .e4m3 then { bits := signBit f s + canon, fl := 0#7 }
      else { bits := signBit f s + (2 ^ eb - 1) * 2 ^ mb + (frac ||| 2 ^ 51) / 2 ^ (52 - mb), fl := 0#7 }
    | _, _, _ => { bits := canon, fl := 0#7 }

/-- An invalid operation with no NaN operand: NV and the NaN result. -/
def invalidRes (f : Nf) (c : Codes) : Res := (nanRes f c none).or fNV

/-- An exact value converted to a format (R82). -/
def convertVal (v : Val) (f : Nf) (c : Codes) (r : Nat) : Res :=
  match v with
  | .nan s q fr => (nanRes f c (some (.nan s q fr))).or (flagIf (!q) fNV)
  | .inf s => infRes f c s
  | .num s m e => roundDyad f c r s m e

/-- convert of R82 from the code of one format to another. -/
def convert (src dst : Nf) (c : Codes) (r : Nat) (bits : Nat) : Res := convertVal (src.read c.ftz bits) dst c r

/-- A conversion to a wider format of the same kind: exact, and no rounded result (R82, R105) (log entry 13). -/
def widens (src dst : Nf) : Bool :=
  match src, dst with
  | .sint a, .sint b => a < b
  | .uint a, .uint b => a < b
  | _, _ =>
    match src.bin, dst.bin with
    | some (ea, ma), some (eb, mb) =>
      src != dst && ma ≤ mb && (2 : Int) - 2 ^ (eb - 1) - mb ≤ 2 - 2 ^ (ea - 1) - ma && ea ≤ eb
    | _, _ => false

/-! ## Operations on exact values (R79, R83, R102, R103) -/

/-- The exact sum of finite terms, rounded once; the sign of an exact zero follows R79. -/
def sumRes (f : Nf) (c : Codes) (r : Nat) (ts : List (Bool × Nat × Int)) : Res :=
  let e := ts.foldl (fun a t => min a t.2.2) 0
  let tot : Int := ts.foldl (fun a t => a + (if t.1 then -1 else 1) * ((t.2.1 * 2 ^ (t.2.2 - e).toNat : Nat) : Int)) 0
  let negZero : Bool :=
    if ts.all (fun t => t.2.1 = 0) then
      (if ts.all (fun t => t.1) then true else if ts.any (fun t => t.1) then c.mode = 4 else false)
    else c.mode = 4
  if tot = 0 then roundTo f c r negZero 0 1 else roundDyad f c r (tot < 0) tot.natAbs e

/-- NV where one of the operands is a signalling NaN (R77). -/
def snanFlag (vs : List Val) : Flags := flagIf (vs.any Val.isSnan) fNV

/-- The first NaN of the operands, in order. -/
def firstNan (vs : List Val) : Option Val := vs.find? Val.isNan

/-- a + b for operands that are not NaN. -/
def addVal (f : Nf) (c : Codes) (r : Nat) (a b : Val) : Res :=
  match a, b with
  | .inf s, .inf t => if s = t then infRes f c s else invalidRes f c
  | .inf s, _ => infRes f c s
  | _, .inf t => infRes f c t
  | .num s m e, .num t n g => sumRes f c r [(s, m, e), (t, n, g)]
  | _, _ => invalidRes f c

def mulVal (f : Nf) (c : Codes) (r : Nat) (a b : Val) : Res :=
  if a.isInf || b.isInf then
    if a.isZero || b.isZero then invalidRes f c else infRes f c (a.sign != b.sign)
  else match a, b with
  | .num s m e, .num t n g => roundDyad f c r (s != t) (m * n) (e + g)
  | _, _ => invalidRes f c

/-- The quotient of dyadic magnitudes as n/d. -/
def quot (m : Nat) (e : Int) (n : Nat) (g : Int) : Nat × Nat := (m * 2 ^ (e - g).toNat, n * 2 ^ (g - e).toNat)

def divVal (f : Nf) (c : Codes) (r : Nat) (a b : Val) : Res :=
  let s := a.sign != b.sign
  match a, b with
  | .inf _, .inf _ => invalidRes f c
  | .inf _, _ => infRes f c s
  | _, .inf _ => roundTo f c r s 0 1
  | .num _ m e, .num _ n g =>
    if n = 0 then (if m = 0 then invalidRes f c else (infRes f c s).or fDZ)
    else let q := quot m e n g; roundTo f c r s q.1 q.2
  | _, _ => invalidRes f c

/-- Newton's iteration for the integer square root, from above. -/
def isqrtLoop (n : Nat) : Nat → Nat → Nat
  | 0, x => x
  | k + 1, x => let y := (x + n / x) / 2; if y < x then isqrtLoop n k y else x

/-- floor (sqrt n). -/
def isqrt (n : Nat) : Nat := if n = 0 then 0 else isqrtLoop n (n.log2 + 2) (2 ^ (n.log2 / 2 + 1))

/-- sqrt (n/d), exactly where it is dyadic and else with a last bit that marks the value as lying strictly between
(no rounding boundary of any format has so many digits). -/
def sqrtRes (f : Nf) (c : Codes) (r : Nat) (n d : Nat) : Res :=
  let p := 700
  let x := n * 2 ^ (2 * p)
  let q := isqrt (x / d)
  if q * q * d = x then roundTo f c r false q (2 ^ p) else roundTo f c r false (2 * q + 1) (2 ^ (p + 1))

def sqrtVal (f : Nf) (c : Codes) (r : Nat) (a : Val) : Res :=
  match a with
  | .inf s => if s then invalidRes f c else infRes f c false
  | .num s m e =>
    if m = 0 then roundTo f c r s 0 1
    else if s then invalidRes f c
    else sqrtRes f c r (m * 2 ^ e.toNat) (2 ^ (-e).toNat)
  | _ => invalidRes f c

/-- ±(a*b) ± c, rounded once (R103, R131): `np` negates the product and `nc` the addend. A product 0 * inf is an invalid operation
even where the addend is a quiet NaN (log entry 100). -/
def fmaVal (f : Nf) (c : Codes) (r : Nat) (np nc : Bool) (a b d : Val) : Res :=
  let sn := snanFlag [a, b, d]
  let zi := a.isInf && b.isZero || a.isZero && b.isInf
  match firstNan [a, b] with
  | some v => (nanRes f c (some v)).or sn
  | none =>
    if zi then (invalidRes f c).or sn
    else if d.isNan then (nanRes f c (some d)).or sn
    else
      let ps := (a.sign != b.sign) != np
      let ds := d.sign != nc
      if a.isInf || b.isInf then
        if d.isInf && ps != ds then invalidRes f c else infRes f c ps
      else if d.isInf then infRes f c ds
      else match a, b, d with
      | .num _ m e, .num _ n g, .num _ k h => sumRes f c r [(ps, m * n, e + g), (ds, k, h)]
      | _, _, _ => invalidRes f c

/-- A two-operand operation with the NaN rules of R76 and R77 in front. -/
def withNan2 (f : Nf) (c : Codes) (a b : Val) (k : Res) : Res :=
  match firstNan [a, b] with
  | some v => (nanRes f c (some v)).or (snanFlag [a, b])
  | none => k

/-- Order of two values that are not NaN, -0 equal to +0. -/
def cmpVal (a b : Val) : Ordering :=
  let key : Val → Int × Nat × Int := fun v =>
    match v with
    | .inf s => (if s then -1 else 1, 0, 0)
    | .num _ m e => (0, m, e)
    | .nan .. => (0, 0, 0)
  let x := key a
  let y := key b
  if x.1 ≠ y.1 then compare x.1 y.1
  else if x.1 ≠ 0 then .eq
  else
    let e := min x.2.2 y.2.2
    let sg (v : Val) (n : Nat) : Int := if v.sign then -(n : Int) else n
    compare (sg a (x.2.1 * 2 ^ (x.2.2 - e).toNat)) (sg b (y.2.1 * 2 ^ (y.2.2 - e).toNat))

/-- The bits of an operand that an operation returns unrounded, after the flushing of inputs (R78). -/
def passBits (f : Nf) (v : Val) (bits : Nat) : Nat := if v.isZero then signBit f v.sign else bits

/-- Minimum and maximum (R79): nothing is rounded; -0 lies below +0; a single NaN loses. -/
def minMax (f : Nf) (c : Codes) (isMin : Bool) (x y : Nat) : Res :=
  let a := f.read c.ftz x
  let b := f.read c.ftz y
  let sn := snanFlag [a, b]
  if a.isNan && b.isNan then (nanRes f c (some a)).or sn
  else if a.isNan then { bits := passBits f b y, fl := sn }
  else if b.isNan then { bits := passBits f a x, fl := sn }
  else
    let le : Bool := match cmpVal a b with
      | .lt => true
      | .gt => false
      | .eq => if a.isZero && b.isZero then a.sign || !b.sign else true
    let first := if isMin then le else !le || cmpVal a b = .eq && (!(a.isZero && b.isZero) || !a.sign)
    { bits := if first then passBits f a x else passBits f b y, fl := sn }

/-- A floating result that no rounding formed, limited by the saturation code (R74, R129): codes 2 and 3 act on an infinity, code 3 on a
negative value. -/
def limitRes (f : Nf) (c : Codes) (x : Res) : Res :=
  if c.sat < 2 then x
  else match f.read false x.bits with
  | .nan .. => x
  | .inf s => { bits := (infRes f c s).bits, fl := x.fl ||| (infRes f c s).fl }
  | .num s m _ => if c.sat = 3 && s then { bits := 0, fl := x.fl ||| flagIf (m ≠ 0) fSATF } else x

/-- A floating comparison (R104, R134): none for operands with a NaN; `any` makes every NaN set NV. -/
def fcmp (f : Nf) (ftz any : Bool) (x y : Nat) : Option Ordering × Flags :=
  let a := f.read ftz x
  let b := f.read ftz y
  if a.isNan || b.isNan then (none, flagIf (any || a.isSnan || b.isSnan) fNV) else (some (cmpVal a b), 0#7)

/-- The binary operations of FPS, FPD and VARI that round. -/
inductive FOp where
  | add | sub | mul | div
  deriving DecidableEq, Repr

def fop (o : FOp) (f : Nf) (c : Codes) (r : Nat) (x y : Nat) : Res :=
  let a := f.read c.ftz x
  let b := f.read c.ftz y
  withNan2 f c a b (match o with
    | .add => addVal f c r a b
    | .sub => addVal f c r a b.neg
    | .mul => mulVal f c r a b
    | .div => divVal f c r a b)

def fsqrt (f : Nf) (c : Codes) (r : Nat) (x : Nat) : Res :=
  let a := f.read c.ftz x
  withNan2 f c a a (sqrtVal f c r a)

def ffma (f : Nf) (c : Codes) (r : Nat) (np nc : Bool) (x y z : Nat) : Res :=
  fmaVal f c r np nc (f.read c.ftz x) (f.read c.ftz y) (f.read c.ftz z)

/-! ## Special functions (R85, Table 3-11) -/

def rcpVal (f : Nf) (c : Codes) (r : Nat) (a : Val) : Res :=
  match a with
  | .inf s => roundTo f c r s 0 1
  | .num s m e => if m = 0 then (infRes f c s).or fDZ else roundTo f c r s (2 ^ (-e).toNat) (m * 2 ^ e.toNat)
  | _ => invalidRes f c

def rsqVal (f : Nf) (c : Codes) (r : Nat) (a : Val) : Res :=
  match a with
  | .inf s => if s then invalidRes f c else roundTo f c r false 0 1
  | .num s m e =>
    if m = 0 then (infRes f c s).or fDZ
    else if s then invalidRes f c
    else sqrtRes f c r (2 ^ (-e).toNat) (m * 2 ^ e.toNat)
  | _ => invalidRes f c

/-- 2^(0.b1 b2 ... bk) times 2^p, from the lowest bit up: each bit halves the exponent and takes one square root. -/
def exp2Frac (p : Nat) (frac : Nat) : Nat → Nat → Nat
  | 0, y => y
  | k + 1, y => exp2Frac p (frac / 2) k (isqrt (y * 2 ^ p * (if frac % 2 = 1 then 2 else 1)))

/-- 2^x for a finite x; an integer x gives an exact value, any other an irrational one (log entry 15). -/
def exp2Val (f : Nf) (c : Codes) (r : Nat) (a : Val) : Res :=
  match a with
  | .inf s => if s then roundTo f c r false 0 1 else infRes f c false
  | .num s m e =>
    let k := (-e).toNat
    let big := m * 2 ^ e.toNat
    let ip := big / 2 ^ k
    if 2048 < ip then
      (if s then roundTo f c r false 1 (2 ^ 4000) else roundTo f c r false (2 ^ 4000 * 3) 2)
    else
      let v : Int := if s then -(big : Int) else big
      let i : Int := v / 2 ^ k
      let fr : Nat := (v % 2 ^ k).toNat
      if fr = 0 then roundTo f c r false (2 ^ i.toNat) (2 ^ (-i).toNat)
      else
        let p := 400
        let y := exp2Frac p fr k (2 ^ p)
        roundTo f c r false ((2 * y + 1) * 2 ^ i.toNat) (2 ^ (p + 1) * 2 ^ (-i).toNat)
  | _ => invalidRes f c

/-- The first `k` fraction bits of log2 (y / 2^p) for 1 ≤ y / 2^p < 2, by repeated squaring. -/
def log2Frac (p : Nat) : Nat → Nat → Nat → Nat
  | 0, _, acc => acc
  | k + 1, y, acc =>
    let z := y * y / 2 ^ p
    if 2 ^ (p + 1) ≤ z then log2Frac p k (z / 2) (2 * acc + 1) else log2Frac p k z (2 * acc)

def log2Val (f : Nf) (c : Codes) (r : Nat) (a : Val) : Res :=
  match a with
  | .inf s => if s then invalidRes f c else infRes f c false
  | .num s m e =>
    if m = 0 then (infRes f c true).or fDZ
    else if s then invalidRes f c
    else
      let l := m.log2
      let i : Int := e + l
      if m = 2 ^ l then roundTo f c r (i < 0) i.natAbs 1
      else
        let p := 700
        let k := 300
        let fr := log2Frac p k (m * 2 ^ p / 2 ^ l) 0
        let tot : Int := i * 2 ^ (k + 1) + (2 * fr + 1)
        roundTo f c r (tot < 0) tot.natAbs (2 ^ (k + 1))
  | _ => invalidRes f c

/-- The four functions of VSFU. -/
inductive Sfu where
  | rcp | rsq | exp2 | log2
  deriving DecidableEq, Repr

def sfu (o : Sfu) (f : Nf) (c : Codes) (r : Nat) (x : Nat) : Res :=
  let a := f.read c.ftz x
  withNan2 f c a a (match o with
    | .rcp => rcpVal f c r a
    | .rsq => rsqVal f c r a
    | .exp2 => exp2Val f c r a
    | .log2 => log2Val f c r a)

/-! ## Complex parts (R138) -/

/-- The sum of the products and the addend of one part, rounded once: each term is a sign and two factors. `ops` are
the operands in the order A, B, C (R76). A product 0 * inf, or infinite terms of opposite sign, sets NV. -/
def dotRes (f : Nf) (c : Codes) (r : Nat) (ops : List Val) (ps : List (Bool × Val × Val)) (add : Option Val) : Res :=
  let zi := ps.any fun p => p.2.1.isInf && p.2.2.isZero || p.2.1.isZero && p.2.2.isInf
  let term (p : Bool × Val × Val) : Val :=
    let s := (p.2.1.sign != p.2.2.sign) != p.1
    if p.2.1.isNan || p.2.2.isNan then .nan false true 0
    else if p.2.1.isInf || p.2.2.isInf then .inf s
    else match p.2.1, p.2.2 with
    | .num _ m e, .num _ n g => .num s (m * n) (e + g)
    | _, _ => .nan false true 0
  let ts := ps.map term ++ add.toList
  let opp := ts.any fun t => t.isInf && ts.any fun u => u.isInf && u.sign != t.sign
  let fl := snanFlag ops ||| flagIf (zi || opp) fNV
  match firstNan ops with
  | some v => (nanRes f c (some v)).or fl
  | none =>
    if zi || opp then invalidRes f c
    else match ts.find? Val.isInf with
    | some i => infRes f c i.sign
    | none => sumRes f c r (ts.filterMap fun t => match t with | .num s m e => some (s, m, e) | _ => none)

/-! ## Block scales (R66 to R68) -/

/-- The largest finite value of a quantisation format as a dyadic (Qmax, Table 3-1). -/
def qmax (q : Nf) : Nat × Int :=
  match q.decode (maxCode q) with
  | .num _ m e => (m, e)
  | _ => (0, 0)

/-- S24 of a block whose largest magnitude is m * 2^e (R67). -/
def s24Of (q : Nf) (full : Bool) (m : Nat) (e : Int) : Nat × Flags :=
  if m = 0 then (0, 0#7)
  else
    let qm := qmax q
    let t := quot m e qm.1 qm.2
    let k := flog2 t.1 t.2
    let exact := t.1 * 2 ^ (-k).toNat = t.2 * 2 ^ k.toNat
    if full then
      if k < -126 then (0x10000, 0#7)
      else
        let num := t.1 * 2 ^ (-k).toNat * 2 ^ 16
        let den := t.2 * 2 ^ k.toNat
        let fr := (num + den - 1) / den - 2 ^ 16
        let ex : Int := k + 127 + (if fr = 2 ^ 16 then 1 else 0)
        if 254 < ex then (254 * 2 ^ 16 + 0xFFFF, fSATF) else (ex.toNat * 2 ^ 16 + fr % 2 ^ 16, 0#7)
    else
      let ex : Int := max 1 (k + 127 + (if exact then 0 else 1))
      if 254 < ex then (254 * 2 ^ 16, fSATF) else (ex.toNat * 2 ^ 16, 0#7)

/-- The value of an S24 with E in 1..254 as a dyadic (R66). -/
def s24Val (s : Nat) : Nat × Int := (2 ^ 16 + s % 2 ^ 16, (s / 2 ^ 16 % 256 : Nat) - 127 - 16)

def s24E (s : Nat) : Nat := s / 2 ^ 16 % 256

/-- round_QF (R68, R144). -/
def quantise (src q : Nf) (c : Codes) (r : Nat) (bits scale : Nat) : Res :=
  let x := src.read c.ftz bits
  let sn := flagIf x.isSnan fNV
  if s24E scale = 0 then { bits := 0, fl := sn }
  else if x.isNan then (nanRes q c (some x)).or sn
  else if s24E scale = 255 then nanRes q c none
  else match x with
  | .num s m e => let v := s24Val scale; let t := quot m e v.1 v.2; roundTo q c r s t.1 t.2
  | _ => infRes q c x.sign

/-- convert (decode code * s) of VDQ (R145). A scale with E = 0 decides before a NaN code (log entry 110). -/
def dequantise (q dst : Nf) (c : Codes) (r : Nat) (bits scale : Nat) : Res :=
  let x := q.decode bits
  if s24E scale = 0 then { bits := 0, fl := 0#7 }
  else if x.isNan then nanRes dst c (some x)
  else if s24E scale = 255 then nanRes dst c none
  else match x with
  | .num s m e => let v := s24Val scale; roundDyad dst c r s (m * v.1) (e + v.2)
  | _ => infRes dst c x.sign

end Sys2Proof.Machine
end

