-- ==== Sys2Proof/Config.lean ====
section
/-! DEFINITION. What an implementation fixes, and the free values of the spec (log entries 3 and 7): constants without
a body, so that no proof can see what they are. -/

namespace Sys2Proof.Config

/-- The device rank, DEVRANK (R27); the rank is given to a device from outside (log entry 3). -/
opaque devRank : BitVec 12

/-- COREID of the supervisor core of a die; the spec gives none (log entry 8). -/
opaque supCoreId : Nat → BitVec 11

/-- Which of the sixteen entries of an inconsistent 64 KiB group serves an address (spec/14 R323), by the counter of
free values and the page (log entry 7). -/
opaque groupPick : Nat → Nat → BitVec 4

/-- A fresh value where the spec fixes none, by the counter of free values; each use names its rule (log entry 7). -/
opaque freeWord : Nat → BitVec 64

/-- A byte that overlapping COPY footprints leave open (spec/11 R278, spec/20 R423; log entry 7). -/
opaque freeByte : Nat → BitVec 8

/-- The digest of a rank list or a permutation table (spec/18 R405), which the spec does not define (log entry 7). -/
opaque digest : List Nat → BitVec 64

/-- A PARK command comes in test or recovery (spec/08 R205), which no register of the device tells, by the counter of free values
(log entry 104). -/
opaque inRecovery : Nat → Bool

end Sys2Proof.Config
end

