-- ==== Sys2Proof/Machine/State.lean ====
section
/-! DEFINITION. The state of the device as plain data (INVENTORY.md, State), the reasons a step can stop, and the state
after reset. Operations on it stand in Machine/Ops.lean. -/

namespace Sys2Proof.Machine

/-! ## One Eccor core -/

/-- A result that an exposed pipeline has yet to write (R19): register and value, with the bits it writes where it does
not write all of them. `cr` passes through the field rules of R26 when it is written; `flags` are ORed into STATUS
(R81). -/
inductive Write where
  | s (r : BitVec 6) (x : Word)
  | p (r : BitVec 5) (b : Bool)
  | m (r : BitVec 3) (bits x : Mask)
  | v (r : BitVec 5) (bits x : VReg)
  | cr (n : BitVec 6) (x : Word)
  | scl (bits x : BitVec 48)
  | flags (f : BitVec 7)
  deriving DecidableEq, Repr

/-- A write in flight: the issue cycles left, 1 meaning the end of the current issue cycle. -/
structure Pend where
  left : Nat
  w    : Write
  deriving DecidableEq, Repr

/-- The counters of a loop slot (R344). -/
structure LoopSlot where
  issue : BitVec 32
  stall : BitVec 32
  fills : BitVec 32
  fillb : BitVec 32
  filll : BitVec 32
  fillv : BitVec 32
  fille : BitVec 32
  deriving DecidableEq, Repr

/-- An active hardware loop (R111): the LOOP bundle with its schedule cycle, body start and end, I10, iterations left, the
schedule count of the current iteration (R339) and the counters of its slot (R344). -/
structure Loop where
  addr  : Word
  first : BitVec 32
  start : Word
  stop  : Word
  off   : BitVec 10
  count : Word
  sched : BitVec 32
  slot  : LoopSlot
  deriving DecidableEq, Repr

/-- An element of the deferral queue (R168): tag and one to four values. -/
structure DqElem where
  tag  : BitVec 16
  vals : List (BitVec 32)
  deriving DecidableEq, Repr

/-- The monitor of a core (R214 to R217); `conf` is set when the home has confirmed the arming. -/
structure Monitor where
  armed : Bool
  conf  : Bool
  space : BitVec 2
  line  : BitVec 46
  key   : Nat
  codes : List Nat
  deriving DecidableEq, Repr

/-- Where the data of an access go or come from at its home: a byte key of the device memory, a control page of a die,
the port area of a launch, or another device. -/
inductive Target where
  | mem (key : Nat)
  | control (die page off : Nat)
  | port (launch off : Nat)
  | remote (rank : BitVec 12) (va : BitVec 52)
  deriving DecidableEq, Repr

/-- The read-modify-writes of R209 and R213. -/
inductive Rmw where
  | add | smin | smax | and | or | xor | xchg | fadd
  | cas (new : Word)
  deriving DecidableEq, Repr

/-- Where a completed load writes: nowhere, a scalar register (sign-extended from the access size or not), or bits of a
vector register from a position on. -/
inductive LoadTo where
  | none
  | s (r : BitVec 6) (signed : Bool)
  | v (r : BitVec 5) (pos : Nat)
  deriving DecidableEq, Repr

/-- What an access does (Table 9-1). `sketch` is the update of a counter by a signed quantity (R295), with the sketch's
BASE, the home of its descriptor, the status bits of the quantity (R294) and the virtual address of the status word (R351); `query` the reads of one lane of SKQRYV (R296): destination, the sign and home of
each counter not yet read, BASE, F, rounding, draw and the values read. -/
inductive AccKind where
  | read (dst : LoadTo)
  | write (x : BitVec 256)
  | rmw (op : Rmw) (b : Word) (dst : Option (BitVec 6))
  | sketch (q : Int) (base desc ev va : Nat)
  | query (r : BitVec 5) (pos : Nat) (rows : List (Bool × Nat)) (base f mode draw : Nat) (got : List Int)
  deriving DecidableEq, Repr

/-- One memory event of a core (R223): `n` bytes at its target, its effective ORD and SCOPE, the effective address and
space, whether it is an LD.64 or ST.64, XKEY at its issue (R122, R194), the number of the first job that it need not wait for behind
an EFENCE of its bundle (R237), and the value it read once it is performed. -/
structure Access where
  kind  : AccKind
  tgt   : Target
  n     : Nat
  ord   : Nat
  scope : Nat
  ea    : Word
  space : Nat
  whole : Bool
  key   : BitVec 32
  jobs  : Nat
  done  : Option (BitVec 256)
  deriving DecidableEq, Repr

/-- An entry of the tag table (Table 8-2). -/
structure TagEntry where
  v   : Bool
  pin : Bool
  tag : BitVec 33
  deriving DecidableEq, Repr

/-- CSTATE (Table 14-4), and the halt of a supervisor core (spec/14 R316 text). -/
inductive RunState where
  | idle | running | stopped | preempted | newcomer | halted
  deriving DecidableEq, Repr

/-- The join states of R161. -/
inductive JoinState where
  | attached | detached | waiting | held | exited
  deriving DecidableEq, Repr

/-- What a core waits for without issuing. `fence`, `efence` and `exit` come after a bundle that holds a FENCE, an EFENCE
or an EXIT behind accesses or submits of its own (R195, R218, R219): the effective codes of the fence, the scope of the
EFENCE with the number of the first job that it does not wait for, and what the core waits for next. `stop` is a STOP that waits for
loads in flight (R343). A PHWAIT or PHSW travels to its home (`phsw`), is registered
there (`phwait`), and is released (`phdone`), by a boundary or by ERR (R246, R247). -/
inductive Wait where
  | none
  | join (any : Bool) (tag : BitVec 6) (addr : Word)
  | waitm (cls : Nat) (d : BitVec 6) (w : Bool) (pos : Nat)
  | phwait (key : Nat) (phase : Bool)
  | phsw (key : Nat)
  | phdone (key : Nat) (boundary : Bool)
  | remote
  | fence (ord scope : Nat) (next : Wait)
  | efence (scope ord : Nat) (next : Wait)
  | exit
  | stop (next : Wait)
  deriving DecidableEq, Repr

/-- The outcome of a transfer, back edge, LOOP or JOIN guard (R156): the successor, and whether a guarded JOIN joins. -/
structure Outcome where
  taken : Bool
  succ  : Word
  deriving DecidableEq, Repr

/-- A bundle in a delivery queue (R153): its place in the stream, address and words, whether the lead core resolves its
successor (R155), the lead's outcome once it is known, the core that leads it (R154), and whether an IFENCE of its core in
a handler has its words fetched again (R119). -/
structure Delivered where
  seq   : Nat
  addr  : Word
  ws    : List Half
  res   : Bool
  lead  : Option Outcome
  boss  : Option Nat
  again : Bool
  deriving DecidableEq, Repr

/-- A trace record (Table 15-1). -/
structure TraceRec where
  kind  : BitVec 4
  pc    : BitVec 52
  sched : BitVec 32
  cycle : Word
  data  : Word
  deriving DecidableEq, Repr


/-! ## The engines of a core -/

/-- The bytes or accumulator words of a footprint interval (R268), both ends included: space 1 the core's scratchpad, 2
device virtual addresses, 3 and 4 the accumulator words of arrays 0 and 1. -/
structure Span where
  sp : Nat
  lo : Nat
  hi : Nat
  deriving DecidableEq, Repr

/-- An edge from an earlier job (R269): its number, and the release units that the later job still waits for (R270),
absent when it waits for the whole job. -/
structure Edge where
  ord   : Nat
  units : Option (List Nat)
  deriving DecidableEq, Repr

inductive JobKind where
  | mma | mzero | mdrain | copy | cstrm | skupd | skadd | skclr | rdsend | xwr | xwrPlace | xrd | xamo | xarm | xcoll
  deriving DecidableEq, Repr

/-- Waiting for its edges or its turn, running, or parked at its boundary with the faulting address (R326). -/
inductive JobSt where
  | waiting
  | running
  | parked (a : Word)
  deriving DecidableEq, Repr

/-- The fields of a sketch descriptor as they were read (Table 13-1), and its address. -/
structure SkDesc where
  addr : Word
  base : Nat
  salt : BitVec 32
  f    : Nat
  logw : Nat
  d    : Nat
  deriving DecidableEq, Repr

/-- A collective as its job knows it (R404, R405): number, compared fields, ranks of the members, its own index, the
addresses of its buffers, the permutation, what has arrived from each member, how many of its packets have been retired (R394), the
entropy values per peer less one (R400), and the sketches. -/
structure Coll where
  num    : Nat
  hdr    : CollHdr
  ranks  : List (BitVec 12)
  self   : Nat
  send   : Word
  recv   : Word
  perm   : List Nat
  tmo    : Nat
  src    : Option SkDesc
  dst    : Option SkDesc
  data   : List (Nat × Nat × List (BitVec 64))
  sk     : BitVec 2
  acks   : Nat
  paths  : Nat
  placed : Bool
  refuse : Option (BitVec 8 × BitVec 8)
  deriving DecidableEq, Repr

/-- The exact sum of the products of a summation block so far (R86, R88): whether an operand was NaN or a product 0 * inf, whether
NV arose, which infinite products it holds, and the finite part m * 2^e. -/
structure BlockSum where
  nan  : Bool
  nv   : Bool
  pinf : Bool
  ninf : Bool
  m    : Int
  e    : Int
  deriving DecidableEq, Repr

/-- A job of the task table (R266): its kind, engine and number in submit order, the SB field, the bundle that submitted
it, launch and region of its core, the parameters copied at submit, BASE of the status area (R267), its footprints and
edges, how many of the accesses that its core had outstanding at the submit still stand before it (R237), where it stands, PROGRESS
and FLAGS, the state of its own stochastic rounding, the open summation blocks of a matrix job by part of an element (R286), the bytes of its open step
taken from the streams A, B and S (R285), the descriptors it read, its collective, the packets it has made, and the CYCLE at its start. -/
structure Job where
  kind   : JobKind
  eng    : Nat
  ord    : Nat
  sb     : BitVec 6
  pc     : Word
  lid    : BitVec 32
  region : BitVec 16
  ps     : List Word
  status : Option Nat
  reads  : List Span
  writes : List Span
  edges  : List Edge
  behind : Nat
  st     : JobSt
  prog   : Nat
  fl     : BitVec 7
  seed   : BitVec 32
  sums   : List (Nat × BlockSum)
  intake : List (List Byte)
  desc   : List SkDesc
  coll   : Option Coll
  made   : Nat
  start  : Word
  deriving DecidableEq, Repr

/-- The phaser commands that travel to their home (R243); `job` is the signal of a job, and `fail` its setting of ERR, where
they come behind commands of its core (R248) or wait for a bank (R331). -/
inductive PhOp where
  | init | reg | drop | sig | sw | wait | job | fail
  deriving DecidableEq, Repr

/-- A posted command: the key of the phaser's word 0, its operand with BYTES of PHINIT or of a job, how many of the core's outstanding
accesses stand before it (R249). -/
structure PhCmd where
  op     : PhOp
  key    : Nat
  bytes  : Bool
  x      : Word
  before : Nat
  deriving DecidableEq, Repr

/-- The engines of a core: parameter registers (16 for each of engines 0 to 7), the task table, the next job number,
unreported faults and the pending TDEP mask (R273, R275), MCFG commands that wait (job number, array, mode), the fusion
modes and operand streams (12 for each array, four quarters of A, B and S), the accumulator words that are not zero
(array * 65,536 + word), LOK of each tile, and the sync engine's queue. -/
structure Engines where
  params  : Vector Word 128
  jobs    : List (Nat × Job)
  ordNext : Nat
  unrep   : BitVec 64
  tdep    : BitVec 64
  mcfgs   : List (Nat × Nat × BitVec 2)
  modes   : Vector (BitVec 2) 2
  streams : List (Nat × List Byte)
  acc     : List (Nat × Half)
  lok     : BitVec 32
  phq     : List PhCmd
  deriving DecidableEq, Repr

/-- The engines after core reset (Table 1-1, R281) (log entry 2). -/
def Engines.reset : Engines :=
  { params := Vector.replicate 128 0#64, jobs := [], ordNext := 0, unrep := 0#64, tdep := 0#64, mcfgs := [],
    modes := Vector.replicate 2 0#2, streams := [], acc := [], lok := 0#32, phq := [] }

/-- The effective fields of a region (Table 7-10); `pool` is the address of the QPOOL that it charges. -/
structure Region where
  budget : Word
  prio   : Nat
  spMem  : Nat
  cquota : Nat
  pool   : Nat
  spm    : Word
  reg    : BitVec 9
  acc    : BitVec 32
  carve  : Nat
  deriving DecidableEq, Repr

/-- One core: the registers of Tables 1-1 and 1-4, what is in flight, the scheduling state of spec/07 and
spec/14 with the effective fields of its region as they were when its continuation started (R179), whether a seq remote access of
system scope awaits its acknowledgement (`fenced`, R232), the banks of a pre-empted victim that the newcomer has yet to claim
(`owedReg`, `owedSpm`, `owedAcc`), the segment that its finder fetched from last (R173), whether it owes a sample (R341), and the banks that neither owns and the newcomer has yet to use (`freshSpm`, `freshAcc`, R330),
and the engines. -/
structure Core where
  s         : Vector Word 64
  p         : Vector Bool 24
  m         : Vector Mask 8
  v         : Vector VReg 32
  latches   : Vector (Option Word) 8
  flags     : BitVec 7
  ctlDef    : BitVec 10
  fmt       : BitVec 13
  scl       : BitVec 48
  budget    : Word
  trapCause : BitVec 6
  trapPc    : Word
  trapInfo  : Word
  trapVec   : Word
  inTrap    : Bool
  launchId  : BitVec 32
  regionId  : BitVec 16
  cycle     : Word
  bundles   : Word
  ras       : List Word
  rasSpill  : Nat
  spillBase : Word
  spillOvf  : Word
  spillQuota : Word
  dq        : Vector (List DqElem) 4
  dqSpill   : Vector (List DqElem) 4
  loops     : List Loop
  srSeed    : BitVec 32
  joinTag   : BitVec 6
  segTab    : Word
  pmcCfg    : Word
  pmc       : Vector Word 8
  monitor   : Monitor
  xkey      : BitVec 32
  pend      : List Pend
  outs      : List Access
  rejects   : List Word
  posted    : List Word
  fenced    : Bool
  tags      : List (Nat × TagEntry)
  run       : RunState
  resumePc  : Word
  arg       : Word
  cmdStat   : BitVec 8
  smReg     : BitVec 9
  smAcc     : BitVec 32
  smSpm     : Word
  parked    : List (Nat × Nat × List VReg)
  join      : JoinState
  next      : Word
  queue     : List Delivered
  own       : List (Nat × Outcome)
  finder    : List (Nat × BitVec 512)
  seg       : Option Nat
  answer    : Option RemoteAnswer
  sched     : BitVec 32
  trace     : List TraceRec
  sampDue   : Bool
  wait      : Wait
  waited    : Nat
  launch    : Option Nat
  record    : BitVec 52
  region    : Option Region
  prio      : BitVec 3
  spmAllot  : Word
  regAllot  : BitVec 9
  accAllot  : BitVec 32
  owedReg   : BitVec 9
  owedSpm   : Word
  owedAcc   : BitVec 32
  freshSpm  : Word
  freshAcc  : BitVec 32
  eng       : Engines
  deriving DecidableEq, Repr

/-- The core right after core reset (Tables 1-1 and 1-4, log entry 2). -/
def Core.reset (coreId : BitVec 11) : Core :=
  { s := Vector.replicate 64 0#64, p := Vector.replicate 24 false, m := Vector.replicate 8 0#128,
    v := Vector.replicate 32 0#1024, latches := Vector.replicate 8 none, flags := 0#7, ctlDef := 0x191#10,
    fmt := 0xC08#13, scl := 0#48, budget := 0xFFFFFFFFFFFFFFFF#64, trapCause := 0#6, trapPc := 0#64, trapInfo := 0#64,
    trapVec := 0#64, inTrap := false, launchId := 0#32, regionId := 0#16, cycle := 0#64, bundles := 0#64, ras := [],
    rasSpill := 0, spillBase := 0#64, spillOvf := 0#64, spillQuota := 0#64, dq := Vector.replicate 4 [],
    dqSpill := Vector.replicate 4 [], loops := [], srSeed := coreId.setWidth 32 + 1#32, joinTag := 0#6, segTab := 0#64,
    pmcCfg := 0#64, pmc := Vector.replicate 8 0#64,
    monitor := { armed := false, conf := false, space := 0#2, line := 0#46, key := 0, codes := [] },
    xkey := 0#32, pend := [], outs := [], rejects := [], posted := [], fenced := false, tags := [], run := .idle, resumePc := 0#64,
    arg := 0#64, cmdStat := 0#8, smReg := 0#9, smAcc := 0#32, smSpm := 0#64, parked := [], join := .detached,
    next := 0#64, queue := [], own := [], finder := [], seg := none, answer := none, sched := 0#32, trace := [], sampDue := false, wait := .none, waited := 0, launch := none,
    record := 0#52, region := none, prio := 0#3, spmAllot := 0xFFFFFFFFFFFFFFFF#64, regAllot := 0x1FF#9, accAllot := 0xFFFFFFFF#32,
    owedReg := 0#9, owedSpm := 0#64, owedAcc := 0#32, freshSpm := 0#64, freshAcc := 0#32, eng := Engines.reset }

/-! ## Domes, dies and launches -/

/-- What a dome runs (R182 to R187): nothing; a dome-kind record; or a private-kind one, whose records its cores name.
`ending` marks a continuation that has ended and waits for its engine jobs (R186). -/
inductive DomeRun where
  | idle
  | dome (record : BitVec 52)
  | priv
  | ending
  deriving DecidableEq, Repr

/-- An open stream JOIN (R162, R163): its bundle's place in the stream, mode, tag, address and the cycles left. -/
structure JoinOpen where
  seq  : Nat
  any  : Bool
  tag  : BitVec 6
  addr : Word
  left : Option Nat
  deriving DecidableEq, Repr

/-- A vote cast (R98): AND or OR, the core, its predicate, its destination, the latch position of its syllable and the
number of writes then in flight, behind which those of higher positions stand (R22). -/
structure Vote where
  all  : Bool
  core : Nat
  b    : Bool
  w    : Bool
  d    : BitVec 5
  pos  : Nat
  len  : Nat
  deriving DecidableEq, Repr

/-- What the attached cores do together once each of them has issued the bundle: DSYNC (R116), IFENCE (R119), SUSPEND or
YIELD (R184). -/
inductive Meet where
  | dsync
  | ifence
  | suspend
  | yield
  deriving DecidableEq, Repr

/-- A bundle that the front end delivers nothing beyond until every core that was attached when it was delivered has
issued it or detached: its place in the stream, what its control syllable does and whether a core has done it, whether it
holds a vote (R98), its next_bundle_start, the cores that have yet to issue it, and the votes. -/
structure Barrier where
  seq     : Nat
  kind    : Option Meet
  live    : Bool
  vote    : Bool
  next    : Word
  missing : List Nat
  votes   : List Vote
  deriving DecidableEq, Repr

/-- A resident segment (R172 to R174): its row of the segment table, its bytes, and whether an IFENCE made it stale. -/
structure Segment where
  num   : Nat
  base  : Word
  len   : Nat
  image : BitVec 52
  pin   : Bool
  stale : Bool
  bytes : List Host.Cell
  deriving DecidableEq, Repr

/-- One dome: its front end (`fe` the next address, `seq` the bundles delivered, `awaits` the bundle whose successor the
lead core has yet to give, `boss` the lead core of the bundle delivered last, R154), detach sets, open JOIN, barrier, the guards that cores have shown for a dome-uniform
syllable (R160), instruction memory with the segment that the stream fetched from last and the hints not yet served (R173), the initial records that it has yet to start, with their launch (R176, R187),
the newcomer that a PREEMPT has asked for with its launch and the core that the command named, and what it runs. -/
structure Dome where
  run     : DomeRun
  launch  : Option Nat
  fe      : Word
  seq     : Nat
  awaits  : Option Nat
  boss    : Option Nat
  det     : Vector (BitVec 16) 64
  open?   : Option JoinOpen
  barrier : Option Barrier
  guards  : List (Nat × Nat × Bool)
  segs    : List Segment
  feSeg   : Option Nat
  hints   : List Nat
  pending : List (Nat × BitVec 52)
  asked   : Option (BitVec 52 × Nat × Nat)
  deriving DecidableEq, Repr

def Dome.reset : Dome :=
  { run := .idle, launch := none, fe := 0#64, seq := 0, awaits := none, boss := none, det := Vector.replicate 64 0#16, open? := none,
    barrier := none, guards := [], segs := [], feSeg := none, hints := [], pending := [], asked := none }

/-- A supervisor record that has arisen (Table 14-2), without SEQ. -/
structure SupRecord where
  words : List Word
  deriving DecidableEq, Repr

/-- A shootdown in the queue of a die (R325). -/
structure Shootdown where
  scope : BitVec 3
  core  : BitVec 11
  va    : BitVec 52
  size  : BitVec 6
  deriving DecidableEq, Repr

/-- A cached translation (R323, R324): the range it maps, the entry it was built from, the frame, and whether the entry stands in a
group of sixteen. -/
structure TlbEntry where
  va    : Nat
  size  : Nat
  entry : Word
  frame : Nat
  group : Bool
  deriving DecidableEq, Repr

/-- An entry of a ready queue (R187): launch, level, record, and whether it stands in the
spill ring (R188); the list is in the order in which entries came to their level. -/
structure Ready where
  launch : Nat
  level  : Nat
  record : BitVec 52
  off    : Bool
  deriving DecidableEq, Repr

/-- What the members of a reduction must agree on (R255): parameters 1 and 2. -/
structure RedKey where
  p1 : Word
  p2 : Word
  deriving DecidableEq, Repr

/-- A contribution or partial result at a router (R255, R256): the router's number, the stage it is an input of (3 for
the result at the root), its place in the order west, north, east, south, local, its key, its launch, the contributions it holds,
the flags raised, and the elements. -/
structure Partial where
  router : Nat
  stage  : Nat
  dir    : Nat
  key    : RedKey
  launch : Option Nat
  count  : Nat
  fl     : BitVec 7
  vals   : List (BitVec 32)
  deriving DecidableEq, Repr

/-- A copy of a line homed on another die (R353): its bytes, and which of them agents of this die have written. -/
structure Copy where
  bytes : BitVec 512
  dirty : BitVec 64
  deriving DecidableEq, Repr

/-- One die: the die control page (Table 14-3), pending supervisor records, translation cache, ready queues, the partials
at its routers with the reductions found mismatched (R261) and those whose root has ended
them (R260), copies of other dies' lines by line number, and the vector
clock (R354). -/
structure Die where
  ttRoot   : BitVec 52
  sqBase   : BitVec 40
  sqSize   : BitVec 5
  sqHead   : BitVec 32
  sqTail   : BitVec 32
  tlbiVa   : BitVec 52
  tlbiSize : BitVec 6
  tlbiDone : BitVec 32
  tlbiQ    : List Shootdown
  records  : List SupRecord
  tlb      : List TlbEntry
  ready    : List Ready
  partials : List Partial
  badRed   : List RedKey
  deadRed  : List RedKey
  copies   : List (Nat × Copy)
  clock    : Vector (BitVec 16) 8
  deriving DecidableEq, Repr

def Die.reset : Die :=
  { ttRoot := 0#52, sqBase := 0#40, sqSize := 6#5, sqHead := 0#32, sqTail := 0#32, tlbiVa := 0#52, tlbiSize := 12#6,
    tlbiDone := 0#32, tlbiQ := [], records := [], tlb := [], ready := [], partials := [], badRed := [], deadRed := [],
    copies := [], clock := Vector.replicate 8 0#16 }

/-- A running launch (R175, R176, R181): its start vector, whether it is a supervisor launch or one started with PRE,
the effective allotments of its root, the address of its completion word, and the domes whose banks are still to be cleared
before its record starts there (R425). -/
structure Launch where
  row     : Nat
  col     : Nat
  height  : Nat
  width   : Nat
  priv    : Bool
  id      : BitVec 32
  root    : BitVec 52
  regions : Nat
  segTab  : BitVec 52
  entries : BitVec 52
  wake    : BitVec 52
  sup     : Bool
  pre     : Bool
  spm     : Word
  reg     : BitVec 9
  acc     : BitVec 32
  done    : Word
  dirty   : List Nat
  deriving DecidableEq, Repr

/-- What the transport holds for a job of a victim until the restore (R331, R381): a packet retired with its bytes, the end
with CODE 3 and the peer that ended it, and a tile completed with its bytes. -/
inductive Held where
  | retired (bytes : Nat)
  | failed (fcause : BitVec 6) (peer : BitVec 12)
  | tile (t bytes : Nat)
  deriving DecidableEq, Repr

/-- The victim of a pre-emption (R329 to R333): the dome and the cores as they stopped, with all that the claims have yet
to move, the address of its region's control block with the reserve taken from QPOOL, and what is held for its jobs, by core and
job number, in order. -/
structure Victim where
  dome   : Dome
  cores  : List (Nat × Core)
  rcb    : Nat
  bytes  : Nat
  held   : List (Nat × Nat × Held)
  deriving DecidableEq, Repr

/-! ## Transport -/

inductive WinSt where
  | idle | armed | complete | cancelled
  deriving DecidableEq, Repr

/-- A completion-ring entry that waits for room (R380, R188): its core, ring and launch, its two words, and the QPOOL (die and
address) that it charges, absent while QPOOL cannot take it. -/
structure RingEnt where
  core   : Nat
  base   : Nat
  size   : Nat
  launch : Option Nat
  x      : Word
  y      : Word
  paid   : Option (Nat × Nat)
  deriving DecidableEq, Repr

/-- A receive window (Table 16-8): STATE, PEND, ARM, the owner's core, job number and LAUNCHID, the parameters of its
last arming, the chunks and tiles it has counted (bit masks), the launches that have armed it, the last of them, the QPOOL of the
region that armed it, and the ring entries that wait for room. -/
structure Window where
  st     : WinSt
  pend   : Bool
  arm    : BitVec 16
  core   : Nat
  ord    : Nat
  lid    : BitVec 32
  ps     : List Word
  got    : Nat
  tiles  : Nat
  used   : List Nat
  launch : Option Nat
  pool   : Option (Nat × Nat)
  spill  : List RingEnt
  deriving DecidableEq, Repr

def Window.reset : Window :=
  { st := .idle, pend := false, arm := 0#16, core := 0, ord := 0, lid := 0#32, ps := [], got := 0, tiles := 0,
    used := [], launch := none, pool := none, spill := [] }

/-- Why a target does not take a packet (R360, R363, R377, R393): it was trimmed, it is not ready, or it rejects it, with a reason
code of Table 16-5 or 16-9 where one is given. -/
inductive NakWhy where
  | trim
  | notReady
  | reject (reason : Option Nat)
  deriving DecidableEq, Repr

/-- What a packet on the fabric says: a remote access (0 read, 1 write, 2 atomic with the FN code of R209 and R371, 32 or 64 bits and the
value it compares with), a chunk, a collective's data with LAUNCHID and number, an acknowledgement (cumulative PSN and the PSNs received beyond it), a
NAK, and the data of a response. -/
inductive PacketBody where
  | rma (kind : Nat) (flat : Word) (len : Nat) (key : BitVec 32) (data : List Byte) (fn : Nat) (half : Bool) (cmp : Word)
  | place (win : BitVec 10) (arm : BitVec 16) (coord shape : List Nat) (loges : BitVec 2) (key : BitVec 32)
      (data : List Byte)
  | coll (lid : BitVec 32) (num : Nat) (hdr : CollHdr) (off : Nat) (elems : List (BitVec 64)) (sk : BitVec 2)
  | ack (cum : BitVec 32) (got : List (BitVec 32))
  | nak (psn : BitVec 32) (why : NakWhy)
  | answer (psn : BitVec 32) (data : List Byte)
  deriving DecidableEq, Repr

/-- A packet of an initiator context that is not retired (R369, R394): its PSN, the core and the number of its job, its
place in the job, its entropy value, its payload bytes, whether it has been acknowledged, whether it is marked for resending, whether only
its response acknowledges it (R394), what it last carried, and the job as it sent it, from whose source a retransmission is read. -/
structure Pkt where
  psn   : BitVec 32
  core  : Nat
  ord   : Nat
  ix    : Nat
  entropy : Nat
  bytes : Nat
  acked : Bool
  again : Bool
  resp  : Bool
  body  : PacketBody
  job   : Option Job
  deriving DecidableEq, Repr

/-- A packet delivery context (R385, R386): its combination, its record, unretired packets (initiator), PSNs received
beyond the next expected one (target), the timer's units left (R393), results kept for repeated atomics (R371), packets
received since the last acknowledgement, and whether its CLOSE has been taken. -/
structure Pdc where
  key     : PdcKey
  words   : Vector Half 16
  pkts    : List Pkt
  got     : List (BitVec 32)
  timer   : Option Nat
  results : List (Nat × Word)
  unacked : Nat
  free    : Bool
  deriving DecidableEq, Repr

/-- A packet that waits for its context (R364, R386, R411): 4096 + core for a core's own access, or the core and job number of a
collective, its entropy value, the context's combination, what it says, its payload bytes, and whether it is answered with data. -/
structure OutPkt where
  core  : Nat
  ord   : Nat
  entropy : Nat
  key   : PdcKey
  body  : PacketBody
  bytes : Nat
  resp  : Bool
  deriving DecidableEq, Repr

/-- An event entry (Table 17-3). -/
structure LinkEv where
  w0 : Half
  w1 : Half
  w2 : Half
  w3 : Half
  deriving DecidableEq, Repr

/-- A link core (Table 17-1, R387, Table 17-10): registers, PC, local memory, its event queue on chip and spilled, how many of the
spilled entries, the oldest, QPOOL has been charged for, and the fields of its status word, with the times of its stops. -/
structure LinkCore where
  l      : Vector Half 16
  pc     : BitVec 18
  mem    : List Host.Cell
  events : List LinkEv
  spill  : List LinkEv
  paid   : Nat
  state  : BitVec 2
  cause  : BitVec 6
  stops  : BitVec 4
  spc    : BitVec 18
  info   : Half
  times  : List Word
  deriving DecidableEq, Repr

def LinkCore.reset : LinkCore :=
  { l := Vector.replicate 16 0#32, pc := 0#18, mem := [], events := [], spill := [], paid := 0, state := 0#2, cause := 0#6,
    stops := 0#4, spc := 0#18, info := 0#32, times := [] }

/-- One port die: the statistics that both link cores share (Table 17-9; indexes 2 to 10), CYCLE, and the half that the
last read of index 0 latched. -/
structure PortDie where
  stats : Vector Half 12
  cycle : Word
  latch : Half
  deriving DecidableEq, Repr

def PortDie.reset : PortDie := { stats := Vector.replicate 12 0#32, cycle := 0#64, latch := 0#32 }

/-- A packet that has left the device: the peer, the port where the path is given, the context it belongs to and its PSN. -/
structure Packet where
  peer : BitVec 12
  port : Option Nat
  k    : Nat
  i    : Nat
  psn  : BitVec 32
  body : PacketBody
  deriving DecidableEq, Repr

/-! ## Command queues and the root controller -/

/-- A LOOP body in execution (R427): its packets with their addresses, the next of them, the passes left, and whether this is
the first. -/
structure Body where
  pkts  : List (Word × List Word)
  ix    : Nat
  left  : Nat
  first : Bool
  deriving DecidableEq, Repr

/-- One stream of a queue (R419, R426): its base and size, the next byte, the bytes read ahead as doublewords (R429), a LOOP
body, and the packets that a WAITMEM still skips (R428). -/
structure Stream where
  base : Nat
  size : Nat
  pos  : Nat
  buf  : List (Nat × Word)
  body : Option Body
  skip : Nat
  deriving DecidableEq, Repr

/-- Work of a queue that outlasts its packet (R421, R424): a COPY, or a launch with the SEQ of its LAUNCH (R349); `pkt` is the
packet's address. -/
inductive Back where
  | copy (src dst : Word) (len : Nat) (pkt : Word)
  | launch (l : Nat) (seq : BitVec 32) (pkt : Word)
  deriving DecidableEq, Repr

/-- A packet that a queue has in hand: its address and words, and how far it has come. -/
inductive Phase where
  | fetched
  | logWait
  | started
  deriving DecidableEq, Repr

structure InHand where
  addr  : Word
  ws    : List Word
  phase : Phase
  deriving DecidableEq, Repr

/-- One command queue as the queue processor holds it (R419 to R430): EN observed, STATE, TAIL as last read, HEAD, its
streams (innermost first), the packet in hand, work in the background, the packet whose background work met a fault, the number
of its next packet, the kernels logged (R349), whether a TYPE 3 entry is owed (R350), and the completion entries that STALL holds
back. -/
structure CmdQ where
  on   : Bool
  st   : BitVec 2
  tail : Nat
  head : Nat
  strs : List Stream
  hand : Option InHand
  back : List Back
  bad  : Option Word
  seq  : BitVec 32
  kern : BitVec 32
  gap  : Bool
  owed : List (List Word)
  deriving DecidableEq, Repr

def CmdQ.reset : CmdQ :=
  { on := false, st := 0#2, tail := 0, head := 0, strs := [], hand := none, back := [], bad := none, seq := 0#32,
    kern := 0#32, gap := false, owed := [] }

/-- An attestation report (R434). -/
structure Report where
  nonce : BitVec 256
  image : BitVec 256
  rank  : BitVec 12
  mask  : BitVec 96
  stat  : Word
  sig   : Word
  deriving DecidableEq, Repr

/-- The root controller (spec/21): power, stage and first failure, the image that runs, the one in the slot and the one that stood there at
the last reset (`boot`, R433), the domes that have failed their test in this power cycle (R432), the SVSTAT words of the supervisors
(Table 21-3), whether the domes are released, end-to-end key slots, dies whose clock a sag stretches, the thermal stretch, the reports it has given, and the domes whose
routing tables fail the check of R176. -/
structure Root where
  power   : Bool
  stage   : BitVec 4
  fail    : BitVec 8
  image   : Option FwImage
  slot    : Option FwImage
  boot    : Option FwImage
  failed  : BitVec 96
  svstat  : List (Nat × Word)
  released : Bool
  keys    : List (Nat × BitVec 256)
  sags    : List Nat
  hot     : Bool
  reports : List Report
  badRoutes : List Nat
  deriving DecidableEq, Repr

def Root.reset : Root :=
  { power := false, stage := 0#4, fail := 0#8, image := none, slot := none, boot := none, failed := 0#96, svstat := [], released := false, keys := [], sags := [],
    hot := false, reports := [], badRoutes := [] }

/-! ## The bundle in issue -/

/-- How the issue of a syllable stands: it ran, the bundle must wait a cycle, or it raised a trap (R17). -/
inductive Issued where
  | ran
  | stalled
  | trapped (cause : BitVec 6) (info : Word)
  deriving DecidableEq, Repr

/-- What ends or redirects a bundle after all its syllables (R108, R184, R185). -/
inductive After where
  | fall
  | jump (target : Word) (endsLoops : Bool)
  | loop (a : Word) (off : BitVec 10)
  | join (any : Bool) (tag : BitVec 6)
  | suspend
  | yield
  | exit
  | rft
  | vote (v : Vote)
  | dsync
  | ifence
  | fence (ord scope : Nat)
  | efence (scope ord : Nat)
  deriving DecidableEq, Repr

/-- The context of the syllable in issue: position, word 0, the bundle's place in the stream, bundle address, successor and length in bytes, the prefix
before it, the seed that stochastic rounding has reached (R73), what the bundle's earlier syllables leave in the latches
(R23), the events the counters see in this cycle (Table 15-3), whether a trap discards held rejections (R195), the slot whose fault a trap reports (R273), what comes after the bundle,
the banks of a victim that the bundle must claim before it issues (R330), whether its stall counts against BUDGET (R273), the element counts of the deferral paths
at its issue (on chip and spilled, R169), the control registers that its own syllables move as they read before it (R15), the lead core
of the bundle (R154), the counters that its syllables wrote once its cycle is over (R347), how many of the last outstanding accesses and posted remote writes are its own, the number of its first
job, and the remote accesses whose answers it lacks (R195). -/
structure Issue where
  pos  : Nat
  w0   : Half
  seq  : Nat
  addr : Word
  next : Word
  len  : Nat
  pm   : Option PfxM
  pa   : Option PfxA
  seed : Option (BitVec 32)
  lat  : List (Nat × Word)
  evs  : List Nat
  res  : Issued
  drop : Bool
  told : Option Nat
  aft  : List After
  claims : List Nat
  tick : Bool
  dqc  : List (Nat × Nat)
  crs  : List (Nat × Word)
  boss : Option Nat
  ended : Option (List Nat)
  mine : Nat
  sent : Nat
  job0 : Nat
  far  : List Access
  deriving DecidableEq, Repr

def Issue.none : Issue :=
  { pos := 0, w0 := 0#32, seq := 0, addr := 0#64, next := 0#64, len := 0, pm := Option.none, pa := Option.none,
    seed := Option.none, lat := [], evs := [], res := .ran, drop := false, told := Option.none, aft := [], claims := [], tick := false, dqc := [],
    crs := [], boss := Option.none, ended := Option.none, mine := 0, sent := 0, job0 := 0, far := [] }

/-- Who moves next (log entry 4): a core by its COREID value, a link core, or an event. -/
inductive Turn where
  | core (c : Nat)
  | link (k : Nat)
  | event (i : Instr)
  deriving DecidableEq, Repr

/-- The whole device, as plain data: whose turn it is and what is to come, the bundle in issue and the counter of free
values (log entries 4 to 7); cores, domes, dies and launches with the number of the next; DOMEMASK; victims by dome; receive windows, packet delivery
contexts (4,095 * link core + index), link cores, port dies, ports that are down, packets that wait for their context, packets sent; the collectives numbered in
each group of a launch (R404), those this device rejects (R405, R412) and those whose packets it drops (R403); command queues and the queue whose slot it is; the 4 KiB pages each launch has written (R351);
the root controller; and memory, by physical address and scratchpad key. -/
structure State where
  cur      : Nat
  agenda   : List Turn
  eager    : Bool
  issue    : Issue
  freeCtr  : Nat
  cores    : List (Nat × Core)
  domes    : List (Nat × Dome)
  dies     : List (Nat × Die)
  launches : List (Nat × Launch)
  nextLaunch : Nat
  domeMask : BitVec 96
  victims  : List (Nat × Victim)
  windows  : List (Nat × Window)
  pdcs     : List (Nat × Pdc)
  links    : List (Nat × LinkCore)
  ports    : List (Nat × PortDie)
  down     : List Nat
  outq     : List OutPkt
  wire     : List Packet
  groups   : List (List Word × Nat)
  collBad  : List (List Word × Nat)
  collMute : List (List Word × Nat)
  queues   : List (Nat × CmdQ)
  qturn    : Nat
  pages    : List (Nat × List Nat)
  root     : Root
  mem      : List Host.Cell
  deriving DecidableEq, Repr

/-- Why the machine stops. -/
inductive Fault where
  /-- No meaning raises it: the device has no state in which an Eccor core or a link core cannot go on (safe). -/
  | unreachable
  deriving DecidableEq, Repr

/-- Why the model gives no next state. -/
inductive Refusal where
  /-- An arm of `exec` that has no meaning yet (safe: the machine would go on). -/
  | notModelled (mnemonic : String)
  deriving DecidableEq, Repr

/-- The device right after reset (INVENTORY.md; log entries 1 to 6). -/
def State.reset : State :=
  { cur := 0, agenda := [], eager := true, issue := Issue.none, freeCtr := 0, cores := [], domes := [], dies := [],
    launches := [], nextLaunch := 0, domeMask := 0#96, victims := [], windows := [], pdcs := [], links := [], ports := [], down := List.range 52,
    outq := [], wire := [], groups := [], collBad := [], collMute := [], queues := [], qturn := 0, pages := [], root := Root.reset, mem := [] }

end Sys2Proof.Machine
end

