-- ==== Sys2Proof/Machine/Ops.lean ====
section
/-! DEFINITION. Named operations over the state: sparse tables and memory, registers and control registers, the writes
in flight (R19, R22), drains (R25), taking a trap (R310, R311) and returning from one (R118). -/

namespace Sys2Proof.Machine

abbrev Out := Host.Outcome State Fault Refusal

/-! ## Sparse tables: lists of keys and values with strictly rising keys -/

/-- The value listed at a key. -/
def tabGet? {α : Type} (t : List (Nat × α)) (k : Nat) : Option α :=
  match t with
  | [] => none
  | (j, v) :: r => if j = k then some v else tabGet? r k

/-- List a value at a key, in its place. -/
def tabPut {α : Type} (t : List (Nat × α)) (k : Nat) (v : α) : List (Nat × α) :=
  match t with
  | [] => [(k, v)]
  | (j, w) :: r => if j < k then (j, w) :: tabPut r k v else if j = k then (k, v) :: r else (k, v) :: (j, w) :: r

/-- Remove what is listed at a key. -/
def tabDel {α : Type} (t : List (Nat × α)) (k : Nat) : List (Nat × α) :=
  match t with
  | [] => []
  | (j, w) :: r => if j = k then r else (j, w) :: tabDel r k

/-- Keys rise strictly. -/
def tabSorted {α : Type} (t : List (Nat × α)) : Bool :=
  match t with
  | [] => true
  | [_] => true
  | (j, _) :: (k, v) :: r => j < k && tabSorted ((k, v) :: r)

/-- The bits set in a mask. -/
def bitsOf (x n : Nat) : Nat := (List.range n).countP x.testBit

/-- Bits `lo` to `lo + n - 1` of a doubleword. -/
def fld (x : Word) (lo n : Nat) : Nat := x.toNat / 2 ^ lo % 2 ^ n

/-! ## Memory: bytes by key; an unlisted byte reads as zero (log entry 1) -/

/-- The canonical form of memory: keys rise strictly and no listed byte is zero. -/
def Memory.wf (m : List Host.Cell) : Bool := tabSorted m && m.all fun c => c.2 != 0#8

/-- One byte (log entry 1). -/
def Memory.get (m : List Host.Cell) (k : Nat) : Byte := (tabGet? m k).getD 0#8

/-- Write one byte; a zero byte is not listed (log entry 1). -/
def Memory.put (m : List Host.Cell) (k : Nat) (b : Byte) : List Host.Cell :=
  if b = 0#8 then tabDel m k else tabPut m k b

/-- `n` bytes from a key up, little-endian (R4). -/
def Memory.read (m : List Host.Cell) (k : Nat) : Nat → Nat
  | 0 => 0
  | n + 1 => (Memory.get m k).toNat + 256 * Memory.read m (k + 1) n

/-- Write the low `n` bytes of a value from a key up, little-endian. -/
def Memory.write (m : List Host.Cell) (k : Nat) (n : Nat) (x : Nat) : List Host.Cell :=
  match n with
  | 0 => m
  | n + 1 => Memory.write (Memory.put m k (BitVec.ofNat 8 x)) (k + 1) n (x / 256)

/-- The key of byte `off` of the scratchpad of a core (R193) (log entry 1). -/
def spKey (c off : Nat) : Nat := 0xFFFFE00000000 + c * 2 ^ 22 + off

/-- Read `n` bytes of memory. -/
def State.rd (s : State) (k n : Nat) : Nat := Memory.read s.mem k n

/-- Write `n` bytes of memory. -/
def State.wr (s : State) (k n x : Nat) : State := { s with mem := Memory.write s.mem k n x }

/-! ## Writes at a home, and monitors (spec/08 R214, R215) -/

/-- The monitor of a core is armed and confirmed on the 64-byte line of a key. -/
def Monitor.on (m : Monitor) (line : Nat) : Bool := m.armed && m.conf && m.key / 64 = line

/-- A write reached the home of a line: every monitor on it records code 0 (R215). -/
def State.touchLine (s : State) (line : Nat) : State :=
  { s with cores := s.cores.map fun e =>
      if e.2.monitor.on line then
        (e.1, { e.2 with monitor := { e.2.monitor with codes := e.2.monitor.codes ++ [0] } })
      else e }

/-- Write `n` bytes at their home. An access never crosses a 64-byte line but by a vector, whose chunks do not (R150). -/
def State.store (s : State) (key n x : Nat) : State := (s.wr key n x).touchLine (key / 64)

/-! ## The firmware image that runs (Table 21-3) -/

/-- REGTAB: the physical base of the region table (log entry 89). -/
def Root.regtab (r : Root) : Nat := match r.image with | some f => f.regtab.toNat % 2 ^ 52 / 2 ^ 12 * 2 ^ 12 | none => 0

/-- The physical address of the QPOOL word of the region of the link cores (R387) (log entry 78). -/
def Root.fwPool? (r : Root) : Option Nat := r.image.map fun f => f.pool.toNat % 2 ^ 52 / 8 * 8

/-- QTBASE: the device virtual base of the queue table (log entry 89). -/
def Root.qtbase (r : Root) : Nat := match r.image with | some f => f.qtbase.toNat % 2 ^ 52 | none => 0

/-! ## Cores, domes, dies -/

/-- Whether a core is the supervisor core of a die; supervisor cores have the keys 2048 + die (log entry 8). -/
def isSup (c : Nat) : Bool := 2048 ≤ c

def dieOf (c : Nat) : Nat := if isSup c then c - 2048 else c % 8
def domeOf (c : Nat) : Nat := c / 8 % 16
def coreIx (c : Nat) : Nat := c / 128
/-- The key of a dome: 12 * die + dome. -/
def domeKey (c : Nat) : Nat := 12 * dieOf c + domeOf c
/-- The key of core `x` of a dome. -/
def coreAt (dm x : Nat) : Nat := x * 128 + dm % 12 * 8 + dm / 12

/-- COREID (Table 1-4) (log entry 8). -/
def coreIdOf (c : Nat) : BitVec 11 := if isSup c then Config.supCoreId (c - 2048) else BitVec.ofNat 11 c

def State.core (s : State) (c : Nat) : Core := (tabGet? s.cores c).getD (Core.reset (coreIdOf c))
def State.setCore (s : State) (c : Nat) (x : Core) : State := { s with cores := tabPut s.cores c x }
/-- The core whose turn it is. -/
def State.me (s : State) : Core := s.core s.cur
def State.setMe (s : State) (x : Core) : State := s.setCore s.cur x
def State.dome (s : State) (d : Nat) : Dome := (tabGet? s.domes d).getD Dome.reset
def State.setDome (s : State) (d : Nat) (x : Dome) : State := { s with domes := tabPut s.domes d x }
def State.die (s : State) (d : Nat) : Die := (tabGet? s.dies d).getD Die.reset
def State.setDie (s : State) (d : Nat) (x : Die) : State := { s with dies := tabPut s.dies d x }
def State.launch? (s : State) (l : Option Nat) : Option Launch := l.bind (tabGet? s.launches)

/-- The cores of a dome, lowest first. -/
def domeCores (dm : Nat) : List Nat := (List.range 16).map (coreAt dm)

/-- A core that takes part in the stream: attached or held (R158). -/
def Core.inStream (c : Core) : Bool := c.join = .attached || c.join = .held

/-- A core that is held: in its handler, or stopped while attached (R158). -/
def Core.isHeld (c : Core) : Bool := c.join = .held || c.join = .attached && c.run = .stopped

/-- The lead core of a dome as the front end takes it: the lowest-numbered attached core (R154) (log entry 58). -/
def State.lead? (s : State) (dm : Nat) : Option Nat := (domeCores dm).find? fun c => (s.core c).inStream

/-- A 16-bit mask of the cores of a dome for which a condition holds. -/
def State.domeSet (s : State) (dm : Nat) (f : Core → Bool) : BitVec 16 :=
  (List.range 16).foldl (fun a x => if f (s.core (coreAt dm x)) then a ||| BitVec.ofNat 16 (2 ^ x) else a) 0#16

/-! ## Registers (R11, R12) -/

def Core.getS (c : Core) (r : BitVec 6) : Word := if r = 0#6 then 0#64 else c.s[r.toNat]'(r.isLt)
def Core.setS (c : Core) (r : BitVec 6) (x : Word) : Core :=
  if r = 0#6 then c else { c with s := c.s.set r.toNat x r.isLt }
def Core.getP (c : Core) (r : BitVec 5) : Bool := if r = 0#5 then true else (c.p[r.toNat]?).getD false
def Core.setP (c : Core) (r : BitVec 5) (b : Bool) : Core :=
  if r = 0#5 then c else { c with p := c.p.setIfInBounds r.toNat b }
def Core.getM (c : Core) (r : BitVec 3) : Mask := if r = 0#3 then BitVec.allOnes 128 else c.m[r.toNat]'(r.isLt)
def Core.setM (c : Core) (r : BitVec 3) (bits x : Mask) : Core :=
  if r = 0#3 then c
  else { c with m := c.m.set r.toNat (c.m[r.toNat]'(r.isLt) &&& ~~~bits ||| x &&& bits) r.isLt }
def Core.getV (c : Core) (r : BitVec 5) : VReg := c.v[r.toNat]'(r.isLt)
def Core.setV (c : Core) (r : BitVec 5) (bits x : VReg) : Core :=
  { c with v := c.v.set r.toNat (c.v[r.toNat]'(r.isLt) &&& ~~~bits ||| x &&& bits) r.isLt }

/-! ## Control registers (R26 to R31) -/

/-- CTL_DEF with a new value under R29: code 0 takes the reset value, a reserved code leaves the field. -/
def newCtlDef (old : BitVec 10) (x : Word) : BitVec 10 :=
  let f (lo len : Nat) (dflt resv : Nat) : Nat :=
    let n := (x >>> lo).toNat % 2 ^ len
    if n = 0 then dflt else if resv ≤ n then (old >>> lo).toNat % 2 ^ len else n
  BitVec.ofNat 10 (f 8 2 1 4 * 2 ^ 8 + f 6 2 2 4 * 2 ^ 6 + f 3 3 2 6 * 2 ^ 3 + f 0 3 1 6)

/-- FMT with a new value under R30: QF below 5 and RND 7 leave their fields. -/
def newFmt (old : BitVec 13) (x : Word) : BitVec 13 :=
  let n := x.setWidth 13
  let qf := if (n >>> 9).toNat < 5 then old &&& 0x1E00#13 else n &&& 0x1E00#13
  let rnd := if n &&& 0x38#13 = 0x38#13 then old &&& 0x38#13 else n &&& 0x38#13
  qf ||| rnd ||| n &&& 0x01C7#13

/-- PMCCFG with a new value: a reserved event code leaves its field (R345, R346). -/
def newPmcCfg (old x : Word) : Word :=
  (List.range 8).foldl (fun a i =>
    let msk : Word := 0x3F#64 <<< (6 * i)
    if ((x >>> (6 * i)) &&& 0x3F#64).toNat < 18 then a else a &&& ~~~msk ||| old &&& msk) x

/-- Write a control register; RO fields and reserved codes keep their value (R26 to R30, R121). -/
def Core.writeCr (c : Core) (n : Nat) (x : Word) : Core :=
  match n with
  | 0 => { c with flags := x.setWidth 7 }
  | 1 => { c with ctlDef := newCtlDef c.ctlDef x }
  | 2 => { c with fmt := newFmt c.fmt x }
  | 3 => { c with scl := x.setWidth 48 }
  | 4 => { c with budget := x }
  | 5 => { c with trapCause := x.setWidth 6 }
  | 6 => { c with trapPc := x }
  | 7 => { c with trapInfo := x }
  | 8 => { c with trapVec := x &&& ~~~3#64 }
  | 16 => { c with spillBase := x }
  | 17 => { c with spillOvf := x }
  | 18 => { c with spillQuota := x }
  | 21 => { c with srSeed := if x.setWidth 32 = 0#32 then 1#32 else x.setWidth 32 }
  | 23 => { c with segTab := x }
  | 24 => { c with pmcCfg := newPmcCfg c.pmcCfg x }
  | 34 => { c with xkey := x.setWidth 32 }
  | _ => if 25 ≤ n ∧ n < 33 then { c with pmc := c.pmc.setIfInBounds (n - 25) x } else c

/-- The lead core that STATUS and JOINSTAT of core `c` name (R154): that of the bundle in issue, else of the bundle that the
front end delivered last. -/
def State.boss? (s : State) (c : Nat) : Option Nat :=
  if c = s.cur && s.issue.boss.isSome then s.issue.boss else (s.dome (domeKey c)).boss

/-- STATUS (Table 1-7). -/
def State.statusOf (s : State) (c : Nat) : Word :=
  let x := s.core c
  let b (v : Bool) (i : Nat) : Word := if v then BitVec.ofNat 64 (2 ^ i) else 0#64
  x.flags.setWidth 64 ||| b (x.join = .attached) 8 ||| b (!isSup c && x.inStream && s.boss? c = some c) 9 |||
    b (isSup c) 10 ||| b x.inTrap 11

/-- DQSTAT (Table 7-7). -/
def Core.dqStat (c : Core) : Word :=
  let on := (c.dq.toList.map List.length).sum
  let sp := (c.dqSpill.toList.map List.length).sum
  let spf := (List.range 4).foldl (fun a i => if (c.dqSpill.toList.getD i []).isEmpty then a else a + 2 ^ (16 + i)) 0
  BitVec.ofNat 64 (min sp 0xFFFFFFFF * 2 ^ 32 + spf + on)

/-- LOOPSTAT (Table 4-3). -/
def Core.loopStat (c : Core) : Word :=
  match c.loops with
  | [] => if c.inTrap then 8#64 else 0#64
  | l :: _ =>
    BitVec.ofNat 64 (min l.count.toNat 0xFFFFFFFF * 2 ^ 32 + l.off.toNat * 2 ^ 10 + (if c.inTrap then 8 else 0) +
      c.loops.length)

/-- JOINSTAT (Table 7-2) as a core reads it: ATTACHED holds its reset value for the idle cores of an idle dome; a supervisor core
stands outside every dome, and its LEAD and masks read zero (log entry 101). -/
def State.joinStat (s : State) (c : Nat) : Word :=
  let x := s.core c
  let dm := domeKey c
  let lead : Nat := if isSup c || (s.lead? dm).isNone then 0 else ((s.boss? c).map coreIx).getD 0
  let set (f : Core → Bool) : BitVec 16 := if isSup c then 0#16 else s.domeSet dm f
  (set fun y => y.join = .exited) ++ (set fun y => y.join = .waiting) ++ 
    (set fun y => y.inStream || (s.dome dm).run = .idle && y.run = .idle) ++ 0#2 ++ x.joinTag ++ 0#3 ++
    BitVec.ofBool (x.join = .held) ++ BitVec.ofNat 4 lead

/-- MONADDR (Table 8-9). -/
def Monitor.addr (m : Monitor) : Word :=
  BitVec.ofBool m.armed ++ BitVec.ofBool (m.armed && !m.codes.isEmpty) ++ m.space ++ 0#8 ++ m.line ++ 0#6

/-- What MFC reads from control register `n` of a core (R27, R122), zero above the register's width. -/
def State.readCr (s : State) (c : Nat) (n : Nat) : Word :=
  let x := s.core c
  match n with
  | 0 => s.statusOf c
  | 1 => x.ctlDef.setWidth 64
  | 2 => x.fmt.setWidth 64
  | 3 => x.scl.setWidth 64
  | 4 => x.budget
  | 5 => x.trapCause.setWidth 64
  | 6 => x.trapPc
  | 7 => x.trapInfo
  | 8 => x.trapVec
  | 9 => (coreIdOf c).setWidth 64
  | 10 => Config.devRank.setWidth 64
  | 11 => x.launchId.setWidth 64
  | 12 => x.regionId.setWidth 64
  | 13 => x.cycle
  | 14 => x.bundles
  | 15 => BitVec.ofNat 64 (x.rasSpill * 2 ^ 32 + x.ras.length)
  | 16 => x.spillBase
  | 17 => x.spillOvf
  | 18 => x.spillQuota
  | 19 => x.dqStat
  | 20 => x.loopStat
  | 21 => x.srSeed.setWidth 64
  | 22 => s.joinStat c
  | 23 => x.segTab
  | 24 => x.pmcCfg
  | 33 => x.monitor.addr
  | 34 => x.xkey.setWidth 64
  | _ => if 25 ≤ n ∧ n < 33 then (x.pmc[n - 25]?).getD 0#64 else 0#64

/-- The control registers that a syllable may move before the end of its bundle, as they read now. -/
def State.crsNow (s : State) (c : Nat) : List (Nat × Word) := ([15, 17, 18, 19, 33] ++ (List.range 9).map (24 + ·)).map fun n => (n, s.readCr c n)

/-- What the bundle in issue reads from control register `n`: its value before any of the bundle's syllables (R15). -/
def State.crNow (s : State) (n : Nat) : Word :=
  match s.issue.crs.find? fun p => p.1 = n with
  | some p => p.2
  | none => s.readCr s.cur n

/-! ## Writes in flight (R19 to R22, R31, R81) -/

/-- Apply one write to the registers. -/
def Core.apply (c : Core) (w : Write) : Core :=
  match w with
  | .s r x => c.setS r x
  | .p r b => c.setP r b
  | .m r bits x => c.setM r bits x
  | .v r bits x => c.setV r bits x
  | .cr n x => c.writeCr n.toNat x
  | .scl bits x => { c with scl := c.scl &&& ~~~bits ||| x &&& bits }
  | .flags f => { c with flags := c.flags ||| f }

def Write.isFlags : Write → Bool
  | .flags _ => true | _ => false

/-- The end of an issue cycle: writes that are due take effect in issue order, flags after the register writes, and the
others come one cycle nearer. -/
def Core.endCycle (c : Core) : Core :=
  let due := c.pend.filter fun p => p.left ≤ 1
  let c1 := { c with pend := (c.pend.filter fun p => !(p.left ≤ 1)).map fun p => { p with left := p.left - 1 } }
  let c2 := (due.filter fun p => !p.w.isFlags).foldl (fun a p => a.apply p.w) c1
  (due.filter fun p => p.w.isFlags).foldl (fun a p => a.apply p.w) c2

/-- `n` issue cycles pass with nothing issued. -/
def Core.endCycles (c : Core) : Nat → Core
  | 0 => c
  | n + 1 => (c.endCycle).endCycles n

/-- Every exposed write already issued is made; at most 20 cycles (R25). -/
def Core.settle (c : Core) : Core := c.endCycles 20

/-- All latches invalid (R24). -/
def Core.noLatches (c : Core) : Core := { c with latches := Vector.replicate 8 none }

/-- Issue a write with exposed latency `l` (R19). -/
def Core.post (c : Core) (l : Nat) (w : Write) : Core := { c with pend := c.pend ++ [{ left := l, w := w }] }

def State.post (s : State) (l : Nat) (w : Write) : State := s.setMe (s.me.post l w)

/-- Post flags, where there are any. -/
def State.postFlags (s : State) (l : Nat) (f : BitVec 7) : State := if f = 0#7 then s else s.post l (.flags f)

/-! ## Waits (R216, R247) -/

/-- A WAITM ends with a code (R216): d and the latch of its position are written, the monitor disarmed. -/
def Core.endMonitor (x : Core) (code : Nat) (d : BitVec 6) (w : Bool) (pos : Nat) : Core :=
  let y := if w then x.setS d (BitVec.ofNat 64 code) else x
  { y with wait := .none, waited := 0, latches := y.latches.setIfInBounds pos (some (BitVec.ofNat 64 code)),
           monitor := { y.monitor with armed := false, conf := false, codes := [] } }

/-- A wait at a phaser ends without completion (R247): the signal of a PHSW still goes to its home, where nothing waits any
more. -/
def Core.endPhWait (x : Core) : Core :=
  { x with
    wait := .none, waited := 0,
    eng := { x.eng with phq := (x.eng.phq.filter fun p => p.op ≠ .wait).map fun p => if p.op = .sw then { p with op := .sig } else p } }

/-- A wait ends as a trap, a stop or a pre-emption ends it (R216, R247): WAITM gives code 3, PHWAIT and PHSW end without
completion. Any other wait goes on. -/
def Core.endThat (x : Core) (w : Wait) : Core :=
  match w with
  | .waitm _ d w pos => { x.endMonitor 3 d w pos with latches := x.latches }
  | .phwait _ _ => x.endPhWait
  | .phsw _ => x.endPhWait
  | .phdone _ _ => x.endPhWait
  | _ => x

/-- What remains of a wait when its core goes to a handler: a fence of an issued bundle (R239). -/
def Wait.fencePart : Wait → Wait
  | .fence ord scope _ => .fence ord scope .none
  | .efence scope ord _ => .efence scope ord .none
  | _ => .none

/-- The wait of a core ends so, and with it what it would wait for behind a fence. -/
def Core.endWait (x : Core) : Core :=
  match x.wait with
  | .fence ord scope w => { x.endThat w with wait := .fence ord scope .none }
  | .efence scope ord w => { x.endThat w with wait := .efence scope ord .none }
  | w => x.endThat w

/-- A bundle address as a field of 52 bits holds it (Table 14-4). -/
def pcField (x : Word) : Word := x &&& 0xFFFFFFFFFFFFF#64

/-! ## Forwarding to the supervisor (R311, R317) -/

/-- A supervisor record (Table 14-2) without SEQ. -/
def supRecord (kind cause slot eng : Nat) (c : Nat) (x : Core) (pc info jstat : Word) : SupRecord :=
  { words := [BitVec.ofNat 64 (kind * 2 ^ 56 + cause * 2 ^ 50 + slot * 2 ^ 44 + eng * 2 ^ 40 + x.launchId.toNat),
      BitVec.ofNat 64 (x.regionId.toNat * 2 ^ 48 + (coreIdOf c).toNat), pc &&& 0xFFFFFFFFFFFFF#64, info, jstat,
      x.record.setWidth 64, 0#64] }

/-- A record arises on a die; it is written when its turn comes and there is room (R317). -/
def State.report (s : State) (die : Nat) (r : SupRecord) : State :=
  let d := s.die die
  s.setDie die { d with records := d.records ++ [r] }

/-! ## The capability block (Table 21-3) -/

def State.linkCore (s : State) (k : Nat) : LinkCore := (tabGet? s.links k).getD LinkCore.reset
def State.setLink (s : State) (k : Nat) (x : LinkCore) : State := { s with links := tabPut s.links k x }

/-- The status word of a link core (Table 17-10). -/
def LinkCore.statWord (x : LinkCore) : Nat :=
  x.state.toNat * 2 ^ 62 + x.cause.toNat * 2 ^ 56 + x.stops.toNat * 2 ^ 52 + x.spc.toNat * 2 ^ 32 + x.info.toNat

/-- BOOTSTAT. -/
def Root.bootStat (r : Root) : Nat := r.fail.toNat * 2 ^ 8 + r.stage.toNat

/-- The fields of the capability block but for the key mailbox, with their offsets and values (log entry 89). -/
def State.blockFields (s : State) : List (Nat × Nat) :=
  [(0x00, 0x00010000), (0x08, Config.devRank.toNat), (0x10, s.domeMask.toNat % 2 ^ 64), (0x18, s.domeMask.toNat / 2 ^ 64),
    (0x20, s.root.regtab), (0x28, s.root.qtbase)] ++
    (List.range 4).map (fun k => (0x30 + 8 * k, (s.linkCore k).statWord)) ++
    (List.range 8).map (fun d => (0x50 + 8 * d, ((tabGet? s.root.svstat d).getD 0#64).toNat)) ++ [(0x90, s.root.bootStat)]

/-- The root controller's update once the block stands: every field but the key mailbox is written over (R437). -/
def State.updateBlock (s : State) : State :=
  if s.root.released then s.blockFields.foldl (fun (a : State) f => a.store f.1 8 f.2) s else s

/-- A core stops before any further bundle, with RESUMEPC the address at which it stopped; a supervisor core that would
forward halts instead, and its SVSTAT in the capability block says so (R311, R316 text, Table 21-3). -/
def State.forward (s : State) (c : Nat) (cause : BitVec 6) (info pc : Word) : State :=
  let x := s.core c
  if isSup c then
    let v : Word := BitVec.ofNat 64 (2 ^ 63 + cause.toNat * 2 ^ 56 + x.trapPc.toNat % 2 ^ 52)
    let s1 := s.setCore c { x with run := .halted, resumePc := pcField pc }
    ({ s1 with root := { s1.root with svstat := tabPut s1.root.svstat (c - 2048) v } } : State).updateBlock
  else
    let s1 := s.setCore c { x with run := .stopped, resumePc := pcField pc }
    s1.report (dieOf c) (supRecord (if cause = 9#6 then 2 else 1) cause.toNat 0 0 c x pc info 0#64)

/-- The schedule cycle of the bundle about to issue or in issue (R339). -/
def Core.schedNow (x : Core) : BitVec 32 :=
  match x.loops with
  | l :: _ => l.sched
  | [] => x.sched

/-- The event that counter `n` counts (R345). -/
def Core.pmcEvent (x : Core) (n : Nat) : Nat := (x.pmcCfg >>> (6 * n)).toNat % 64

/-- The writes of this cycle that replace counter `n` (R347). -/
def Core.writesPmc (x : Core) (n : Nat) : Bool :=
  x.pend.any fun p => p.left ≤ 1 && (match p.w with | .cr m _ => m.toNat = 25 + n | _ => false)

/-- One occurrence of event 16 at every counter that counts it and is not written in the cycle; OVF is set where one wraps (R347). -/
def Core.lose1 (x : Core) : Core :=
  (List.range 8).foldl (fun (a : Core) n =>
    if a.pmcEvent n = 16 && !x.writesPmc n then
      let v := (a.pmc[n]?).getD 0#64
      { a with pmc := a.pmc.setIfInBounds n (v + 1#64),
               pmcCfg := if v = BitVec.allOnes 64 then a.pmcCfg ||| 1#64 <<< (48 + n) else a.pmcCfg }
    else a) x

/-- A trace record is discarded and counted by event 16 (R337, R340). The OVERFLOW record of a counter that thereby wraps
finds no room either. -/
def Core.lose (x : Core) : Core :=
  let wraps := (List.range 8).countP fun n => x.pmcEvent n = 16 && !x.writesPmc n && (x.pmc[n]?).getD 0#64 = BitVec.allOnes 64
  (List.range wraps).foldl (fun a _ => a.lose1) x.lose1

/-- Queue a trace record; one that finds tracing off or the queue full is discarded (R337, R340). -/
def Core.queueTrace (x : Core) (r : TraceRec) : Core :=
  if !x.pmcCfg.getLsbD 61 || 16 ≤ x.trace.length then x.lose else { x with trace := x.trace ++ [r] }

/-- Queue a trace record of the event at hand: PC, SCHED and CYCLE are those of the event. -/
def Core.trace1 (x : Core) (kind : Nat) (pc data : Word) : Core :=
  x.queueTrace { kind := BitVec.ofNat 4 kind, pc := pc.setWidth 52, sched := x.schedNow, cycle := x.cycle, data := data }

/-- Counter `n` wraps: OVF is set and an OVERFLOW record is queued for the successor of the bundle (R347). -/
def Core.overflow (x : Core) (n : Nat) (pc : Word) : Core :=
  ({ x with pmcCfg := x.pmcCfg ||| 1#64 <<< (48 + n) } : Core).trace1 6 pc (BitVec.ofNat 64 n)

/-- Add `d` occurrences to counter `n`. -/
def Core.addPmc (x : Core) (n d : Nat) (pc : Word) : Core :=
  if d = 0 then x
  else
    let v := ((x.pmc[n]?).getD 0#64).toNat + d
    let y := { x with pmc := x.pmc.setIfInBounds n (BitVec.ofNat 64 v) }
    if v < 2 ^ 64 then y else y.overflow n pc

/-- Occurrences of an event, outside the bundle in issue, reach every counter that counts it but those of `ns`. -/
def Core.bumpBut (ns : List Nat) (x : Core) (ev d : Nat) (pc : Word) : Core :=
  (List.range 8).foldl (fun a n => if x.pmcEvent n = ev && !ns.contains n then a.addPmc n d pc else a) x

def Core.bump (x : Core) (ev d : Nat) (pc : Word) : Core := x.bumpBut [] ev d pc

/-- The counters that the bundle of core `c` has written in the cycle that is over: they count nothing more of it (R347). -/
def State.pmcKept (s : State) (c : Nat) : List Nat := if c = s.cur then s.issue.ended.getD [] else []

/-- An event of core `c` comes about: in the cycle of the bundle in issue, or after it. -/
def State.happen (s : State) (c ev : Nat) (pc : Word) : State :=
  if c = s.cur && s.issue.len ≠ 0 && s.issue.ended.isNone then { s with issue := { s.issue with evs := ev :: s.issue.evs } }
  else s.setCore c ((s.core c).bumpBut (s.pmcKept c) ev 1 pc)

/-- A stop by BRK or STEP (R343): the trap registers are written unless a handler runs, a STOP record is queued, and the
stop is forwarded. -/
def State.debugStop (s : State) (c : Nat) (info pc : Word) : State :=
  let x := s.core c
  let y := if x.inTrap then x else { x with trapCause := 16#6, trapPc := pc, trapInfo := info }
  (s.setCore c (y.trace1 3 pc y.trapInfo)).forward c 16#6 info pc

/-- Trap entry on a drained core (R310): what is saved, where the next bundle is, and when the trap is forwarded. An
attached core is held while its handler runs (R158), and a wait ends (R216, R247). A BRK with stops armed stops the core
(R117, R343). -/
def State.enterTrap (s0 : State) (c : Nat) (cause : BitVec 6) (info pc : Word) : State :=
  let x := (s0.core c).endWait
  let s := s0.setCore c x
  if cause = 16#6 && x.pmcCfg.getLsbD 63 then s.debugStop c info pc
  else if x.inTrap then s.forward c cause info pc
  else
    let y := { x with trapCause := cause, trapPc := pc, trapInfo := info }
    if y.trapVec = 0#64 || cause = 9#6 then (s.setCore c y).forward c cause info pc
    else s.setCore c { y with inTrap := true, next := y.trapVec, join := if y.join = .attached then .held else y.join }

/-! ## The issue of a syllable -/

/-- The bundle cannot issue in this cycle. -/
def stallOut (s : State) : Out := .next { s with issue := { s.issue with res := .stalled } }

/-- The guard of a syllable as it reads: p[g] XOR gn (R38). -/
def Core.guardTrue (c : Core) (g : Option Guard) : Bool :=
  match g with
  | none => true
  | some g => c.getP g.g != g.gn

/-- What follows the bundle (R108). -/
def State.after (s : State) (a : After) : State := { s with issue := { s.issue with aft := s.issue.aft ++ [a] } }

/-- A scalar or predicate result of latency 1 reaches the latch of its position (R23). -/
def State.latch (s : State) (x : Word) : State :=
  { s with issue := { s.issue with lat := s.issue.lat ++ [(s.issue.pos, x)] } }

/-! ## Free values (log entry 7) -/

/-- Take a fresh free value (log entries 6 and 7). -/
def State.fresh (s : State) : Word × State := (Config.freeWord s.freeCtr, { s with freeCtr := s.freeCtr + 1 })

end Sys2Proof.Machine
end

