-- ==== Sys2Proof/Machine/Flags.lean ====
section
/-! DEFINITION. The effective arithmetic codes of a syllable (R49, R70) and the stochastic-rounding draws (R72, R73). The
flag conditions of Table 3-9 stand with the operations that raise them (Machine/Formats.lean). -/

namespace Sys2Proof.Machine

/-- TYPE, RND, SAT, FTZ and QF of FMT (Table 1-9). -/
def Core.fmtType (c : Core) : Nat := (c.fmt.extractLsb' 0 3).toNat
def Core.fmtRnd (c : Core) : Nat := (c.fmt.extractLsb' 3 3).toNat
def Core.fmtSat (c : Core) : Nat := (c.fmt.extractLsb' 6 2).toNat
def Core.fmtFtz (c : Core) : Bool := c.fmt.getLsbD 8
def Core.fmtQf (c : Core) : Nat := (c.fmt.extractLsb' 9 4).toNat

/-- The codes of the syllable in issue: a non-zero code of its PFXA, else FMT's; NAN from the prefix alone; FTZ from
either (R49). -/
def State.codes (s : State) : Codes :=
  let c := s.me
  match s.issue.pa with
  | none => { rnd := c.fmtRnd, sat := c.fmtSat, nan := 0, ftz := c.fmtFtz }
  | some p =>
    { rnd := if p.rnd = 0#3 then c.fmtRnd else p.rnd.toNat, sat := if p.sat = 0#2 then c.fmtSat else p.sat.toNat,
      nan := p.nan.toNat, ftz := p.ftz || c.fmtFtz }

/-- The codes of a syllable that takes only FTZ, from FMT (R129). -/
def State.ftzOnly (s : State) : Codes := { rnd := 1, sat := 0, nan := 0, ftz := s.me.fmtFtz }

/-- One step of the xorshift32 generator (R72). -/
def xorshift (x : BitVec 32) : BitVec 32 :=
  let a := x ^^^ (x <<< 13)
  let b := a ^^^ (a >>> 17)
  b ^^^ (b <<< 5)

/-- The seed that the draws of the bundle have reached (R73). -/
def State.seedNow (s : State) : BitVec 32 := s.issue.seed.getD s.me.srSeed

/-- One draw: 24 bits and the advanced seed. -/
def State.draw (s : State) : Nat × State :=
  let x := xorshift s.seedNow
  ((x >>> 8).toNat, { s with issue := { s.issue with seed := some x } })

/-- The draw of one rounded result: taken only under SR (R72). -/
def State.drawIf (s : State) (c : Codes) : Nat × State := if c.mode = 6 then s.draw else (0, s)

end Sys2Proof.Machine
end

