-- ==== Sys2Proof/Machine/Operands.lean ====
section
/-! DEFINITION. Operand forms: scalar sources and latches (R23, R36), the registers a syllable uses with their
allotment and scoreboard checks (R13, R16, R21), guards (R38), destinations (R37), and the traps of a syllable. -/

namespace Sys2Proof.Machine

/-! ## Traps of the syllable in issue -/

/-- A drain of the registers (R25): every exposed write already issued is made and the latches become invalid. Loads in
flight complete before it (`State.drainLoads`, which `step` applies first). -/
def State.drain (s : State) (c : Nat) : State := s.setCore c (s.core c).settle.noLatches

/-- The fault of a slot that a TWAIT reports is marked reported (R273). -/
def Core.markReported (x : Core) (slot : Option Nat) : Core :=
  match slot with
  | some k => { x with eng := { x.eng with unrep := x.eng.unrep &&& ~~~BitVec.ofNat 64 (2 ^ k) } }
  | none => x

/-- The current core drains and takes the trap of a bundle (R310) (log entry 47). -/
def State.takeTrap (s : State) (cause : BitVec 6) (info pc : Word) : State :=
  let x := s.me.markReported s.issue.told
  let y := if s.issue.drop then { x with rejects := [] } else x
  (s.setMe { y.settle.noLatches with answer := none }).enterTrap s.cur cause info pc

/-- The syllable raises a trap: the core drains and takes it (R310); `step` takes it again from the state before the
bundle, so that no syllable of the bundle changes any state (R17). -/
def trapOut (cause : BitVec 6) (info : Word) (s : State) : Out :=
  let t := s.takeTrap cause info s.issue.addr
  .next { t with issue := { s.issue with res := .trapped cause info } }

/-- TRAPINFO after an encoding fault of one syllable (Table 2-10). -/
def encInfo (s : State) : Word := s.issue.w0 ++ BitVec.ofNat 32 s.issue.pos

def cILLOP : BitVec 6 := 1#6
def cILLRSV : BitVec 6 := 2#6
def cILLPFX : BitVec 6 := 3#6
def cILLSRC : BitVec 6 := 4#6
def cPRIV : BitVec 6 := 5#6
def cALIGN : BitVec 6 := 6#6
def cXLATE : BitVec 6 := 7#6
def cPROT : BitVec 6 := 8#6
def cBUDGET : BitVec 6 := 9#6
def cRASEMPTY : BitVec 6 := 10#6
def cDETACHED : BitVec 6 := 11#6
def cENGFAULT : BitVec 6 := 12#6
def cREMOTE : BitVec 6 := 13#6
def cTIMEOUT : BitVec 6 := 14#6
def cALLOT : BitVec 6 := 15#6
def cBRK : BitVec 6 := 16#6
def cTRAPI : BitVec 6 := 17#6
def cFETCH : BitVec 6 := 18#6
def cSOFTERR : BitVec 6 := 19#6

/-- An encoding fault that depends on the effective type (R127). -/
def encTrap (cause : BitVec 6) (s : State) : Out := trapOut cause (encInfo s) s

/-! ## Registers used -/

/-- A register as R13 banks it and as R21's scoreboard names it. -/
inductive Reg where
  | s (r : BitVec 6)
  | v (r : BitVec 5)
  | p
  | m
  deriving DecidableEq, Repr

/-- The register bank (R13, R314): 0-3 scalar, 4-7 vector, 8 predicates and masks. -/
def Reg.bank : Reg → Nat
  | .s r => r.toNat / 16
  | .v r => 4 + r.toNat / 8
  | .p => 8
  | .m => 8

/-- A source field that names a scalar register uses it; a latch is no register. -/
def srcReg (f : BitVec 7) : List Reg := if f.toNat < 64 then [.s (f.setWidth 6)] else []

/-- A written destination register. -/
def dstReg (w : Bool) (d : BitVec 6) : List Reg := if w then [.s d] else []
def dstPred (w : Bool) : List Reg := if w then [.p] else []

/-- The governing mask, m0 included: a syllable reads it (R13, R126). -/
def maskReg (_ : BitVec 3) : List Reg := [.m]

/-- The lowest bank of the registers used that the allotment lacks (log entry 10). -/
def Core.refused (c : Core) (rs : List Reg) : Option Nat :=
  (List.range 9).find? fun b => rs.any (fun r => r.bank = b) && !c.regAllot.getLsbD b

/-- An access has the register as its destination. -/
def Access.loads (a : Access) (r : Reg) : Bool :=
  match a.kind, r with
  | .read (.s d _), .s x => d = x
  | .read (.v d _), .v x => d = x
  | .rmw _ _ (some d), .s x => d = x
  | .query d _ _ _ _ _ _ _, .v x => d = x
  | _, _ => false

/-- The accesses that the core had outstanding before the bundle in issue (R15, R21). -/
def State.before (s : State) : List Access := s.me.outs.take (s.me.outs.length - s.issue.mine)

/-- The remote writes that the core had posted before the bundle in issue. -/
def State.postedBefore (s : State) : List Word := s.me.posted.take (s.me.posted.length - s.issue.sent)

/-- A load outstanding before the bundle in issue has the register as its destination (R21). -/
def State.busy (s : State) (r : Reg) : Bool := s.before.any fun a => a.loads r

/-- TRAPINFO of ALLOT for a register bank (R314) (log entry 9). -/
def allotReg (b : Nat) : Word := BitVec.ofNat 64 (2 ^ 62 + b)

/-- An event for the performance counters (Table 15-3). -/
def State.event (s : State) (n : Nat) : State := { s with issue := { s.issue with evs := n :: s.issue.evs } }

/-- The newcomer must first claim the bank of the register (R330). -/
def Core.owes (c : Core) (r : Reg) : Bool := c.owedReg.getLsbD r.bank

/-- The bundle waits while banks of a victim are claimed: register banks 0 to 8, scratchpad bank b as 16 + b, tile t as
128 + t (R330) (log entry 62). -/
def claimOut (bs : List Nat) (s : State) : Out :=
  .next { s with issue := { s.issue with res := .stalled, claims := bs } }

/-- The register banks of a victim that a syllable with these registers must claim first (R330). -/
def Core.owedRegs (c : Core) (rs : List Reg) : List Nat := (List.range 9).filter fun b => rs.any fun r => r.bank = b && c.owes r

/-- A guarded syllable: ALLOT for a guard predicate outside the allotment whatever it holds (R13), no effect under a
false guard (R16), ALLOT for another register outside it, a claim of the banks that the newcomer of a pre-emption has yet to claim (R330),
a stall while a register is the destination of an outstanding load (R21), and else its effect. -/
def guarded (g : Option Guard) (rs : List Reg) (s : State) (k : State → Out) : Out :=
  let c := s.me
  let gp := match g with
    | none => false
    | some g => g.g ≠ 0#5
  if gp && !c.regAllot.getLsbD 8 then trapOut cALLOT (allotReg 8) s
  else if !c.guardTrue g then .next (s.event 5)
  else match c.refused rs with
  | some b => trapOut cALLOT (allotReg b) s
  | none =>
    if !(c.owedRegs rs).isEmpty then claimOut (c.owedRegs rs) s
    else if rs.any s.busy then stallOut (s.event 6) else k s

/-! ## Sources and destinations -/

/-- The value of a scalar source field: a register, or a latch that reads 0 where it is invalid (R23, R36). -/
def Core.src (c : Core) (f : BitVec 7) : Word :=
  if f.toNat < 64 then c.getS (f.setWidth 6) else ((c.latches[f.toNat - 64]?).getD none).getD 0#64

/-- The source names an invalid latch (R23). -/
def Core.badLatch (c : Core) (f : BitVec 7) : Bool := 64 ≤ f.toNat && ((c.latches[f.toNat - 64]?).getD none).isNone

/-- LATINV is set where a source of the syllable is an invalid latch (R23), at the end of the issue cycle (log entry 108). -/
def State.noteLatches (s : State) (fs : List (BitVec 7)) : State :=
  let n := fs.countP s.me.badLatch
  if n = 0 then s else (List.replicate n 17).foldl State.event (s.postFlags 1 fLATINV)

/-- Write a scalar result of latency `l` (R19, R37); a result of latency 1 reaches the latch (R23). -/
def State.putS (s : State) (w : Bool) (d : BitVec 6) (l : Nat) (x : Word) : State :=
  let s1 := if w then s.post l (.s d x) else s
  if l = 1 then s1.latch x else s1

/-- Write a predicate result (R90). -/
def State.putP (s : State) (w : Bool) (d : BitVec 6) (l : Nat) (b : Bool) : State :=
  let s1 := if w then s.post l (.p (d.setWidth 5) b) else s
  if l = 1 then s1.latch (if b then 1#64 else 0#64) else s1

/-! ## Vector operands (R123 to R126) -/

/-- Operation width in bits and base bit of the lane groups (R123). -/
def vWidth (wd : BitVec 2) : Nat := 256 * 2 ^ wd.toNat
def vBase (lg : BitVec 2) : Nat := 256 * lg.toNat

/-- The effective element type (R125). -/
def State.elType (s : State) (fmto : BitVec 4) : Nat := if fmto = 0#4 then s.me.fmtType else fmto.toNat - 1

/-- Element bits by type (Table 3-2). -/
def elBits (t : Nat) : Nat :=
  match t with
  | 0 => 32 | 1 => 16 | 2 => 16 | 3 => 32 | 4 => 16 | 5 => 8 | 6 => 64 | _ => 32

def isFloat (t : Nat) : Bool := t < 3
def isIntT (t : Nat) : Bool := 3 ≤ t && t < 6
def isCplx (t : Nat) : Bool := 6 ≤ t

/-- `w` bits of a register from bit `pos`. -/
def vGet (v : VReg) (pos w : Nat) : Nat := (v >>> pos).toNat % 2 ^ w

/-- `w` ones from bit `pos`. -/
def vOnes (pos w : Nat) : VReg := BitVec.ofNat 1024 (2 ^ w - 1) <<< pos

/-- A value of `w` bits at bit `pos`. -/
def vAt (pos w x : Nat) : VReg := BitVec.ofNat 1024 (x % 2 ^ w) <<< pos

/-- The lane of bit `pos` is active: the mask bit of its byte lane (R126). -/
def laneOn (m : Mask) (pos : Nat) : Bool := m.getLsbD (pos / 8)

/-- Signed reading of `w` bits. -/
def toInt (w x : Nat) : Int := if x % 2 ^ w < 2 ^ (w - 1) then (x % 2 ^ w : Nat) else (x % 2 ^ w : Nat) - 2 ^ w

/-- The low `w` bits of an integer. -/
def ofInt (w : Nat) (x : Int) : Nat := (x % 2 ^ w).toNat

end Sys2Proof.Machine
end

