-- ==== Sys2Proof/Machine/Scalar.lean ====
section
/-! DEFINITION. The scalar integer, predicate, bit-field and selection instructions (spec/04 R90 to R101). -/

namespace Sys2Proof.Machine

/-- A result of two scalar sources, written to a scalar register after `l` issue cycles (R90). -/
def alu2 (o : S3) (l : Nat) (f : Word → Word → Word) (s : State) : Out :=
  guarded o.gw (srcReg o.a ++ srcReg o.b ++ dstReg o.w o.d) s fun s =>
    .next ((s.noteLatches [o.a, o.b]).putS o.w o.d l (f (s.me.src o.a) (s.me.src o.b)))

/-- A result of one scalar source. -/
def alu1 (o : S3) (l : Nat) (f : Word → Word) (s : State) : Out :=
  guarded o.gw (srcReg o.a ++ dstReg o.w o.d) s fun s =>
    .next ((s.noteLatches [o.a]).putS o.w o.d l (f (s.me.src o.a)))

/-- The guard of an SIX or MEMX word. -/
def extGuard (x : Option (BitVec 26 × Guard)) : Option Guard := x.map Prod.snd

/-- A result of a scalar source and an immediate. -/
def aluI (o : SI) (imm : Word) (f : Word → Word → Word) (s : State) : Out :=
  guarded (extGuard o.ext) (srcReg o.a ++ dstReg o.w o.d) s fun s =>
    .next ((s.noteLatches [o.a]).putS o.w o.d 1 (f (s.me.src o.a) imm))

/-- The immediate of ADDI, ANDI, ORI and XORI: I10, or I10 with I26 (R93). -/
def immArith (o : SI) : Word :=
  match o.ext with
  | none => o.i10.signExtend 64
  | some x => (o.i10 ++ x.1).signExtend 64

/-- The immediate of CMPI: I10[6:0], or that with I26 (R96). -/
def immCmp (o : SI) : Word :=
  match o.ext with
  | none => (o.i10.setWidth 7).signExtend 64
  | some x => (o.i10.setWidth 7 ++ x.1).signExtend 64

/-- A predicate from two scalar sources (R96). -/
def cmp2 (o : S3) (f : Word → Word → Bool) (s : State) : Out :=
  guarded o.gw (srcReg o.a ++ srcReg o.b ++ dstPred o.w) s fun s =>
    .next ((s.noteLatches [o.a, o.b]).putP o.w o.d 1 (f (s.me.src o.a) (s.me.src o.b)))

/-- A predicate from one scalar source. -/
def cmp1 (o : S3) (f : Word → Bool) (s : State) : Out :=
  guarded o.gw (srcReg o.a ++ dstPred o.w) s fun s =>
    .next ((s.noteLatches [o.a]).putP o.w o.d 1 (f (s.me.src o.a)))

/-- A predicate from a scalar source and CMPI's immediate. -/
def cmpI (o : SI) (f : Word → Word → Bool) (s : State) : Out :=
  guarded (extGuard o.ext) (srcReg o.a ++ dstPred o.w) s fun s =>
    .next ((s.noteLatches [o.a]).putP o.w o.d 1 (f (s.me.src o.a) (immCmp o)))

/-- A predicate from predicates A and B (R97). -/
def plog (o : S3) (f : Bool → Bool → Bool) (s : State) : Out :=
  guarded o.gw [.p] s fun s =>
    .next (s.putP o.w o.d 1 (f (s.me.getP (o.a.setWidth 5)) (s.me.getP (o.b.setWidth 5))))

/-- A dome vote (R98): a core outside the stream votes alone; an attached one casts its vote, and the dome answers it
when every voter has issued the bundle. -/
def vote (all : Bool) (o : S3) (s : State) : Out :=
  guarded o.gw [.p] s fun s =>
    let b := s.me.getP (o.a.setWidth 5)
    let v : Vote := { all := all, core := s.cur, b := b, w := o.w, d := o.d.setWidth 5, pos := s.issue.pos, len := s.me.pend.length }
    .next (if s.me.join = .attached then s.after (.vote v) else s.putP o.w o.d 1 b)

/-! ## Integer arithmetic (R91, R92) -/

def shl (a b : Word) : Word := a <<< (b.toNat % 64)
def shr (a b : Word) : Word := a >>> (b.toNat % 64)
def sar (a b : Word) : Word := a.sshiftRight (b.toNat % 64)
def rol (a b : Word) : Word := a.rotateLeft (b.toNat % 64)

/-- Bits [127:64] of a product of integers. -/
def highOf (x : Int) : Word := BitVec.ofInt 64 (x / 2 ^ 64)

def divS (a b : Word) : Word := if b = 0#64 then BitVec.allOnes 64 else BitVec.ofInt 64 (a.toInt.tdiv b.toInt)
def remS (a b : Word) : Word := if b = 0#64 then a else BitVec.ofInt 64 (a.toInt.tmod b.toInt)
def divU (a b : Word) : Word := if b = 0#64 then BitVec.allOnes 64 else a / b
def remU (a b : Word) : Word := if b = 0#64 then a else a % b

/-- Number of consecutive zero bits of `x` among the bits the index function visits first. -/
def zerosFrom (x : Word) (at? : Nat → Nat) : Nat → Nat → Nat
  | 0, k => k
  | n + 1, k => if x.getLsbD (at? k) then k else zerosFrom x at? n (k + 1)

def clz (a : Word) : Word := BitVec.ofNat 64 (zerosFrom a (fun k => 63 - k) 64 0)
def ctz (a : Word) : Word := BitVec.ofNat 64 (zerosFrom a id 64 0)

/-- Number of one bits below bit `n`. -/
def ones {w : Nat} (a : BitVec w) : Nat → Nat
  | 0 => 0
  | n + 1 => ones a n + (a.getLsbD n).toNat

def popc (a : Word) : Word := BitVec.ofNat 64 (ones a 64)

/-- Bit i moved to bit 63 - i. -/
def brev (a : Word) : Word := (List.range 64).foldl (fun x i => if a.getLsbD i then x ||| 1#64 <<< (63 - i) else x) 0#64

/-! ## Bit fields and truth tables (R99, R100) -/

/-- BEXT and BEXTU. -/
def bitField (signed : Bool) (a : Word) (pos len : Nat) : Word :=
  let f := (a >>> pos).toNat % 2 ^ len
  if signed && f.testBit (len - 1) then BitVec.ofNat 64 (f + (2 ^ 64 - 2 ^ len)) else BitVec.ofNat 64 f

/-- BINS. -/
def bitInsert (a b : Word) (pos len : Nat) : Word :=
  let m := BitVec.ofNat 64 (2 ^ len - 1) <<< pos
  a &&& ~~~m ||| (b <<< pos) &&& m

/-- The truth table of LOP3 and VLOP3 on every bit: the minterms of the table joined. -/
def lop3 {w : Nat} (tt : BitVec 8) (a b c : BitVec w) : BitVec w :=
  (List.range 8).foldl (fun x k =>
    let t := (if k.testBit 2 then a else ~~~a) &&& (if k.testBit 1 then b else ~~~b) &&& (if k.testBit 0 then c else ~~~c)
    if tt.getLsbD k then x ||| t else x) 0#w

/-- A result of scalar sources A and B under an S3X word. -/
def s3x2 (o : S3X) (f : Word → Word → Word) (s : State) : Out :=
  guarded (some o.g) (srcReg o.a ++ srcReg o.b ++ dstReg o.w o.d) s fun s =>
    .next ((s.noteLatches [o.a, o.b]).putS o.w o.d 1 (f (s.me.src o.a) (s.me.src o.b)))

/-! ## The instructions -/

def execAdd (o : S3) (s : State) : Out := alu2 o 1 (fun a b => a + b) s
def execSub (o : S3) (s : State) : Out := alu2 o 1 (fun a b => a - b) s
def execAnd (o : S3) (s : State) : Out := alu2 o 1 (fun a b => a &&& b) s
def execOr (o : S3) (s : State) : Out := alu2 o 1 (fun a b => a ||| b) s
def execXor (o : S3) (s : State) : Out := alu2 o 1 (fun a b => a ^^^ b) s
def execAndn (o : S3) (s : State) : Out := alu2 o 1 (fun a b => a &&& ~~~b) s
def execOrn (o : S3) (s : State) : Out := alu2 o 1 (fun a b => a ||| ~~~b) s
def execXnor (o : S3) (s : State) : Out := alu2 o 1 (fun a b => ~~~(a ^^^ b)) s
def execSll (o : S3) (s : State) : Out := alu2 o 1 (fun a b => shl a b) s
def execSrl (o : S3) (s : State) : Out := alu2 o 1 (fun a b => shr a b) s
def execSra (o : S3) (s : State) : Out := alu2 o 1 (fun a b => sar a b) s
def execRol (o : S3) (s : State) : Out := alu2 o 1 (fun a b => rol a b) s
def execMin (o : S3) (s : State) : Out := alu2 o 1 (fun a b => if a.sle b then a else b) s
def execMax (o : S3) (s : State) : Out := alu2 o 1 (fun a b => if a.sle b then b else a) s
def execMinu (o : S3) (s : State) : Out := alu2 o 1 (fun a b => if a ≤ b then a else b) s
def execMaxu (o : S3) (s : State) : Out := alu2 o 1 (fun a b => if a ≤ b then b else a) s

def execMul (o : S3) (s : State) : Out := alu2 o 3 (fun a b => a * b) s
def execMulh (o : S3) (s : State) : Out := alu2 o 3 (fun a b => highOf (a.toInt * b.toInt)) s
def execMulhu (o : S3) (s : State) : Out := alu2 o 3 (fun a b => BitVec.ofNat 64 (a.toNat * b.toNat / 2 ^ 64)) s
def execAbsd (o : S3) (s : State) : Out := alu2 o 3 (fun a b => BitVec.ofNat 64 (a.toInt - b.toInt).natAbs) s
def execDiv (o : S3) (s : State) : Out := alu2 o 12 (fun a b => divS a b) s
def execDivu (o : S3) (s : State) : Out := alu2 o 12 (fun a b => divU a b) s
def execRem (o : S3) (s : State) : Out := alu2 o 12 (fun a b => remS a b) s
def execRemu (o : S3) (s : State) : Out := alu2 o 12 (fun a b => remU a b) s

def execClz (o : S3) (s : State) : Out := alu1 o 1 (fun a => clz a) s
def execCtz (o : S3) (s : State) : Out := alu1 o 1 (fun a => ctz a) s
def execPopc (o : S3) (s : State) : Out := alu1 o 1 (fun a => popc a) s
def execBrev (o : S3) (s : State) : Out := alu1 o 1 (fun a => brev a) s
def execSext8 (o : S3) (s : State) : Out := alu1 o 1 (fun a => (a.setWidth 8).signExtend 64) s
def execSext16 (o : S3) (s : State) : Out := alu1 o 1 (fun a => (a.setWidth 16).signExtend 64) s
def execSext32 (o : S3) (s : State) : Out := alu1 o 1 (fun a => (a.setWidth 32).signExtend 64) s
def execZext32 (o : S3) (s : State) : Out := alu1 o 1 (fun a => (a.setWidth 32).setWidth 64) s

def execCmpEq (o : S3) (s : State) : Out := cmp2 o (fun a b => a = b) s
def execCmpNe (o : S3) (s : State) : Out := cmp2 o (fun a b => a ≠ b) s
def execCmpLt (o : S3) (s : State) : Out := cmp2 o (fun a b => a.slt b) s
def execCmpLtu (o : S3) (s : State) : Out := cmp2 o (fun a b => a.ult b) s
def execCmpGe (o : S3) (s : State) : Out := cmp2 o (fun a b => !a.slt b) s
def execCmpGeu (o : S3) (s : State) : Out := cmp2 o (fun a b => !a.ult b) s
def execCmpTz (o : S3) (s : State) : Out := cmp1 o (fun a => a = 0#64) s
def execCmpTnz (o : S3) (s : State) : Out := cmp1 o (fun a => a ≠ 0#64) s

def execAddi (o : SI) (s : State) : Out := aluI o (immArith o) (fun a b => a + b) s
def execAndi (o : SI) (s : State) : Out := aluI o (immArith o) (fun a b => a &&& b) s
def execOri (o : SI) (s : State) : Out := aluI o (immArith o) (fun a b => a ||| b) s
def execXori (o : SI) (s : State) : Out := aluI o (immArith o) (fun a b => a ^^^ b) s
def execSlli (o : SI) (s : State) : Out := aluI o (o.i10.setWidth 64) (fun a b => shl a b) s
def execSrli (o : SI) (s : State) : Out := aluI o (o.i10.setWidth 64) (fun a b => shr a b) s
def execSrai (o : SI) (s : State) : Out := aluI o (o.i10.setWidth 64) (fun a b => sar a b) s
def execRoli (o : SI) (s : State) : Out := aluI o (o.i10.setWidth 64) (fun a b => rol a b) s

def execCmpiEq (o : SI) (s : State) : Out := cmpI o (fun a b => a = b) s
def execCmpiNe (o : SI) (s : State) : Out := cmpI o (fun a b => a ≠ b) s
def execCmpiLt (o : SI) (s : State) : Out := cmpI o (fun a b => a.slt b) s
def execCmpiLtu (o : SI) (s : State) : Out := cmpI o (fun a b => a.ult b) s
def execCmpiGe (o : SI) (s : State) : Out := cmpI o (fun a b => !a.slt b) s
def execCmpiGeu (o : SI) (s : State) : Out := cmpI o (fun a b => !a.ult b) s

/-- MOVI (R95). -/
def execMovi (o : MovI) (s : State) : Out :=
  guarded (some o.g) (dstReg o.w o.d) s fun s => .next (s.putS o.w o.d 1 (o.imm.signExtend 64))

/-- MOVH (R95): D is a source too. -/
def execMovh (o : MovH) (s : State) : Out :=
  guarded none [.s o.d] s fun s => .next (s.putS o.w o.d 1 (o.imm ++ (s.me.getS o.d).setWidth 32))

/-- BEXT and BEXTU ignore B (R99). -/
def bext (signed : Bool) (o : S3X) (s : State) : Out :=
  guarded (some o.g) (srcReg o.a ++ dstReg o.w o.d) s fun s =>
    .next ((s.noteLatches [o.a]).putS o.w o.d 1 (bitField signed (s.me.src o.a) o.x8.toNat o.c.toNat))

def execBext (o : S3X) (s : State) : Out := bext true o s
def execBextu (o : S3X) (s : State) : Out := bext false o s
def execBins (o : S3X) (s : State) : Out := s3x2 o (fun a b => bitInsert a b o.x8.toNat o.c.toNat) s

/-- LOP3 (R100). -/
def execLop3 (o : S3X) (s : State) : Out :=
  guarded (some o.g) (srcReg o.a ++ srcReg o.b ++ srcReg o.c ++ dstReg o.w o.d) s fun s =>
    .next ((s.noteLatches [o.a, o.b, o.c]).putS o.w o.d 1 (lop3 o.x8 (s.me.src o.a) (s.me.src o.b) (s.me.src o.c)))

/-- SEL (R101): the guard fields select and do not guard; p[G] is read as a predicate source (log entry 14). -/
def execSel (o : S3X) (s : State) : Out :=
  guarded none (srcReg o.a ++ srcReg o.b ++ dstReg o.w o.d ++ [.p]) s fun s =>
    let x := if s.me.guardTrue (some o.g) then s.me.src o.a else s.me.src o.b
    .next ((s.noteLatches [o.a, o.b]).putS o.w o.d 1 x)

def execPand (o : S3) (s : State) : Out := plog o (fun a b => a && b) s
def execPor (o : S3) (s : State) : Out := plog o (fun a b => a || b) s
def execPxor (o : S3) (s : State) : Out := plog o (fun a b => a != b) s
def execPandn (o : S3) (s : State) : Out := plog o (fun a b => a && !b) s
def execPnot (o : S3) (s : State) : Out := plog o (fun a _ => !a) s
def execPdany (o : S3) (s : State) : Out := vote false o s
def execPdall (o : S3) (s : State) : Out := vote true o s

/-- PTOS (R97): bit i of the result is p[i]. -/
def execPtos (o : S3) (s : State) : Out :=
  guarded o.gw (.p :: dstReg o.w o.d) s fun s =>
    let x := (List.range 24).foldl (fun a i => if s.me.getP (BitVec.ofNat 5 i) then a + 2 ^ i else a) 0
    .next (s.putS o.w o.d 1 (BitVec.ofNat 64 x))

end Sys2Proof.Machine
end

