-- ==== Sys2Proof/Machine/Translate.lean ====
section
/-! DEFINITION. Address spaces and translation (spec/08 R190 to R194, spec/14 R322 to R325): from an effective address to
the home of its bytes, or to the fault of R207. -/

namespace Sys2Proof.Machine

/-- The fields of a page-table entry (Table 14-6). -/
def pteV (e : Nat) : Bool := e.testBit 0
def pteLeaf (e : Nat) : Bool := e.testBit 1
def pteR (e : Nat) : Bool := e.testBit 2
def pteW (e : Nat) : Bool := e.testBit 3
def pteX (e : Nat) : Bool := e.testBit 4
def pteSup (e : Nat) : Bool := e.testBit 5
def pteC64 (e : Nat) : Bool := e.testBit 6
def pteType (e : Nat) : Nat := e / 2 ^ 7 % 4
def pteFrame (e : Nat) : Nat := e / 2 ^ 12 % 2 ^ 40 * 2 ^ 12

/-- Reserved bits of an entry: [55:52], [11:9] and FRAME bits [51:40]. -/
def pteBad (e : Nat) : Bool := e / 2 ^ 52 % 16 ≠ 0 || e / 2 ^ 9 % 8 ≠ 0 || e / 2 ^ 40 % 2 ^ 12 ≠ 0

/-- What a leaf may not hold: a reserved TYPE, or TYPE 1 without SUP, for which the rule names no outcome (log entry 114). -/
def leafBad (e : Nat) : Bool := 2 ≤ pteType e || pteType e = 1 && !pteSup e

/-- The index of an address at a level (R322). -/
def walkIx (va level : Nat) : Nat :=
  match level with
  | 0 => va / 2 ^ 39 % 2 ^ 13
  | 1 => va / 2 ^ 30 % 2 ^ 9
  | 2 => va / 2 ^ 21 % 2 ^ 9
  | _ => va / 2 ^ 12 % 2 ^ 9

/-- One level of the walk and the levels below it: the leaf, the size of its page and the address of the table it stands
in; none is XLATE. -/
def walkFrom (m : List Host.Cell) (va : Nat) : Nat → Nat → Nat → Option (Nat × Nat × Nat)
  | 0, _, _ => none
  | fuel + 1, t, level =>
    let e := Memory.read m (t + 8 * walkIx va level) 8
    if !pteV e || pteBad e then none
    else if level = 3 || pteLeaf e then
      let size := 2 ^ (12 + 9 * (3 - level))
      if level = 0 || leafBad e || pteFrame e % size ≠ 0 then none else some (e, size, t)
    else walkFrom m va fuel (pteFrame e) (level + 1)

/-- The table at level 3 that the walk reaches, where no leaf and no bad entry ends it before. -/
def tableFrom (m : List Host.Cell) (va : Nat) : Nat → Nat → Nat → Option Nat
  | 0, _, _ => none
  | fuel + 1, t, level =>
    if level = 3 then some t
    else
      let e := Memory.read m (t + 8 * walkIx va level) 8
      if !pteV e || pteBad e || pteLeaf e then none else tableFrom m va fuel (pteFrame e) (level + 1)

/-- The sixteen entries of the 64 KiB range of a level-3 leaf (R323) (log entry 27). -/
def groupOf (m : List Host.Cell) (va t : Nat) : List Nat :=
  (List.range 16).map fun j => Memory.read m (t + 8 * (walkIx va 3 / 16 * 16 + j)) 8

/-- A group is consistent: C64 everywhere, frames consecutive from an aligned one, all other leaf fields equal; LEAF is ignored at level 3
(log entry 27). -/
def groupOk (g : List Nat) : Bool :=
  let e0 := g.headD 0
  pteFrame e0 % 2 ^ 16 = 0 &&
    (List.range 16).all fun j =>
      let e := g.getD j 0
      pteV e && !pteBad e && !leafBad e && pteC64 e && pteFrame e = pteFrame e0 + 2 ^ 12 * j && e % 2 ^ 9 / 4 = e0 % 2 ^ 9 / 4

/-- The translation of an address: the leaf that serves it, the first address and the size of the range it maps, and
the physical address of that range. An inconsistent group is served by any one of its entries, whatever the address's own entry holds
(R323) (log entries 7 and 27). -/
def State.walk (s : State) (die va : Nat) : Option TlbEntry :=
  let root := (s.die die).ttRoot.toNat
  let g := ((tableFrom s.mem va 4 root 0).map (groupOf s.mem va)).getD []
  if g.any (fun x => pteV x && pteC64 x) then
    if groupOk g then
      some { va := va / 2 ^ 16 * 2 ^ 16, size := 2 ^ 16, entry := BitVec.ofNat 64 (g.getD (va / 2 ^ 12 % 16) 0),
             frame := pteFrame (g.headD 0), group := true }
    else
      let x := g.getD (Config.groupPick s.freeCtr (va / 2 ^ 12)).toNat 0
      if !pteV x || pteBad x || leafBad x then none
      else some { va := va / 2 ^ 12 * 2 ^ 12, size := 2 ^ 12, entry := BitVec.ofNat 64 x, frame := pteFrame x, group := true }
  else
    match walkFrom s.mem va 4 root 0 with
    | none => none
    | some (e, size, _) =>
      some { va := va / size * size, size := size, entry := BitVec.ofNat 64 e, frame := pteFrame e, group := false }

/-- What an access needs of a leaf (R324). -/
structure Need where
  r : Bool
  w : Bool
  x : Bool
  deriving DecidableEq, Repr

def allows (sup : Bool) (n : Need) (e : Nat) : Bool :=
  (!n.r || pteR e) && (!n.w || pteW e) && (!n.x || pteX e) && (sup || !pteSup e)

/-- The outcome of a translation: a physical address with its TYPE, XLATE, or PROT. -/
inductive Tr where
  | ok (type pa : Nat)
  | xlate
  | prot
  deriving DecidableEq, Repr

def trWith (sup : Bool) (n : Need) (va : Nat) (t : TlbEntry) : Tr :=
  if allows sup n t.entry.toNat then .ok (pteType t.entry.toNat) (t.frame + (va - t.va)) else .prot

/-- Translate an address of a die: through a cached entry if one maps it, walking once more before a permission is
refused (R324), else by a walk (log entry 24). -/
def State.translate (s : State) (die : Nat) (sup : Bool) (n : Need) (va : Nat) : Tr :=
  let fresh : Tr := match s.walk die va with
    | none => .xlate
    | some t => trWith sup n va t
  match (s.die die).tlb.find? fun t => t.va ≤ va && va < t.va + t.size with
  | none => fresh
  | some t => match trWith sup n va t with
    | .prot => fresh
    | r => r

/-- The window of the scratchpads (R192, R193). -/
def inWindow (va : Nat) : Bool := va / 2 ^ 33 % 2 ^ 19 = 2 ^ 19 - 1

/-- Row and column of a dome in the package grid (R175). -/
def gridRow (dm : Nat) : Nat := 3 * (dm / 12 / 4) + dm % 12 / 4
def gridCol (dm : Nat) : Nat := 4 * (dm / 12 % 4) + dm % 12 % 4

/-- The dome at a cell of the grid. -/
def gridDome (row col : Nat) : Nat := 12 * (4 * (row / 3) + col / 4) + (4 * (row % 3) + col % 4)

/-- A dome lies in the rectangle of a launch. -/
def Launch.holds (l : Launch) (dm : Nat) : Bool :=
  l.row ≤ gridRow dm && gridRow dm < l.row + l.height && l.col ≤ gridCol dm && gridCol dm < l.col + l.width

/-- The domes of the rectangle in row-major order (R176). -/
def Launch.domes (l : Launch) : List Nat :=
  (List.range l.height).flatMap fun r => (List.range l.width).map fun c => gridDome (l.row + r) (l.col + c)

/-- The launch whose port area holds an address, with the offset in it (R183) (log entry 23). -/
def State.portAt (s : State) (va : Nat) : Option (Nat × Nat) :=
  (s.launches.find? fun l => l.2.wake.toNat ≤ va && va < l.2.wake.toNat + 512).map fun l => (l.1, va - l.2.wake.toNat)

/-- An access resolved: its home, or its fault with TRAPINFO. -/
inductive Resolved where
  | ok (t : Target)
  | bad (cause : BitVec 6) (info : Word)
  deriving DecidableEq, Repr

/-- The faults of a window target (R193), in the launch of the issuer. -/
def State.windowBad (s : State) (sup : Bool) (l : Option Launch) (va : Nat) : Bool :=
  let id := va / 2 ^ 22 % 2 ^ 11
  let dm := domeKey id
  12 ≤ domeOf id || !s.domeMask.getLsbD dm ||
    !sup && (match l with
      | none => true
      | some l => !l.holds dm || !l.spm.getLsbD (va % 2 ^ 22 / 2 ^ 16))

/-- The key at which the image of a claimed scratchpad bank is kept (R330, R331) (log entry 62). -/
def imgKey (c off : Nat) : Nat := 2 ^ 53 + c * 2 ^ 22 + off

/-- The bytes that a window access of a launch reaches: those of the bank, or of its saved image where the bank is
claimed and the launch is the victim's (R331). -/
def State.bankKey (s : State) (l : Option Launch) (c off : Nat) : Nat :=
  if (s.core c).smSpm.getLsbD (off / 2 ^ 16) then
    match tabGet? s.victims (domeKey c) with
    | none => spKey c off
    | some v =>
      if l.isSome && (s.launch? ((tabGet? v.cores c).bind fun x => x.launch) = l) then imgKey c off else spKey c off
  else spKey c off

/-- The core whose scratchpad holds a key. -/
def ownerOf (key : Nat) : Nat := (key - spKey 0 0) / 2 ^ 22

/-- The current core belongs to the launch of the newcomer on core `c`, and not to that of its victim (R331). -/
def State.withNewcomer (s : State) (c : Nat) : Bool :=
  s.me.launch.isSome && s.me.launch = (s.core c).launch &&
    s.me.launch ≠ ((tabGet? s.victims (domeKey c)).bind fun v => tabGet? v.cores c).bind fun x => x.launch

/-- The scratchpad bank of a victim, or of neither continuation, that an access of the current core touches first (R330): bank b of its
own as 16 + b, and, for the newcomer's launch alone, one that the window reaches on core c as 256 * (c + 1) + 16 + b; any other launch
reaches the bank as it stands (R193, R331) (log entry 62). -/
def State.owedBank (s : State) (t : Target) : List Nat :=
  match t with
  | .mem k =>
    let c := ownerOf k
    let b := (k - spKey c 0) / 2 ^ 16
    if spKey 0 0 ≤ k && k < spKey 0 0 + 2 ^ 33 && ((s.core c).owedSpm ||| (s.core c).freshSpm).getLsbD b && (c = s.cur || s.withNewcomer c) then
      [(if c = s.cur then 0 else 256 * (c + 1)) + 16 + b]
    else []
  | _ => []

/-- Offsets of the die control page and of a core control block that exist (Tables 14-3, 14-4). -/
def controlOff (page off : Nat) : Bool :=
  if page = 0 then off % 8 = 0 && off ≤ 0x40
  else page ≤ 192 && off % 8 = 0 && (off ≤ 0x110 || 0x200 ≤ off && off ≤ 0x240)

/-- A device address for an issuer: `whole` says that the access is an aligned LD.64 or ST.64 (R192, R193, R318) (log entry 23). -/
def State.device (s : State) (die : Nat) (sup : Bool) (l : Option Launch) (n : Need) (whole : Bool) (ea : Word) : Resolved :=
  let va := ea.toNat
  if 2 ^ 52 ≤ va then .bad cXLATE ea
  else if inWindow va then
    if s.windowBad sup l va then .bad cPROT ea
    else .ok (.mem (s.bankKey l (va / 2 ^ 22 % 2 ^ 11) (va % 2 ^ 22)))
  else match s.translate die sup n va with
  | .xlate => .bad cXLATE ea
  | .prot => .bad cPROT ea
  | .ok type pa =>
    match s.portAt va with
    | some p => .ok (.port p.1 p.2)
    | none =>
      let page := pa / 2 ^ 12 % 2 ^ 25
      if type = 0 then .ok (.mem pa)
      else if sup && whole && controlOff page (pa % 2 ^ 12) then .ok (.control (pa / 2 ^ 37 % 8) page (pa % 2 ^ 12))
      else .bad cPROT ea

/-- A fault of a flat address names the flat address (R207). -/
def Resolved.naming (r : Resolved) (ea : Word) : Resolved := match r with | .bad cause _ => .bad cause ea | r => r

/-- An effective address in a space, for a core (R190 to R194) (log entry 97). -/
def State.resolve (s : State) (c : Nat) (space : Nat) (n : Need) (whole : Bool) (ea : Word) : Resolved :=
  let x := s.core c
  match space with
  | 1 =>
    if 2 ^ 22 ≤ ea.toNat then .bad cPROT ea
    else if x.spmAllot.getLsbD (ea.toNat / 2 ^ 16) then .ok (.mem (spKey c ea.toNat))
    else .bad cALLOT ea
  | 3 =>
    if ea.extractLsb' 52 12 = Config.devRank then
      (s.device (dieOf c) (isSup c) (s.launch? x.launch) n whole (ea &&& 0xFFFFFFFFFFFFF#64)).naming ea
    else .ok (.remote (ea.extractLsb' 52 12) (ea.setWidth 52))
  | _ => s.device (dieOf c) (isSup c) (s.launch? x.launch) n whole ea

/-- Needs of a read, a write and a read-modify-write. -/
def needR : Need := { r := true, w := false, x := false }
def needW : Need := { r := false, w := true, x := false }
def needRW : Need := { r := true, w := true, x := false }
def needX : Need := { r := false, w := false, x := true }

/-- Read bytes at a home directly; only memory holds bytes. -/
def State.peek (s : State) (t : Target) (n : Nat) : Nat :=
  match t with
  | .mem k => s.rd k n
  | _ => 0

/-- Write bytes at a home directly. -/
def State.poke (s : State) (t : Target) (n x : Nat) : State :=
  match t with
  | .mem k => s.wr k n x
  | _ => s

/-- Hardware's own access to a device virtual address with a launch's rights (records, control blocks): the key of its
bytes, where it translates with the permission. -/
def State.devKey? (s : State) (die : Nat) (sup : Bool) (n : Need) (va : Nat) : Option Nat :=
  match s.device die sup none n false (BitVec.ofNat 64 va) with
  | .ok (.mem k) => some k
  | _ => none

end Sys2Proof.Machine
end

