-- ==== Sys2Proof/Machine/Store.lean ====
section
/-! DEFINITION. Bytes at their homes: the pages a launch writes (spec/15 R351), copies of
other dies' lines (spec/16 R353 to R358), and the read-modify-writes (R209, R210, R213, R295). -/

namespace Sys2Proof.Machine

/-! ## Pages that a launch writes -/

/-- A launch wrote a byte at a device virtual address: its page belongs to the launch's footprint (R351). -/
def State.notePage (s : State) (l : Option Nat) (va : Nat) : State :=
  match l with
  | none => s
  | some l =>
    if inWindow va then s
    else
      let ps := (tabGet? s.pages l).getD []
      if ps.contains (va / 4096) then s else { s with pages := tabPut s.pages l (va / 4096 :: ps) }

/-! ## Copies of lines of other dies -/

/-- The home die of a physical address (R197); none for a scratchpad key. -/
def homeDie (key : Nat) : Option Nat := if key < 2 ^ 40 then some (key / 2 ^ 37) else none

/-- The line of a key that die `d` may copy: it is homed on another die. -/
def foreign (d key : Nat) : Bool :=
  match homeDie key with
  | some h => h ≠ d
  | none => false

def State.copy? (s : State) (d key : Nat) : Option Copy := tabGet? (s.die d).copies (key / 64)

def State.setCopy (s : State) (d line : Nat) (c : Copy) : State :=
  let x := s.die d
  s.setDie d { x with copies := tabPut x.copies line c }

def State.dropCopy (s : State) (d line : Nat) : State :=
  let x := s.die d
  s.setDie d { x with copies := tabDel x.copies line }

/-- Bit mask of the bytes of a value that `n` bytes from offset `off` cover. -/
def byteBits (off n : Nat) : BitVec 512 := BitVec.ofNat 512 (2 ^ (8 * n) - 1) <<< (8 * off)

/-- Read `n` bytes as agents of die `d` see them: in the die's copy of the line, or at the home (R353) (log entry 37). -/
def State.seen (s : State) (d key n : Nat) : Nat :=
  match s.copy? d key with
  | none => s.rd key n
  | some c => (c.bytes >>> (8 * (key % 64))).toNat % 2 ^ (8 * n)

/-- Make a copy of a line, where there is none (log entry 37). -/
def State.fillCopy (s : State) (d key : Nat) : State :=
  match s.copy? d key with
  | some _ => s
  | none => s.setCopy d (key / 64) { bytes := BitVec.ofNat 512 (s.rd (key / 64 * 64) 64), dirty := 0#64 }

/-- Write `n` bytes as an agent of die `d`: into the die's copy of a line of another die, or at the home. With `eager`
set a write to a line without a copy goes home at once, as a copy may be evicted at any time (R354). -/
def State.put (s : State) (d key n x : Nat) : State :=
  if foreign d key then
    let s1 := if s.eager then s else s.fillCopy d key
    match s1.copy? d key with
    | none => s1.store key n x
    | some c =>
      s1.setCopy d (key / 64)
        { bytes := c.bytes &&& ~~~byteBits (key % 64) n |||
            BitVec.ofNat 512 (x % 2 ^ (8 * n)) <<< (8 * (key % 64)),
          dirty := c.dirty ||| BitVec.ofNat 64 ((2 ^ n - 1) * 2 ^ (key % 64)) }
  else s.store key n x

/-! ## Read-only fields in memory (R10) -/

/-- The read-only bits of byte `off` of a queue entry (Table 20-1). -/
def qFixed (off : Nat) : Nat :=
  if 0x18 ≤ off && off < 0x21 || 0x30 ≤ off && off < 0x36 || 0x38 ≤ off && off < 0x3C then 0xFF
  else if off = 0x27 then 0xC0 else if off = 0x36 then 0x0F else 0

/-- The read-only bits of byte `off` of a recording block, and those that a write may only clear (Table 15-5). -/
def recFixed (off : Nat) : Nat × Nat :=
  if 0x18 ≤ off && off < 0x20 || 0x28 ≤ off && off < 0x30 then (0xFF, 0) else if off = 0x21 then (0, 3) else (0, 0)

/-- The home of an address that the queue processor uses (R418). -/
def State.qKey? (s : State) (va : Nat) : Option Nat :=
  match s.device 0 false none needR false (BitVec.ofNat 64 va) with
  | .ok (.mem k) => some k
  | _ => none

/-- The bits of a byte of memory that no write but the queue processor's changes, and those that it may only clear: the read-only fields of
the queue table and of the recording blocks that it names (R10) (log entry 106). -/
def State.fixedBits (s : State) (k : Nat) : Nat × Nat :=
  if s.root.image.isNone || 2 ^ 40 ≤ k then (0, 0)
  else ((List.range 64).findSome? fun q =>
    match s.qKey? (s.root.qtbase + 64 * q) with
    | none => none
    | some e =>
      if e ≤ k && k < e + 64 then some (qFixed (k - e), 0)
      else if !(s.rd (e + 8) 8).testBit 61 then none
      else match s.qKey? (s.rd (e + 0x28) 8 % 2 ^ 52) with
      | none => none
      | some b => if b ≤ k && k < b + 64 then some (recFixed (k - b)) else none).getD (0, 0)

/-- Some of `n` bytes hold such bits. -/
def State.fixed (s : State) (k n : Nat) : Bool := (List.range n).any fun i => s.fixedBits (k + i) ≠ (0, 0)

/-- What a write of `x` to a byte that holds `old` leaves there. -/
def State.merged (s : State) (k old x : Nat) : Nat :=
  let r := s.fixedBits k
  x &&& (0xFF - (r.1 ||| r.2)) ||| old &&& r.1 ||| x &&& old &&& r.2

/-- A write at the home that is not the queue processor's own. -/
def State.storeBy (s : State) (k n x : Nat) : State :=
  if s.fixed k n then
    (List.range n).foldl (fun (a : State) i =>
      a.store (k + i) 1 (s.merged (k + i) (s.rd (k + i) 1) (x / 256 ^ i % 256))) s
  else s.store k n x

/-- Such a write by an agent of die `d`; a byte that is read-only throughout is left alone. -/
def State.putBy (s : State) (d k n x : Nat) : State :=
  if s.fixed k n then
    (List.range n).foldl (fun (a : State) i =>
      if (s.fixedBits (k + i)).1 = 0xFF then a
      else a.put d (k + i) 1 (s.merged (k + i) (s.seen d (k + i) 1) (x / 256 ^ i % 256))) s
  else s.put d k n x

/-- After an atomic on `n` bytes the read-only fields among them stand as before. -/
def State.keepFixed (old new : State) (k n : Nat) : State :=
  if old.fixed k n then
    (List.range n).foldl (fun (a : State) i => a.store (k + i) 1 (old.merged (k + i) (old.rd (k + i) 1) (new.rd (k + i) 1))) new
  else new

/-- Write the marked bytes of a line home, from byte `i` on. -/
def State.sendBytes (s : State) (line : Nat) (c : Copy) : Nat → State
  | 0 => s
  | n + 1 =>
    let s1 := s.sendBytes line c n
    if c.dirty.getLsbD n then s1.wr (line * 64 + n) 1 ((c.bytes >>> (8 * n)).toNat % 256) else s1

/-- The modified bytes of a copy go home; the copy is kept (R354, CWB of R220) (log entry 37). -/
def State.sendLine (s : State) (d line : Nat) : State :=
  match tabGet? (s.die d).copies line with
  | none => s
  | some c =>
    if c.dirty = 0#64 then s
    else ((s.sendBytes line c 64).touchLine line).setCopy d line { c with dirty := 0#64 }

/-- The copy of a line goes home and is dropped (CINV, R220; an atomic on the line, R211, R358) (log entry 37). -/
def State.flushLine (s : State) (d line : Nat) : State :=
  match tabGet? (s.die d).copies line with
  | none => s
  | some _ => (s.sendLine d line).dropCopy d line

/-- A release of package or system scope by an agent of a die sends every modified byte home, in one batch that carries
the die's clock (R354). -/
def State.release (s : State) (d : Nat) : State :=
  let lines := (s.die d).copies.map Prod.fst
  let s1 := lines.foldl (fun a l => a.sendLine d l) s
  if lines.isEmpty || 8 ≤ d then s1
  else
    let x := s1.die d
    s1.setDie d { x with clock := x.clock.setIfInBounds d (((x.clock[d]?).getD 0#16) + 1#16) }

/-- An acquire of package or system scope drops the copies of a die; modified bytes go home first (R355) (log entry 37). -/
def State.acquire (s : State) (d : Nat) : State :=
  let s1 := ((s.die d).copies.map Prod.fst).foldl (fun a l => a.sendLine d l) s
  let x := s1.die d
  s1.setDie d { x with copies := [] }

/-! ## Read-modify-writes -/

/-- AFADD: FP64 or FP32, to nearest even, no flag (R210). -/
def afadd (w a b : Nat) : Nat := (fop .add (if w = 64 then .f64 else .f32) (Codes.engine 1 0) 0 a b).bits

/-- What ATOM and ACAS leave of an old value of `w` bits (R209, R213); none where a compare fails. -/
def rmwNew (op : Rmw) (w old b : Nat) : Option Nat :=
  match op with
  | .add => some ((old + b) % 2 ^ w)
  | .smin => some (if toInt w old ≤ toInt w b then old else b)
  | .smax => some (if toInt w old ≤ toInt w b then b else old)
  | .and => some (old &&& b)
  | .or => some (old ||| b)
  | .xor => some (old ^^^ b)
  | .xchg => some b
  | .fadd => some (afadd w old b)
  | .cas new => if old = b then some (new.toNat % 2 ^ w) else none

/-- An atomic at its home, for an agent of die `d`: the old value and the state after it. -/
def State.atomic (s : State) (d key n : Nat) (op : Rmw) (b : Nat) : Nat × State :=
  let s1 := s.flushLine d (key / 64)
  let old := s1.rd key n
  match rmwNew op (8 * n) old (b % 2 ^ (8 * n)) with
  | none => (old, s1)
  | some x => (old, s1.store key n x)

/-- The clamp of sketch counters (R295). -/
def clampS (x : Int) : Int := if 2 ^ 31 - 1 < x then 2 ^ 31 - 1 else if x < -(2 ^ 31 - 1) then -(2 ^ 31 - 1) else x

/-- OR bits into a sketch's status word (R291) (log entry 51). -/
def State.skStatus (s : State) (d key : Nat) (bits : Nat) : State :=
  if bits = 0 then s else (s.atomic d (key + 16) 8 .or bits).2

/-- The update of a counter by a signed quantity, with SAT set where it clamps (R295) and the bits of
its quantity (R294). -/
def State.skUpdate (s : State) (d key desc : Nat) (q : Int) (ev : Nat) : State :=
  let s1 := s.flushLine d (key / 64)
  let c := toInt 32 (s1.rd key 4) + q
  (s1.store key 4 (ofInt 32 (clampS c))).skStatus d desc (ev ||| (if clampS c = c then 0 else 1))

/-- The bits that a launch ORs into a status word at the virtual address `va`, whose page it writes where there are any (R351). -/
def State.skStatusBy (s : State) (l : Option Nat) (va d key bits : Nat) : State :=
  if bits = 0 then s else (s.skStatus d key bits).notePage l va

/-- The update of a counter for a launch, with the status word at `va`: the page of the word is written where a bit is (R351). -/
def State.skUpdateBy (s : State) (l : Option Nat) (va d key desc : Nat) (q : Int) (ev : Nat) : State :=
  let c := toInt 32 ((s.flushLine d (key / 64)).rd key 4) + q
  let t := s.skUpdate d key desc q ev
  if ev = 0 && clampS c = c then t else t.notePage l va

end Sys2Proof.Machine
end

