-- ==== Sys2Proof/Machine/Phasers.lean ====
section
/-! DEFINITION. Phasers (spec/10 R241 to R251): the object at its home, its addresses, and signals. -/

namespace Sys2Proof.Machine

/-- The fields of a phaser (Table 10-1), from its two words. -/
def phP (w0 : Nat) : Bool := w0.testBit 63
def phErr (w0 : Nat) : Bool := w0.testBit 62
def phBytes (w0 : Nat) : Bool := w0.testBit 61
def phWpend (w0 : Nat) : Int := toInt 6 (w0 / 2 ^ 55)
def phSpend (w0 : Nat) : Int := toInt 7 (w0 / 2 ^ 48)
def phArrived (w0 : Nat) : Nat := w0 % 2 ^ 48
def phExpected (w1 : Nat) : Nat := w1 % 2 ^ 48
def phWaiters (w1 : Nat) : Nat := w1 / 2 ^ 48 % 2 ^ 16

/-- Word 0 from its fields (log entry 32). -/
def phWord (p err bytes : Bool) (wp sp : Int) (arrived : Nat) : Nat :=
  (if p then 2 ^ 63 else 0) + (if err then 2 ^ 62 else 0) + (if bytes then 2 ^ 61 else 0) + ofInt 6 wp * 2 ^ 55 +
    ofInt 7 sp * 2 ^ 48 + arrived % 2 ^ 48

/-- ERR set. -/
def phWithErr (w0 : Nat) : Nat := if phErr w0 then w0 else w0 + 2 ^ 62

/-- A signal of weight `n` on the two words (R246). -/
def phSignal (w0 w1 n : Nat) : Nat × Nat :=
  if n = 0 then (w0, w1)
  else if phExpected w1 = 0 then (phWithErr w0, w1)
  else
    let t := phArrived w0 + n
    if t < phExpected w1 then (phWord (phP w0) (phErr w0) (phBytes w0) (phWpend w0) (phSpend w0) t, w1)
    else
      let e : Int := phExpected w1 + phSpend w0
      let w : Int := phWaiters w1 + phWpend w0
      let bad : Bool := e < 0 || w < 0
      let err := phErr w0 || phExpected w1 < t || bad
      (phWord (!phP w0) err (phBytes w0) 0 0 0, if bad then w1 else w.toNat % 2 ^ 16 * 2 ^ 48 + e.toNat % 2 ^ 48)

/-- PHREG and PHDROP of a mode on word 0, `d` being +1 or -1 (R245) (log entry 32). -/
def phChange (w0 : Nat) (mode : Nat) (d : Int) : Nat :=
  let sp := phSpend w0
  let wp := phWpend w0
  let sBad := phBytes w0 || sp + d < -64 || 63 < sp + d
  let wBad : Bool := wp + d < -32 || 31 < wp + d
  let s1 := mode % 2 = 1
  let s2 := mode / 2 % 2 = 1
  phWord (phP w0) (phErr w0 || s1 && sBad || s2 && wBad) (phBytes w0) (if s2 && !wBad then wp + d else wp)
    (if s1 && !sBad then sp + d else sp) (phArrived w0)

/-- A core that waits at a phaser is released where the phase has changed or ERR is set (R246, R247). -/
def Core.phWake (x : Core) (key : Nat) (p err : Bool) : Core :=
  match x.wait with
  | .phwait k phase => if k = key && (p != phase || err) then { x with wait := .phdone key (p != phase) } else x
  | _ => x

/-- Write both words at the home as one action, which releases the waits that it ends. -/
def State.phPut (s : State) (key : Nat) (w : Nat × Nat) : State :=
  let t := (s.wr key 8 w.1).store (key + 8) 8 w.2
  { t with cores := t.cores.map fun e => (e.1, e.2.phWake key (phP w.1) (phErr w.1)) }

def State.phGet (s : State) (key : Nat) : Nat × Nat := (s.rd key 8, s.rd (key + 8) 8)

/-- A signal reaches the home (R246). -/
def State.signal (s : State) (key n : Nat) : State :=
  if n = 0 then s else let w := s.phGet key; s.phPut key (phSignal w.1 w.2 n)

/-- ERR is set at the home. -/
def State.phFail (s : State) (key : Nat) : State := let w := s.phGet key; s.phPut key (phWithErr w.1, w.2)

/-- The phaser's home lies on another die than the core. -/
def farPhaser (c key : Nat) : Bool := dieOf (ownerOf key) ≠ dieOf c

/-- An image of a claimed bank, at whose phasers commands, signals and waits are held (R331). -/
def isImage (key : Nat) : Bool := 2 ^ 53 ≤ key

/-- A signal of a job is applied (R250, R258, R283): a phaser of the other kind takes ERR instead. -/
def State.jobApply (s : State) (bytes : Bool) (key n : Nat) : State :=
  if phBytes (s.phGet key).1 = bytes then s.signal key n else s.phFail key

/-- What a job of core `c` does to a phaser comes behind the commands that its core has queued for it (R248), and waits for a bank
that is claimed (R251, R331). -/
def Core.phBehind (x : Core) (key : Nat) : Bool := isImage key || x.eng.phq.any fun p => p.key = key

/-- Queue what a job of core `c` does to a phaser. -/
def State.phBehind (s : State) (c : Nat) (p : PhCmd) : State :=
  let x := s.core c
  s.setCore c { x with eng := { x.eng with phq := x.eng.phq ++ [p] } }

/-- A signal of `n` by a job of core `c`, whose writes are released at package scope where the phaser is homed on another die
(R249). -/
def State.jobSignal (s : State) (c : Nat) (bytes : Bool) (key n : Nat) : State :=
  let t := if farPhaser c key then s.release (dieOf c) else s
  if (t.core c).phBehind key then
    t.phBehind c { op := .job, key := key, bytes := bytes, x := BitVec.ofNat 64 n, before := 0 }
  else t.jobApply bytes key n

/-- ERR is set by a job of core `c`. -/
def State.jobFail (s : State) (c key : Nat) : State :=
  if (s.core c).phBehind key then s.phBehind c { op := .fail, key := key, bytes := false, x := 0#64, before := 0 } else s.phFail key

/-- A phaser, status area or parameter block address of a core (R242 steps 2 and 3): the key of its bytes, or the trap. -/
def State.syncAddr (s : State) (c : Nat) (a : Word) : Resolved :=
  if a.toNat < 2 ^ 22 then
    if (s.core c).spmAllot.getLsbD (a.toNat / 2 ^ 16) then .ok (.mem (spKey c a.toNat)) else .bad cALLOT a
  else if a.toNat < 2 ^ 52 && inWindow a.toNat then
    s.device (dieOf c) (isSup c) (s.launch? (s.core c).launch) needRW false a
  else .bad cPROT a

/-- The key of such an address, which the submit of a job has checked, as the job comes to use it: the rights that its core has by then do
not matter (R258, R264). -/
def State.syncKey? (s : State) (c : Nat) (a : Word) : Option Nat :=
  if a.toNat < 2 ^ 22 then some (spKey c a.toNat)
  else if a.toNat < 2 ^ 52 && inWindow a.toNat then
    some (s.bankKey (s.launch? (s.core c).launch) (a.toNat / 2 ^ 22 % 2 ^ 11) (a.toNat % 2 ^ 22))
  else none

end Sys2Proof.Machine
end

