-- ==== Sys2Proof/Machine/Regions.lean ====
section
/-! DEFINITION. The regions of a launch: control blocks, effective fields and QPOOL (spec/07 R178 to R180, R204). -/

namespace Sys2Proof.Machine

/-! ## Regions (R178 to R180, R204) -/

/-- Read `n` bytes of hardware's own at a device virtual address; 0 where it does not translate. -/
def State.dev (s : State) (die va n : Nat) : Nat :=
  match s.devKey? die true needR va with
  | some k => s.rd k n
  | none => 0

/-- Write `n` bytes of hardware's own at a device virtual address. -/
def State.devPut (s : State) (die va n x : Nat) : State :=
  match s.devKey? die true needRW va with
  | some k => s.store k n x
  | none => s

/-- The address of region block `i` of a launch. -/
def Launch.rcb (l : Launch) (i : Nat) : Nat := l.root.toNat + 256 * i

/-- A region and its ancestors up to the root; none where the chain loops, is too deep or leaves the table (R179). -/
def State.chain (s : State) (die : Nat) (l : Launch) : Nat → Nat → Option (List Nat)
  | 0, _ => none
  | fuel + 1, i =>
    if l.regions ≤ i then none
    else if i = 0 then some [0]
    else (s.chain die l fuel (s.dev die (l.rcb i) 2)).map (i :: ·)

/-- The block that gives field group `bit` its value: the nearest of the chain whose OVR bit is set, or the root. -/
def State.giver (s : State) (die : Nat) (l : Launch) (bit : Nat) : List Nat → Nat
  | [] => 0
  | i :: r => if i = 0 || (s.dev die (l.rcb i + 2) 1).testBit bit then i else s.giver die l bit r

/-- The banks of a carve-out of `k` KiB lie in an allotment (R204). -/
def carveOk (k : Nat) (spm : Word) : Bool :=
  6 ≤ k && k ≤ 4096 && (List.range 64).all fun b => (b + 1) * 2 ^ 16 ≤ 2 ^ 22 - 1024 * k || spm.getLsbD b

/-- The effective fields of region `i` as the blocks now give them; none where the region is invalid (R179, R204). -/
def State.region? (s : State) (die : Nat) (l : Launch) (i : Nat) : Option Region :=
  match s.chain die l 8 i with
  | none => none
  | some ch =>
    let f (bit off n : Nat) := s.dev die (l.rcb (s.giver die l bit ch) + off) n
    let r0 (off n : Nat) := s.dev die (l.rcb 0 + off) n
    let spm := BitVec.ofNat 64 (f 3 0x38 8) &&& BitVec.ofNat 64 (r0 0x38 8)
    let carve := f 6 0x50 8 / 2 ^ 10 % 2 ^ 13
    if carveOk carve spm then
      some { budget := BitVec.ofNat 64 (f 0 0x08 8), prio := min (f 1 0x10 1 % 8) (if l.sup then 7 else 6),
             spMem := f 2 0x18 8 % 2 ^ 52, cquota := f 2 0x30 8, pool := l.rcb (s.giver die l 2 ch) + 0x28, spm := spm,
             reg := BitVec.ofNat 9 (f 4 0x40 8) &&& BitVec.ofNat 9 (r0 0x40 8),
             acc := BitVec.ofNat 32 (f 5 0x48 8) &&& BitVec.ofNat 32 (r0 0x48 8), carve := carve }
    else none

/-- Add to a 32-bit count of a region block (LIVE, DROPS). -/
def State.count (s : State) (die : Nat) (l : Launch) (i off : Nat) (d : Int) : State :=
  s.devPut die (l.rcb i + off) 4 (ofInt 32 ((s.dev die (l.rcb i + off) 4 : Int) + d))

def State.liveAdd (s : State) (die : Nat) (l : Launch) (d : Int) : State := s.count die l 0 0x58 d

/-- Take bytes of a spill from QPOOL, or give them back (R170, R188) (log entry 18). -/
def State.pool (s : State) (die : Nat) (at' : Nat) (d : Int) : State :=
  s.devPut die at' 8 (ofInt 64 ((s.dev die at' 8 : Int) + d))

end Sys2Proof.Machine
end

