-- ==== Sys2Proof/Machine/Tasks.lean ====
section
/-! DEFINITION. The task table (spec/11 R262 to R276): submits with their checks, footprints and edges, the end of a job and
its cancellation, parking (spec/14 R326), and the device addresses of jobs. -/

namespace Sys2Proof.Machine

/-! ## Engine state of a core -/

def State.eng (s : State) (c : Nat) : Engines := (s.core c).eng
def State.setEng (s : State) (c : Nat) (e : Engines) : State := s.setCore c { s.core c with eng := e }

/-- Parameter `n` of an engine (R262). -/
def Engines.param (e : Engines) (eng n : Nat) : Word := (e.params[16 * eng + n]?).getD 0#64

/-- The sixteen parameters of an engine. -/
def Engines.all (e : Engines) (eng : Nat) : List Word := (List.range 16).map (e.param eng)

def Job.p (j : Job) (n : Nat) : Word := j.ps.getD n 0#64

def State.job? (s : State) (c slot : Nat) : Option Job := tabGet? (s.eng c).jobs slot

def State.setJob (s : State) (c slot : Nat) (j : Job) : State :=
  let e := s.eng c
  s.setEng c { e with jobs := tabPut e.jobs slot j }

/-! ## Addresses of jobs -/

/-- Where a byte address of a job lies: a local offset, or a device address. -/
inductive JobAddr where
  | loc (off : Nat)
  | dev (va : Nat)
  deriving DecidableEq, Repr

/-- An address in space 1 (local), 2 (device) or 3 (flat of this rank), where it fits its space (R277) (log entry 97). -/
def jobAddr (space : Nat) (a : Word) : Option JobAddr :=
  match space with
  | 1 => if a.toNat < 2 ^ 22 then some (.loc a.toNat) else none
  | 2 => if a.toNat < 2 ^ 52 then some (.dev a.toNat) else none
  | 3 => if a.extractLsb' 52 12 = Config.devRank then some (.dev (a.toNat % 2 ^ 52)) else none
  | _ => none

def JobAddr.add (a : JobAddr) (n : Nat) : JobAddr :=
  match a with
  | .loc o => .loc (o + n)
  | .dev v => .dev (v + n)

/-- The largest address of the space. -/
def JobAddr.fits (a : JobAddr) (len : Nat) : Bool :=
  match a with
  | .loc o => o + len ≤ 2 ^ 22
  | .dev v => v + len ≤ 2 ^ 52

/-- The footprint of `len` bytes; a window onto the core's own scratchpad counts as its offsets (R268), and a run that goes on beyond that
window or into it goes by its first byte (log entry 115). -/
def JobAddr.span (c : Nat) (a : JobAddr) (len : Nat) : Span :=
  match a with
  | .loc o => { sp := 1, lo := o, hi := o + len - 1 }
  | .dev v =>
    if inWindow v && v / 2 ^ 22 % 2 ^ 11 = c then { sp := 1, lo := v % 2 ^ 22, hi := v % 2 ^ 22 + len - 1 }
    else { sp := 2, lo := v, hi := v + len - 1 }

/-- The footprint of an access of core `c` as the footprints of its jobs count it (R237, R268); the counters of a query, whose addresses it
does not keep, may lie anywhere in device memory (log entry 50). -/
def Access.spans (c : Nat) (a : Access) : List Span :=
  match a.kind, a.tgt with
  | _, .remote _ _ => []
  | .query _ _ _ _ _ _ _ _, _ => [{ sp := 2, lo := 0, hi := 2 ^ 52 - 1 }]
  | _, _ =>
    if a.space = 1 then [{ sp := 1, lo := a.ea.toNat, hi := a.ea.toNat + a.n - 1 }]
    else [JobAddr.span c (.dev (a.ea.toNat % 2 ^ 52)) a.n]

/-- The home of a byte of a job (R207's checks with the rights of its core), or its fault. -/
def State.jobKey (s : State) (c : Nat) (n : Need) (a : JobAddr) : Resolved :=
  match a with
  | .loc o => .ok (.mem (spKey c o))
  | .dev v => s.device (dieOf c) (isSup c) (s.launch? (s.core c).launch) n false (BitVec.ofNat 64 v)

/-- What a job meets at an address: the key of the byte, the port area, or a fault. -/
inductive Met where
  | key (k : Nat)
  | port (l off : Nat)
  | fault (cause : BitVec 6) (a : Word)
  deriving DecidableEq, Repr

def State.meet (s : State) (c : Nat) (n : Need) (a : JobAddr) : Met :=
  match s.jobKey c n a with
  | .ok (.mem k) => .key k
  | .ok (.port l off) => .port l off
  | .ok _ => .fault cPROT (match a with | .loc o => BitVec.ofNat 64 o | .dev v => BitVec.ofNat 64 v)
  | .bad cause x => .fault cause x

/-- The first fault among the bytes of a run, one probe for each 64-byte line it touches. -/
def State.runFault (s : State) (c : Nat) (n : Need) (a : JobAddr) (len : Nat) : Option (BitVec 6 × Word) :=
  let off := match a with | .loc o => o | .dev v => v
  let lines := (off + len - 1) / 64 - off / 64 + 1
  ((List.range lines).map fun i => if i = 0 then 0 else (off / 64 + i) * 64 - off).findSome? fun d =>
    match s.meet c n (a.add d) with
    | .fault cause x => some (cause, x)
    | _ => none

/-- One byte a job reads; port areas read as zero (R183). -/
def State.jobRead (s : State) (c : Nat) (a : JobAddr) : Nat :=
  match s.meet c needR a with
  | .key k => s.seen (dieOf c) k 1
  | _ => 0

/-- The block that counts the misused port accesses of a launch: DROPS of its root (R183, Table 7-10) (log entry 83). -/
def State.dropAt (s : State) (die : Nat) (rcb : Nat) : State :=
  match s.devKey? die true needRW (rcb + 0x60) with
  | none => s
  | some k => s.store k 4 ((s.rd k 4 + 1) % 2 ^ 32)

/-- One byte a job writes; a write to a port area is dropped (R183). -/
def State.jobWrite (s : State) (c : Nat) (a : JobAddr) (x : Nat) : State :=
  match s.meet c needW a with
  | .key k =>
    let s1 := s.putBy (dieOf c) k 1 x
    match a with
    | .loc _ => s1
    | .dev v => s1.notePage (s.core c).launch v
  | _ => s

/-- The launches whose port areas some bytes reach. -/
def State.portsOf (s : State) (c : Nat) (as : List JobAddr) : List Nat :=
  as.foldl (fun ls a => match s.meet c needW a with
    | .port l _ => if ls.contains l then ls else l :: ls
    | _ => ls) []

/-- The bytes that a job writes as one access: a misuse of a port area counts once for it (R183) (log entry 83). -/
def State.jobWrites (s : State) (c : Nat) (ws : List (JobAddr × Nat)) : State :=
  let s1 := ws.foldl (fun (t : State) w => t.jobWrite c w.1 w.2) s
  (s.portsOf c (ws.map Prod.fst)).foldl (fun (t : State) l => match t.launch? (some l) with
    | some l => t.dropAt (dieOf c) l.root.toNat
    | none => t) s1

/-! ## The end of a job -/

/-- The status doubleword (Table 11-3) (log entry 48). -/
def Job.statusWord (j : Job) (code : Nat) (fcause : BitVec 6) : Nat :=
  (if j.kind = .rdsend then 0 else j.prog) % 2 ^ 32 * 2 ^ 32 + fcause.toNat * 2 ^ 24 + j.fl.toNat % 64 * 2 ^ 8 + code

/-- The array of a matrix job or of the streams a CSTRM feeds. -/
def Job.array (j : Job) : Nat := if j.kind = .cstrm then fld (j.p 5) 10 1 else j.eng
/-- The sub-array (quarter) of a matrix job or CSTRM. -/
def Job.quarter (j : Job) : Nat := if j.kind = .cstrm then fld (j.p 5) 11 2 else j.sb.toNat / 4
/-- Planes, rows and bytes of a row of a copy (Table 11-4). -/
def cpPlanes (ps : List Word) : Nat := fld (ps.getD 2 0#64) 44 20 + 1
def cpRows (ps : List Word) : Nat := fld (ps.getD 2 0#64) 24 20 + 1
def cpLen (ps : List Word) : Nat := fld (ps.getD 2 0#64) 0 24
def cpTotal (ps : List Word) : Nat := cpPlanes ps * cpRows ps * cpLen ps

/-- The granules of a copy (R278). -/
def granules (ps : List Word) : Nat := (cpTotal ps + 4095) / 4096

/-- The key of a stream: array, stream (A, B, S) and quarter. -/
def streamKey (arr str q : Nat) : Nat := 12 * arr + 4 * str + q

/-- The phaser that a job signals once, with n = 1, when it ends DONE (R283, Table 13-6, Table 18-1). -/
def Job.endPhaser (j : Job) : Word :=
  match j.kind with
  | .mma => j.p 4 | .mzero => j.p 4 | .mdrain => j.p 4
  | .skupd => j.p 6 | .skadd => j.p 6 | .skclr => j.p 6
  | .xcoll => j.p 8
  | _ => 0#64

/-- Discard the bytes of the three streams of an array or sub-array. -/
def Engines.discard (e : Engines) (arr : Nat) (q : Nat) : Engines :=
  { e with streams := [0, 1, 2].foldl (fun t st => tabDel t (streamKey arr st q)) e.streams }

/-- The bytes of a core's scratchpad as a job of it reaches them; `pre` says that the job is a victim's, whose claimed banks
stand in their images (R331, R381). -/
def State.winKey (s : State) (c : Nat) (pre : Bool) (off : Nat) : Nat :=
  if pre && (s.core c).smSpm.getLsbD (off / 2 ^ 16) then imgKey c off else spKey c off

/-- The completion ring that XARM parameters give, where they give one (Table 16-7): its area and its size. -/
def ringOf (ps : List Word) : Option (Nat × Nat) :=
  let cq := ps.getD 12 0#64
  if fld cq 0 22 = 0 && fld cq 24 4 = 0 then none else some (fld cq 0 22, 2 ^ fld cq 24 4)

/-- The completion ring that a window appends to. -/
def Window.ring? (w : Window) : Option (Nat × Nat) := if fld (w.ps.getD 1 0#64) 0 1 = 0 then none else ringOf w.ps

/-- The ring has no room (R380). -/
def State.ringFull (s : State) (c : Nat) (pre : Bool) (r : Nat × Nat) : Bool :=
  let k := s.winKey c pre r.1
  (s.rd k 8 + 2 ^ 64 - s.rd (k + 8) 8) % 2 ^ 64 = r.2

/-- Write an entry of a ring, then its TAIL. -/
def State.ringWrite (s : State) (c : Nat) (pre : Bool) (r : Nat × Nat) (e : Word × Word) : State :=
  let tail := s.rd (s.winKey c pre r.1) 8
  let k := s.winKey c pre (r.1 + 16 + 16 * (tail % r.2))
  (((s.store k 8 e.1.toNat).store (k + 8) 8 e.2.toNat)).store (s.winKey c pre r.1) 8 ((tail + 1) % 2 ^ 64)

/-- The QPOOL of the region of a job (die and address), as it was when the continuation of its core started (R179). -/
def State.poolOf (s : State) (c : Nat) (region : BitVec 16) : Option (Nat × Nat) :=
  if (s.core c).regionId = region then (s.core c).region.map fun g => (dieOf c, g.pool)
  else match s.launch? (s.core c).launch with
  | none => none
  | some l => (s.region? (dieOf c) l region.toNat).map fun g => (dieOf c, g.pool)

/-- An entry that finds its ring full, or others waiting for it, spills (R380); where QPOOL does not hold its 32 bytes it waits
uncharged (R188) (log entry 78). -/
def State.spillEnt (s : State) (w : Window) (e : RingEnt) : State × Window :=
  match w.pool with
  | some q =>
    if (w.spill.all fun x => x.paid.isSome) && 32 ≤ s.dev q.1 q.2 8 then
      (s.pool q.1 q.2 (-32), { w with spill := w.spill ++ [{ e with paid := some q }] })
    else (s, { w with spill := w.spill ++ [e] })
  | none => (s, { w with spill := w.spill ++ [e] })

/-- An entry of a completion ring (R380): appended, or kept until there is room. -/
def State.ringPut (s : State) (c : Nat) (pre : Bool) (w : Window) (x y : Word) : State × Window :=
  match w.ring? with
  | none => (s, w)
  | some r =>
    if (w.spill.any fun e => e.base = r.1) || s.ringFull c pre r then
      s.spillEnt w { core := c, base := r.1, size := r.2, launch := w.launch, x := x, y := y, paid := none }
    else (s.ringWrite c pre r (x, y), w)

def ringWord (kind win : Nat) (arm : BitVec 16) : Word := BitVec.ofNat 64 (kind * 2 ^ 56 + win * 2 ^ 32 + arm.toNat)

/-- The entry of a window. -/
def State.window (s : State) (win : Nat) : Window := (tabGet? s.windows win).getD Window.reset
def State.setWindow (s : State) (win : Nat) (w : Window) : State := { s with windows := tabPut s.windows win w }

/-- An XARM that starts, or that is cancelled before it starts, takes the entry: the next arming number, its owner and its
geometry (R374, R381). -/
def State.takeWindow (s : State) (c : Nat) (j : Job) (win : Nat) (st : WinSt) : Window :=
  let w := s.window win
  let l := (s.core c).launch
  { w with st := st, pend := false, arm := w.arm + 1#16, core := c, ord := j.ord, lid := j.lid, ps := j.ps, got := 0,
           tiles := 0, launch := l, pool := s.poolOf c j.region,
           used := match l with | some l => if w.used.contains l then w.used else l :: w.used | none => w.used }

/-- A cancelled XARM leaves its window CANCELLED (R381); one that had not started first takes its arming. -/
def State.dropWindow (s : State) (c : Nat) (j : Job) : State :=
  let win := fld (j.p 1) 32 10
  let w := s.window win
  match j.st with
  | .waiting => s.setWindow win (s.takeWindow c j win .cancelled)
  | _ =>
    let (s1, w1) := s.ringPut c false w (ringWord 3 win w.arm) 0#64
    s1.setWindow win { w1 with st := .cancelled }

/-- The status of a collective (Table 18-3), and ERR in its phaser where it did not complete (R412) (log entry 77). -/
def State.collStatus (s : State) (c : Nat) (j : Job) (code rank field : Nat) (fl : BitVec 7) : State :=
  let s1 := if j.p 10 = 0#64 then s else match s.syncKey? c (j.p 10) with
    | some k => s.store k 8 (rank * 2 ^ 52 + field * 2 ^ 32 + fl.toNat % 64 * 2 ^ 8 + code)
    | none => s
  if code = 1 || j.p 8 = 0#64 then s1 else match s1.syncKey? c (j.p 8) with
    | some k => s1.jobFail c k
    | none => s1

/-- What names a collective on this device: LAUNCHID, the group and the digest of its list (R404, R405). -/
def collGroup (lid : BitVec 32) (h : CollHdr) : List Word := [lid.setWidth 64, h.g0, h.gBox, h.g2, h.digest]

/-- Free bytes in a run of a job, written as one access (R412). -/
def State.spoil (s : State) (c : Nat) (a : JobAddr) (n : Nat) : State :=
  ({ s with freeCtr := s.freeCtr + n } : State).jobWrites c
    ((List.range n).map fun i => (a.add i, (Config.freeByte (s.freeCtr + i)).toNat))

/-- Free counters in the `n` counters of a sketch, written as one access; each keeps the range of a counter (spec/13 R292). -/
def State.spoilCounters (s : State) (c : Nat) (a : JobAddr) (n : Nat) : State :=
  ({ s with freeCtr := s.freeCtr + n } : State).jobWrites c ((List.range n).flatMap fun i =>
    let x := ofInt 32 (clampS (toInt 32 (Config.freeWord (s.freeCtr + i)).toNat))
    (List.range 4).map fun b => (a.add (4 * i + b), x / 256 ^ b % 256))

/-- Where a footprint interval begins. -/
def Span.addr (p : Span) : JobAddr := if p.sp = 1 then .loc p.lo else .dev p.lo

/-- What a collective that does not complete leaves in RECV, or in the destination counters of SKETCH_SUM (R412): free values within their
types. A refused collective has neither, and the root of a BROADCAST in place receives nothing (log entry 7). -/
def State.collSpoil (s : State) (c : Nat) (j : Job) : State :=
  match j.coll, j.writes with
  | some k, w :: _ =>
    if k.refuse.isSome || k.hdr.op = 4#8 && k.hdr.flags.getLsbD 2 && k.self = k.hdr.root.toNat then s
    else if k.dst.isSome then s.spoilCounters c w.addr ((w.hi + 1 - w.lo) / 4)
    else s.spoil c w.addr (w.hi + 1 - w.lo)
  | _, _ => s

/-- What the end of a collective's job writes where the collective itself has not (R412): ECANCEL where it is cancelled, after which its packets
are rejected; a fault of its own for which R402 names no code leaves a free value in the status (log entries 7 and 77). -/
def State.collEnd (s : State) (c : Nat) (j : Job) (code : Nat) (fcause : BitVec 6) : State :=
  match j.coll with
  | none => s
  | some k =>
    if code = 2 || code = 4 then
      { (s.collSpoil c j).collStatus c j 4 0 0 0#7 with collBad := (collGroup j.lid k.hdr, k.num) :: s.collBad }
    else if code = 3 && fcause ≠ cENGFAULT && fcause ≠ cREMOTE && fcause ≠ cTIMEOUT then
      let u := s.collSpoil c j
      let v := Config.freeWord u.freeCtr
      let s1 : State := { u with freeCtr := u.freeCtr + 1 }
      let s2 := if j.p 10 = 0#64 then s1 else match s1.syncKey? c (j.p 10) with
        | some a => s1.store a 8 v.toNat
        | none => s1
      if j.p 8 = 0#64 then s2 else match s2.syncKey? c (j.p 8) with
        | some a => s2.jobFail c a
        | none => s2
    else s

/-- The job of slot `slot` ends (R266): 1 DONE, 2 CANCELLED, 3 FAULT with its cause, 4 cancelled because it depends on
a job that did not complete (R272; its status reads CANCELLED). The status is written, the phaser signalled, the slot
freed, and the successors released or cancelled; streams whose feeding or use it breaks are discarded with the jobs that
share them (R274). -/
def State.finish (s : State) (c slot code : Nat) (fcause : BitVec 6) : Nat → State
  | 0 => s
  | fuel + 1 =>
    match s.job? c slot with
    | none => s
    | some j =>
      let s1 := if j.kind = .xarm && (code = 2 || code = 4 || code = 3) then s.dropWindow c j else s
      let s1 := if j.kind = .xcoll then s1.collEnd c j code fcause else s1
      let s2 := match j.status with
        | none => s1
        | some b => s1.store (spKey c (b + 8 * slot)) 8 (j.statusWord (if code = 4 then 2 else code) fcause)
      let s3 := if code = 1 && j.endPhaser ≠ 0#64 then
          match s2.syncKey? c j.endPhaser with
          | some k => s2.jobSignal c false k 1
          | none => s2
        else s2
      let e := s3.eng c
      let e1 := { e with jobs := tabDel e.jobs slot,
                         unrep := if code = 3 then e.unrep ||| BitVec.ofNat 64 (2 ^ slot) else e.unrep }
      if code = 1 then
        s3.setEng c { e1 with jobs := e1.jobs.map fun x =>
          (x.1, { x.2 with edges := x.2.edges.filter fun g => g.ord ≠ j.ord }) }
      else
        let breaks := j.kind = .mma && code ≠ 3 || j.kind = .cstrm && j.prog < granules j.ps
        let arr := j.array
        let q := j.quarter
        let e2 := if breaks then e1.discard arr q else e1
        let s4 := s3.setEng c e2
        let doomed := (e2.jobs.filter fun x =>
          x.2.edges.any (fun g => g.ord = j.ord) ||
            breaks && (x.2.kind = .mma || x.2.kind = .cstrm) && x.2.kind ≠ j.kind && x.2.array = arr &&
              x.2.quarter = q).map fun x =>
                (x.1, if x.2.edges.any (fun g => g.ord = j.ord) then 4 else 2)
        doomed.foldl (fun a x => a.finish c x.1 x.2 0#6 fuel) s4

/-- The end of a job, with every consequence; at most 64 jobs can end. -/
def State.endJob (s : State) (c slot code : Nat) (fcause : BitVec 6) : State := s.finish c slot code fcause 65

/-- TCANCEL of one slot (R274). Between two steps of the model a running job stands at its boundary. -/
def State.cancelJob (s : State) (c slot : Nat) : State := s.endJob c slot 2 0#6

/-- A collective that does not complete: its status, ERR, and CODE 3 (R412). -/
def State.collFail (s : State) (c slot : Nat) (j : Job) (code rank : Nat) (cause : BitVec 6) : State :=
  ((s.collSpoil c j).collStatus c j code rank 0 0#7).endJob c slot 3 cause

/-- A job meets a fault (R272, R326): XLATE parks it and appends a record of KIND 3; any other cause ends it. -/
def State.jobMeets (s : State) (c slot : Nat) (cause : BitVec 6) (a : Word) : State :=
  if cause ≠ cXLATE then s.endJob c slot 3 cause
  else match s.job? c slot with
    | none => s
    | some j =>
      let x := s.core c
      let s1 := s.setJob c slot { j with st := .parked a }
      s1.report (dieOf c)
        { words := [BitVec.ofNat 64 (3 * 2 ^ 56 + 7 * 2 ^ 50 + slot * 2 ^ 44 + j.eng * 2 ^ 40 + j.lid.toNat),
            BitVec.ofNat 64 (j.region.toNat * 2 ^ 48 + (coreIdOf c).toNat), j.pc &&& 0xFFFFFFFFFFFFF#64, a,
            BitVec.ofNat 64 (j.statusWord 0 0#6), x.record.setWidth 64, 0#64] }

/-! ## Submits (R264) -/

/-- The local bytes that a job would touch (R264): runs of `len` bytes from `base` on, repeated along dimensions of a count and a stride. -/
structure Touch where
  base : Nat
  len  : Nat
  dims : List (Nat × Nat)
  deriving DecidableEq, Repr

/-- The lowest touched byte between two offsets. -/
def lowTouched (len lo hi base : Nat) : List (Nat × Nat) → Option Nat
  | [] => if base ≤ hi && lo < base + len then some (max base lo) else none
  | (n, st) :: r =>
    (List.range (if st = 0 then min n 1 else n)).foldl (fun a i => match a, lowTouched len lo hi (base + i * st) r with
      | some x, some y => some (min x y)
      | some x, none => some x
      | none, y => y) none

/-- The offset of the last byte touched. -/
def Touch.top (t : Touch) : Nat := t.base + (t.dims.map fun d => (d.1 - 1) * d.2).sum + t.len - 1

/-- The lowest byte touched in a bank. -/
def Touch.inBank (t : Touch) (b : Nat) : Option Nat :=
  if t.base / 2 ^ 16 ≤ b && b ≤ t.top / 2 ^ 16 then lowTouched t.len (b * 2 ^ 16) (b * 2 ^ 16 + 65535) t.base t.dims else none

/-- What a job of core `c` touches of its own scratchpad from an address on. -/
def JobAddr.touch (c : Nat) (a : JobAddr) (len : Nat) (dims : List (Nat × Nat)) : List Touch :=
  if (a.span c 1).sp = 1 then [{ base := (a.span c 1).lo, len := len, dims := dims }] else []

/-- All bytes of the local ones of some intervals. -/
def touchesOf (xs : List Span) : List Touch :=
  (xs.filter fun x => x.sp = 1).map fun x => { base := x.lo, len := x.hi + 1 - x.lo, dims := [] }

/-- What a submit is to check and to put into its slot: the first bad parameter, a mode condition, the local bytes and
the tiles it would touch, the phaser, status and block addresses in parameter order, and its footprints. `hold` says that a
read made at submit must wait for earlier accesses, and `early` is the trap of such a read with the number of the parameter
that names it (R305, R399). -/
structure Submit where
  kind   : JobKind
  hold   : Bool
  early  : Option (Nat × BitVec 6 × Word)
  bad    : Option Nat
  mode   : Bool
  locals : List Touch
  tiles  : List Nat
  forms  : List Word
  reads  : List Span
  writes : List Span
  fill   : Job → Job

def engInfo (slot reason param : Nat) : Word := BitVec.ofNat 64 (slot * 256 + reason * 16 + param)

/-- The lowest touched local offset that the allotment lacks (R264, R314); no allotment has what lies past the scratchpad, its 64 banks
(log entry 30). -/
def lowRefused (allot : Word) (t : Touch) : Option Nat :=
  (List.range 65).findSome? fun b => if allot.getLsbD b then none else t.inBank b

/-- The lowest of the offsets refused. -/
def lowest (xs : List Nat) : Option Nat :=
  match xs with
  | [] => none
  | x :: r => some (r.foldl min x)

def Span.meets (a b : Span) : Bool := a.sp = b.sp && a.lo ≤ b.hi && b.lo ≤ a.hi

def spansMeet (a b : List Span) : Bool := a.any fun x => b.any fun y => x.meets y

/-- The hull of the elements of a tile of a window (R379), from the XARM parameters. -/
def tileHull (c : Nat) (ps : List Word) (t : Nat) : Span :=
  let g (n k : Nat) := fld (ps.getD n 0#64) (16 * k) 16 + 1
  let gs := (List.range 4).map fun k => (g 3 k + g 4 k - 1) / g 4 k
  let hs := (List.range 4).map fun k => (gs.getD k 1 + g 5 k - 1) / g 5 k
  let str := [2 ^ fld (ps.getD 2 0#64) 0 2, fld (ps.getD 8 0#64) 0 32, fld (ps.getD 8 0#64) 32 32, fld (ps.getD 9 0#64) 0 32]
  let pos (k : Nat) := t / ((hs.take k).foldl (· * ·) 1) % hs.getD k 1
  let lo := (List.range 4).foldl (fun a k => a + pos k * g 5 k * g 4 k * str.getD k 0) 0
  let hi := (List.range 4).foldl (fun a k => a + (min (g 3 k) ((pos k + 1) * g 5 k * g 4 k) - 1) * str.getD k 0) 0
  let base := match jobAddr (fld (ps.getD 6 0#64) 2 2) (ps.getD 0 0#64) with
    | some a => a
    | none => .dev 0
  JobAddr.span c (base.add lo) (hi - lo + str.getD 0 1)

/-- The number of tiles and of chunks of a window (R373). -/
def winCounts (ps : List Word) : Nat × Nat :=
  let g (n k : Nat) := fld (ps.getD n 0#64) (16 * k) 16 + 1
  let gs := (List.range 4).map fun k => (g 3 k + g 4 k - 1) / g 4 k
  let hs := (List.range 4).map fun k => (gs.getD k 1 + g 5 k - 1) / g 5 k
  (hs.foldl (· * ·) 1, gs.foldl (· * ·) 1)

/-- The tiles of an armed window that a later job waits for: those not yet complete whose hull meets it (R270, R379). -/
def State.unitsOf (s : State) (c : Nat) (i : Job) (ps : List Span) : List Nat :=
  let w := s.window (fld (i.p 1) 32 10)
  let done := if i.st = .waiting then 0 else w.tiles
  (List.range (winCounts i.ps).1).filter fun t =>
    !done.testBit t && ps.any fun x => x.meets (tileHull c i.ps t)

/-- The edge that a new job with the given footprints takes from an earlier incomplete job (R269, R270, R275). -/
def State.edgeFrom (s : State) (c : Nat) (reads writes : List Span) (dep : BitVec 64) (slot : Nat) (i : Job) : Option Edge :=
  if dep.getLsbD slot then some { ord := i.ord, units := none }
  else if spansMeet i.writes reads || spansMeet i.writes writes then
    if i.kind = .xarm && !spansMeet i.reads writes then
      let us := s.unitsOf c i (reads ++ writes)
      if us.isEmpty then none else some { ord := i.ord, units := some us }
    else some { ord := i.ord, units := none }
  else if spansMeet i.reads writes then some { ord := i.ord, units := none }
  else none

/-- Put a job into its slot: parameters copied, footprints and edges formed, the pending TDEP mask applied and cleared,
an unreported fault of the slot forgotten (R264, R273). -/
def State.place (s : State) (c slot eng : Nat) (sb : BitVec 6) (u : Submit) : State :=
  let x := s.core c
  let e := x.eng
  let edges := e.jobs.filterMap fun i => s.edgeFrom c u.reads u.writes e.tdep i.1 i.2
  let p0 := e.param 5 0
  let j := u.fill
    { kind := u.kind, eng := eng, ord := e.ordNext, sb := sb, pc := s.issue.addr, lid := x.launchId,
      region := x.regionId, ps := e.all eng, status := if p0.getLsbD 63 then some (fld p0 0 22) else none,
      reads := u.reads, writes := u.writes, edges := edges, behind := x.outs.length, st := .waiting, prog := 0, fl := 0#7, seed := 1#32,
      sums := [], intake := [[], [], []], desc := [], coll := none, made := 0, start := 0#64 }
  s.setEng c { e with jobs := tabPut e.jobs slot j, ordNext := e.ordNext + 1, tdep := 0#64,
                      unrep := e.unrep &&& ~~~BitVec.ofNat 64 (2 ^ slot) }

/-- A footprint reaches scratchpad bank `b` of core `c` through its window (R193). -/
def Span.reaches (p : Span) (c b : Nat) : Bool :=
  let lo := 2 ^ 52 - 2 ^ 33 + c * 2 ^ 22 + b * 2 ^ 16
  p.sp = 2 && p.lo < lo + 2 ^ 16 && lo ≤ p.hi

/-- The banks and tiles that the newcomer of a pre-emption must claim before a submit, as `State.owedBank` numbers them (R330). -/
def State.owedFor (s : State) (locals : List Touch) (spans : List Span) (tiles : List Nat) : List Nat :=
  let x := s.me
  ((List.range 64).filter fun b =>
    (x.owedSpm ||| x.freshSpm).getLsbD b && locals.any fun t => (t.inBank b).isSome).map (16 + ·) ++
  (tiles.filter fun t => (x.owedAcc ||| x.freshAcc).getLsbD t).map (128 + ·) ++
  (s.cores.filter fun e => e.2.owedSpm ||| e.2.freshSpm ≠ 0#64).flatMap fun e =>
    ((List.range 64).filter fun b => spans.any fun p => p.reaches e.1 b).flatMap fun b => s.owedBank (.mem (spKey e.1 (b * 2 ^ 16)))

/-- The first failure among the parameters and the reads that they name (log entry 30). -/
def Submit.firstFault (u : Submit) : Option (BitVec 6 × Word) :=
  match u.early, u.bad with
  | some e, some n => if e.1 ≤ n then some e.2 else some (cENGFAULT, engInfo 0 0 n)
  | some e, none => some e.2
  | none, some n => some (cENGFAULT, engInfo 0 0 n)
  | none, none => none

/-- The status area that parameter 0 of engine 5 names (R267). -/
def statusArea (p0 : Word) : List Touch := if p0.getLsbD 63 then [{ base := fld p0 0 22, len := 512, dims := [] }] else []

/-- A submit (R264), in the order of its checks; the status area of R267 is checked with REASON 4 after the parameters, an area that runs
past the scratchpad among its failures, and a refused bank is named before a refused tile (log entry 30). -/
def submit (o : En) (eng : Nat) (u : State → Submit) (s : State) : Out :=
  let slot := o.sa.toNat
  let c := s.cur
  let x := s.me
  let p0 := x.eng.param 5 0
  if (tabGet? x.eng.jobs slot).isSome then trapOut cENGFAULT (engInfo slot 1 0) s
  else
    let u := u s
    if u.hold then stallOut s
    else match u.firstFault with
    | some (cause, info) => trapOut cause info s
    | none =>
      if fld p0 22 41 ≠ 0 || p0.getLsbD 63 && (fld p0 0 3 ≠ 0 || 2 ^ 22 < fld p0 0 22 + 512) then
        trapOut cENGFAULT (engInfo 0 4 0) s
      else if u.mode then trapOut cENGFAULT (engInfo slot 2 0) s
      else
        let locals := u.locals ++ statusArea p0
        match lowest (locals.filterMap (lowRefused x.spmAllot)) with
        | some off => trapOut cALLOT (BitVec.ofNat 64 off) s
        | none =>
          match u.tiles.find? fun t => !x.accAllot.getLsbD t with
          | some t => trapOut cALLOT (BitVec.ofNat 64 (2 ^ 63 + t)) s
          | none =>
            match (u.forms.filter (· ≠ 0#64)).findSome? fun a =>
                match s.syncAddr c a with | .bad cause info => some (cause, info) | .ok _ => none with
            | some (cause, info) => trapOut cause info s
            | none =>
              let owed := s.owedFor locals (u.reads ++ u.writes) u.tiles
              if owed.isEmpty then .next ((s.place c slot eng o.sb u).event 13) else claimOut owed s

/-! ## Starting jobs (R271) -/

/-- An earlier job or MCFG keeps a job of the same array or stream from starting. -/
def Engines.held (e : Engines) (j : Job) : Bool :=
  let others := e.jobs.map Prod.snd
  let mine (i : Job) : Bool := i.ord < j.ord && i.array = j.array && i.quarter = j.quarter
  (match j.kind with
    | .mma => others.any fun i => i.kind = .mma && mine i
    | .cstrm => others.any fun i => i.kind = .cstrm && mine i && fld (i.p 5) 8 2 = fld (j.p 5) 8 2
    | _ => false) ||
  (match j.kind with
    | .mma | .mzero | .mdrain | .cstrm => e.mcfgs.any fun m => m.1 < j.ord && m.2.1 = j.array
    | _ => false)

/-- The access returns a value to its core. -/
def Access.isLoad (a : Access) : Bool :=
  match a.kind with
  | .read .. => true | .rmw (.cas _) _ _ => true | .rmw _ _ (some _) => true | .query .. => true | _ => false

/-- A read or read-modify-write with an acquire meaning (Table 9-2). -/
def Access.acq (a : Access) : Bool := a.isLoad && (a.ord = 2 || a.ord = 4 || a.ord = 5)

/-- An access that core `c` had outstanding at the submit of a job is not performed yet: one that meets its footprint (R237), or an
acquire, behind which the job comes as all else does (R290, Table 9-3). -/
def Core.jobHeld (x : Core) (c : Nat) (j : Job) : Bool :=
  (x.outs.take j.behind).any fun a => a.done.isNone && (a.acq || spansMeet (a.spans c) (j.reads ++ j.writes))

/-- The slot of the oldest ready job of an engine of core `c` (log entry 50). -/
def Core.oldest (y : Core) (c eng : Nat) : Option (Nat × Job) :=
  (y.eng.jobs.filter fun x =>
    x.2.eng = eng && x.2.st = .waiting && x.2.edges.isEmpty && !y.eng.held x.2 && !y.jobHeld c x.2).foldl
    (fun a x => match a with
      | none => some x
      | some y => if x.2.ord < y.2.ord then some x else some y) none

end Sys2Proof.Machine
end

