-- ==== Sys2Proof/Machine/Sched.lean ====
section
/-! DEFINITION. Continuation records, wakes, ready queues and the start and end of continuations (spec/07 R176, R177, R182
to R189, R440). -/

namespace Sys2Proof.Machine

/-! ## Records (R182, R440) -/

/-- Word `i` of a record. -/
def State.recWord (s : State) (die : Nat) (r : BitVec 52) (i : Nat) : Word :=
  BitVec.ofNat 64 (s.dev die (r.toNat + 8 * i) 8)

def recRegion (w1 : Word) : Nat := fld w1 32 16
def recKind (w1 : Word) : Nat := fld w1 28 4
def recPrio (w1 : Word) : Nat := fld w1 24 3

/-- A record is valid (R440). -/
def State.recValid (s : State) (die : Nat) (l : Launch) (r : BitVec 52) : Bool :=
  let w0 := s.recWord die r 0
  let w1 := s.recWord die r 1
  (s.region? die l (recRegion w1)).isSome && recKind w1 < 2 && fld w0 0 2 = 0 && fld w0 52 12 = 0 &&
    fld w1 48 16 = 0 && fld w1 27 1 = 0 && fld w1 23 1 = 0

/-- Write bits [4:0] of word 7; LINK, which the hardware writes, takes a free value (log entry 111). -/
def State.putWord7 (s : State) (die : Nat) (r : BitVec 52) (low : Nat) : State :=
  let w7 := (s.recWord die r 7).toNat
  s.fresh.2.devPut die (r.toNat + 56) 8 (w7 / 2 ^ 52 * 2 ^ 52 + s.fresh.1.toNat % 2 ^ 46 * 64 + w7 / 32 % 2 * 32 + low)

/-- Write WAIT, keeping WAKEPEND. -/
def State.setWait (s : State) (die : Nat) (r : BitVec 52) (wait : Nat) : State :=
  s.putWord7 die r ((s.recWord die r 7).toNat / 16 % 2 * 16 + wait)

/-- Write WAKEPEND, keeping WAIT. -/
def State.setPend (s : State) (die : Nat) (r : BitVec 52) (pend : Bool) : State :=
  s.putWord7 die r ((if pend then 16 else 0) + (s.recWord die r 7).toNat % 16)

def State.waitOf (s : State) (die : Nat) (r : BitVec 52) : Nat := fld (s.recWord die r 7) 0 4
def State.wakePend (s : State) (die : Nat) (r : BitVec 52) : Bool := (s.recWord die r 7).getLsbD 4

/-- The level at which a record enters its ready queue (R187). -/
def State.levelOf (s : State) (die : Nat) (l : Launch) (r : BitVec 52) : Nat :=
  let w1 := s.recWord die r 1
  match s.region? die l (recRegion w1) with
  | some g => min (recPrio w1) g.prio
  | none => recPrio w1

/-- Append an entry to the ready queue of a level: on chip, or in the ring of its region, charging 8 bytes; none where
QPOOL does not hold them (R188). -/
def State.enter? (s : State) (die li : Nat) (l : Launch) (r : BitVec 52) (level : Nat) : Option State :=
  let d := s.die die
  let q := d.ready.filter fun e => e.launch = li && e.level = level
  let e : Ready := { launch := li, level := level, record := r, off := false }
  if q.length < 512 && q.all (fun x => !x.off) then some (s.setDie die { d with ready := d.ready ++ [e] })
  else
    match s.region? die l (recRegion (s.recWord die r 1)) with
    | none => none
    | some g =>
      if s.dev die g.pool 8 < 8 then none
      else
        let s1 := s.pool die g.pool (-8)
        let d1 := s1.die die
        some (s1.setDie die { d1 with ready := d1.ready ++ [{ e with off := true }] })

def State.enqueue? (s : State) (die li : Nat) (l : Launch) (r : BitVec 52) : Option State :=
  s.enter? die li l r (s.levelOf die l r)

/-- The launch's rectangle has a dome on a die. -/
def Launch.onDie (l : Launch) (die : Nat) : Bool := l.domes.any fun d => d / 12 = die

/-- A wake of a record at the port of a die (R183, Table 7-12); none while the ready queue cannot take it. -/
def State.wake? (s : State) (die li : Nat) (l : Launch) (v : Word) : Option State :=
  let drop := s.dropAt die l.root.toNat
  if fld v 52 12 ≠ 0 || fld v 0 6 ≠ 0 then some drop
  else match s.devKey? die l.sup needRW v.toNat with
  | none => some drop
  | some _ =>
    let r : BitVec 52 := v.setWidth 52
    let wait := s.waitOf die r
    let reg := recRegion (s.recWord die r 1)
    let dropR := if (s.region? die l reg).isSome then s.count die l reg 0x60 1 else drop
    if !s.recValid die l r then
      if wait = 0 then some (dropR.setWait die r 5)
      else if wait = 3 then some ((dropR.setWait die r 5).liveAdd die l (-1))
      else some dropR
    else if wait = 0 then ((s.setWait die r 1).liveAdd die l 1).enqueue? die li l r
    else if wait = 3 then (s.setWait die r 1).enqueue? die li l r
    else if wait = 2 then some (s.setPend die r true)
    else some dropR

/-- The number of continuations of a launch ready on a die. -/
def State.readyCount (s : State) (die li : Nat) : Nat := (s.die die).ready.countP fun e => e.launch = li

/-- A write to the port area of a launch (R183): a doubleword store to the port of a die of the rectangle wakes; anything
else is dropped and counted. -/
def State.portWrite? (s : State) (li off n : Nat) (whole : Bool) (v : Word) : Option State :=
  match s.launch? (some li) with
  | none => some s
  | some l =>
    let die := off / 64
    if whole && n = 8 && off % 64 = 0 && l.onDie die then s.wake? die li l v
    else some (s.dropAt die l.root.toNat)

/-- A read of the port area. -/
def State.portRead (s : State) (li off n : Nat) (whole : Bool) : Nat :=
  match s.launch? (some li) with
  | none => 0
  | some l => if whole && n = 8 && off % 64 = 0 && l.onDie (off / 64) then s.readyCount (off / 64) li else 0

/-! ## Starting a continuation -/

/-- A core as a continuation finds it (R11, R180, R440): the record's fields, the region's, and every other entry of
Table 1-1 at its reset value. CYCLE, BUNDLES, the tag table, the finder of a dome whose segments stay, and parked jobs stay (log entry 38), and the stores and phaser
commands of the continuation before it go on to their homes (R25). -/
def State.startCore (s : State) (c li : Nat) (l : Launch) (g : Region) (r : BitVec 52) (join : JoinState) : State :=
  let die := dieOf c
  let x := s.core c
  let w (i : Nat) := s.recWord die r i
  let rank := (l.domes.findIdx fun d => d = domeKey c)
  let s1 := (List.range 4).foldl (fun (a : Core) i => a.setS (BitVec.ofNat 6 (i + 1)) (w (2 + i))) (Core.reset (coreIdOf c))
  let s2 := (List.range 23).foldl (fun (a : Core) i => a.setP (BitVec.ofNat 5 (i + 1)) ((w 1).getLsbD i)) (s1.setS 63#6 (w 6))
  let e := { Engines.reset with
    jobs := x.eng.jobs.filter fun j => match j.2.st with | .parked _ => true | _ => false,
    ordNext := x.eng.ordNext, lok := x.eng.lok, phq := x.eng.phq }
  s.setCore c
    { s2 with
      budget := if g.budget = 0#64 then BitVec.allOnes 64 else g.budget, spillQuota := BitVec.ofNat 64 g.cquota,
      spillBase := BitVec.ofNat 64 (2 ^ 22 - 1024 * g.carve),
      spillOvf := BitVec.ofNat 64 (g.spMem + (16 * rank + coreIx c) * g.cquota), launchId := l.id,
      regionId := BitVec.ofNat 16 (recRegion (w 1)), segTab := l.segTab.setWidth 64, cycle := x.cycle,
      bundles := x.bundles, tags := x.tags, finder := if (s.dome (domeKey c)).segs.isEmpty then [] else x.finder, eng := e, run := .running, join := join,
      next := w 0 &&& 0xFFFFFFFFFFFFF#64, launch := some li, record := r, region := some g, outs := x.outs,
      posted := x.posted, fenced := x.fenced, prio := BitVec.ofNat 3 g.prio,
      spmAllot := g.spm, regAllot := g.reg, accAllot := g.acc }

/-- A record that fails its check as a dome takes it: KILLED, counted in the root's DROPS, LIVE decremented (R440). -/
def State.killRecord (s : State) (die : Nat) (l : Launch) (r : BitVec 52) : State :=
  ((s.setWait die r 5).dropAt die l.root.toNat).liveAdd die l (-1)

/-- The dome with its stream as a continuation finds it; segments stay while the launch is the same. -/
def Dome.fresh (d : Dome) (li : Nat) (run : DomeRun) (fe : Word) (det : BitVec 16) : Dome :=
  { Dome.reset with run := run, launch := some li, fe := fe, det := Vector.replicate 64 det, pending := d.pending,
                    segs := if d.launch = some li then d.segs else [] }

/-- Start one core of a private-kind dome, or let it exit at once where its record is invalid (R177, R440). -/
def State.startPrivate (s : State) (c li : Nat) (l : Launch) (r : BitVec 52) : State :=
  let die := dieOf c
  if s.recValid die l r then
    match s.region? die l (recRegion (s.recWord die r 1)) with
    | some g => (s.startCore c li l g r .detached).setWait die r 2
    | none => s
  else
    let s1 := s.killRecord die l r
    s1.setCore c { s1.core c with join := .exited, run := .running, launch := some li, record := r }

/-- A private-kind dome whose sixteen cores have exited becomes idle (R185), at once where all their records were invalid (R440). -/
def State.endPrivate (s : State) (dm : Nat) : State :=
  if (domeCores dm).all fun x => (s.core x).join = .exited then s.setDome dm { s.dome dm with run := .ending } else s

/-- A dome that takes a record starts it (R176, R177, R440). In a launch of private mode the record is the first of
sixteen, whatever its KIND; a private-kind record of another launch, or one that is woken in a launch of private mode, runs on core 0 alone
(log entry 17). -/
def State.startRecord (s : State) (dm li : Nat) (l : Launch) (r : BitVec 52) (initial : Bool) : State :=
  let die := dm / 12
  let c0 := coreAt dm 0
  let acq := s.acquire die
  if initial && l.priv then
    let s1 := acq.setDome dm ((acq.dome dm).fresh li .priv 0#64 0xFFFF#16)
    ((List.range 16).foldl (fun a x => a.startPrivate (coreAt dm x) li l (r + BitVec.ofNat 52 (64 * x))) s1).endPrivate dm
  else if !s.recValid die l r then s.killRecord die l r
  else match s.region? die l (recRegion (s.recWord die r 1)) with
  | none => s
  | some g =>
    if recKind (s.recWord die r 1) = 1 then
      let s1 := acq.setDome dm ((acq.dome dm).fresh li .priv 0#64 0xFFFF#16)
      let s2 := s1.startPrivate c0 li l r
      (List.range 15).foldl (fun a x =>
        let c := coreAt dm (x + 1)
        a.setCore c { a.core c with join := .exited, run := .running, launch := some li, record := r }) s2
    else
      let fe := s.recWord die r 0 &&& 0xFFFFFFFFFFFFF#64
      let s1 := acq.setDome dm ((acq.dome dm).fresh li (.dome r) fe 0#16)
      ((domeCores dm).foldl (fun a c => a.startCore c li l g r .attached) s1).setWait die r 2

/-- Every engine job of a dome has ended or parked (R186), and no load of its cores is in flight (R25). -/
def State.domeQuiet (s : State) (dm : Nat) : Bool :=
  (domeCores dm).all fun c =>
    ((s.eng c).jobs.all fun j => match j.2.st with | .parked _ => true | _ => false) && (s.core c).outs.all fun a => !a.isLoad

/-- The head of the highest non-empty level on a die, among the launches that hold a dome; on a tie of levels a launch
with PRE goes first (R187). -/
def State.bestReady (s : State) (dm : Nat) : Option Ready :=
  let mine := (s.die (dm / 12)).ready.filter fun e =>
    match s.launch? (some e.launch) with
    | some l => l.holds dm
    | none => false
  let pre (e : Ready) : Bool := match s.launch? (some e.launch) with | some l => l.pre | none => false
  mine.foldl (fun a e => match a with
    | none => some e
    | some b => if b.level < e.level || b.level = e.level && pre e && !pre b then some e else some b) none

/-- Remove the first entry equal to one. -/
def dropReady (e : Ready) : List Ready → List Ready
  | [] => []
  | x :: r => if x = e then r else x :: dropReady e r

/-- The cores of a dome leave a continuation that has ended: idle, in no launch (log entry 22). -/
def State.idleDome (s : State) (dm : Nat) : State :=
  let d := s.dome dm
  let s1 := s.setDome dm { Dome.reset with pending := d.pending, segs := d.segs, launch := d.launch, asked := d.asked }
  (domeCores dm).foldl (fun a c =>
    let x := a.core c
    a.setCore c { x.settle.noLatches with run := .idle, join := .detached, launch := none, next := 0#64,
                                          monitor := { x.monitor with armed := false, conf := false, codes := [] } }) s1

/-- A key of memory lies in a scratchpad bank that a launch reserves on dome `dm` (R181). -/
def Launch.reserves (l : Launch) (dm k : Nat) : Bool :=
  spKey 0 0 ≤ k && k < spKey 0 0 + 2 ^ 33 &&
    (let o := k - spKey 0 0
     domeKey (o / 2 ^ 22) = dm && domeOf (o / 2 ^ 22) < 12 && l.spm.getLsbD (o % 2 ^ 22 / 2 ^ 16))

/-- The banks that a launch reserves on a dome are cleared (R181): scratchpad banks and accumulator tiles with LOK (R282); the tag tables
are invalid (R200); the registers are cleared as each continuation starts (R11) (log entry 84). -/
def State.clearBanks (s : State) (dm : Nat) (l : Launch) : State :=
  let s1 := { s with mem := s.mem.filter fun c => !l.reserves dm c.1 }
  (domeCores dm).foldl (fun (a : State) c =>
    let x := a.core c
    a.setCore c { x with tags := [], eng := { x.eng with acc := x.eng.acc.filter fun w => !l.acc.getLsbD (w.1 / 4096),
                                                         lok := x.eng.lok &&& ~~~l.acc } }) s1

/-- The banks of a launch are clear on a dome before its record starts there (R425). -/
def State.readyBanks (s : State) (dm li : Nat) (l : Launch) : State :=
  if l.dirty.contains dm then
    let s1 := s.clearBanks dm l
    { s1 with launches := tabPut s1.launches li { l with dirty := l.dirty.filter (· ≠ dm) } }
  else s

/-- The QPOOL that the spill of a record's entry charges. -/
def State.readyPool (s : State) (die : Nat) (e : Ready) : Option Nat :=
  match s.launch? (some e.launch) with
  | none => none
  | some l => (s.region? die l (recRegion (s.recWord die e.record 1))).map Region.pool

/-- An entry of a ready queue that stood in its ring gives its 8 bytes back (R188) (log entry 79). -/
def State.unspill (s : State) (die : Nat) (e : Ready) : State :=
  if e.off then match s.readyPool die e with
    | some a => s.pool die a 8
    | none => s
  else s

/-- No lower-numbered dome of the die is idle too and may take the entry (R187). -/
def State.firstIdle (s : State) (dm : Nat) (e : Ready) : Bool :=
  (List.range (dm % 12)).all fun x =>
    let d := dm / 12 * 12 + x
    (s.dome d).run ≠ .idle || !(s.dome d).pending.isEmpty || (tabGet? s.victims d).isSome || s.bestReady d ≠ some e

/-- A dome that runs nothing, or whose continuation and its jobs have ended, takes the next record (R186, R187, R330). -/
def State.takeNext (s : State) (dm : Nat) : State :=
  let d := s.dome dm
  if (d.run = .idle || d.run = .ending && s.domeQuiet dm) && (tabGet? s.victims dm).isNone then
    let s1 := if d.run = .idle then s else s.idleDome dm
    match (s1.dome dm).pending with
    | (li, r) :: rest =>
      let s2 := s1.setDome dm { s1.dome dm with pending := rest }
      match s2.launch? (some li) with
      | some l => (s2.readyBanks dm li l).startRecord dm li l r true
      | none => s2
    | [] =>
      match s1.bestReady dm with
      | none => s1
      | some e =>
        if !s1.firstIdle dm e then s1
        else
        let die := dm / 12
        let x := s1.die die
        let s2 := (s1.setDie die { x with ready := dropReady e x.ready }).unspill die e
        match s2.launch? (some e.launch) with
        | some l => (s2.readyBanks dm e.launch l).startRecord dm e.launch l e.record false
        | none => s2
  else s

/-! ## Ending a continuation -/

/-- The deferral queue and the return-address store of a core are discarded, with what they have spilled, as its continuation ends (R110,
R168). -/
def State.dropDq (s : State) (c : Nat) : State :=
  s.setCore c { s.core c with dq := Vector.replicate 4 [], dqSpill := Vector.replicate 4 [], ras := [], rasSpill := 0 }

/-- SUSPEND or YIELD of a dome (R184): the cores drain, and the record takes core 0's registers; none while a ready queue has no room
(log entry 57). WAKEPEND is kept for the next SUSPEND (R189). -/
def State.suspend? (s : State) (dm : Nat) (yield : Bool) (next : Word) : Option State :=
  let d := s.dome dm
  match d.run with
  | .dome r =>
    let die := dm / 12
    let x := (s.core (coreAt dm 0)).settle
    let w1 := s.recWord die r 1
    let pred := (List.range 23).foldl (fun a i => if x.getP (BitVec.ofNat 5 (i + 1)) then a + 2 ^ i else a) 0
    let s0 := s.release die
    let s1 := s0.devPut die r.toNat 8 (next.toNat % 2 ^ 52)
    let s2 := s1.devPut die (r.toNat + 8) 8 (w1.toNat / 2 ^ 23 * 2 ^ 23 + pred)
    let s3 := (List.range 4).foldl (fun a i => a.devPut die (r.toNat + 16 + 8 * i) 8 (x.getS (BitVec.ofNat 6 (i + 1))).toNat) s2
    let s4 := s3.devPut die (r.toNat + 48) 8 (x.getS 63#6).toNat
    let again := yield || s4.wakePend die r
    let s5 := (if yield then s4 else s4.setPend die r false).setWait die r (if again then 1 else 3)
    let s6 := match d.launch, s5.launch? d.launch with
      | some li, some l => if again then s5.enqueue? die li l r else some s5
      | _, _ => some s5
    s6.map fun s => (domeCores dm).foldl (fun a c => a.dropDq c) (s.setDome dm { s.dome dm with run := .ending, barrier := none, open? := none })
  | _ => none

/-- A core has exited (R185): the record of the continuation that thereby ends reads EXITED and LIVE falls (log entry 22). Of a core that
a newcomer has left the victim alone stands there (CSTATE 3, log entry 20). -/
def State.exitCore (s : State) (c : Nat) : State :=
  let dm := domeKey c
  let die := dieOf c
  let x := s.core c
  let s1 := (s.dropDq c).setCore c
    { (s.dropDq c).core c with join := .exited, queue := [], own := [], run := if x.run = .newcomer then .preempted else x.run }
  let all := (domeCores dm).all fun x => (s1.core x).join = .exited
  let fin (s : State) (r : BitVec 52) : State :=
    let s := s.setWait die r 4
    match s.launch? (s.dome dm).launch with
    | some l => s.liveAdd die l (-1)
    | none => s
  match (s.dome dm).run with
  | .dome r => if all then (fin s1 r).setDome dm { (fin s1 r).dome dm with run := .ending } else s1
  | .priv =>
    (fin s1 (s.core c).record).endPrivate dm
  | _ => s1

/-- A ready entry rises to the tail of the next level; none where it stays, as its launch is gone or its spill finds no room. -/
def State.rise? (s : State) (die : Nat) (e : Ready) : Option State :=
  match s.launch? (some e.launch) with
  | none => none
  | some l =>
    let d := s.die die
    ((s.setDie die { d with ready := dropReady e d.ready }).unspill die e).enter? die e.launch l e.record (e.level + 1)

/-- The entry that has waited longest, when its 2^20 cycles have passed, rises to the tail of the next level, up to 6 (R187); one that is
held for want of room keeps no other back (R188). -/
def State.agingOf (s : State) (die : Nat) : State :=
  (((s.die die).ready.filter fun e => e.level < 6).findSome? fun e => s.rise? die e).getD s

/-- The oldest spilled entry of a ready queue returns on chip where there is room (R188). -/
def State.refillReady (s : State) (die li level : Nat) : State :=
  let d := s.die die
  let q := d.ready.filter fun e => e.launch = li && e.level = level
  if 512 ≤ q.countP (fun e => !e.off) then s
  else match q.find? Ready.off with
  | none => s
  | some e =>
    let s1 := s.unspill die e
    let y := s1.die die
    s1.setDie die { y with ready := y.ready.map fun x => if x = e then { e with off := false } else x }

end Sys2Proof.Machine
end

