-- ==== Sys2Proof/Machine/Access.lean ====
section
/-! DEFINITION. The memory events of a core (spec/09): which of them may be performed next (Table 9-3), what performing
does at the home, forwarding from the store buffer, and the completion of loads (spec/01 R21). -/

namespace Sys2Proof.Machine

/-! ## Kinds and attributes (Tables 9-1, 9-2) -/

def Access.isRmw (a : Access) : Bool := match a.kind with | .rmw .. => true | .sketch .. => true | _ => false
def Access.isWrite (a : Access) : Bool := match a.kind with | .write _ => true | .rmw .. => true | .sketch .. => true | _ => false
def Access.isRead (a : Access) : Bool := match a.kind with | .read .. => true | .query .. => true | _ => false

def Access.rel (a : Access) : Bool := a.isWrite && (a.ord = 3 || a.ord = 4 || a.ord = 5)
def Access.seq (a : Access) : Bool := a.ord = 5

/-- The homes of a query's counters and of every other access, as byte intervals. -/
def Access.places (a : Access) : List (Target × Nat) :=
  match a.kind with
  | .query _ _ rows _ _ _ _ _ => rows.map fun r => (.mem r.2, 4)
  | _ => [(a.tgt, a.n)]

def placesMeet (a b : Target × Nat) : Bool :=
  match a.1, b.1 with
  | .mem x, .mem y => x < y + b.2 && y < x + a.2
  | .remote r x, .remote q y => r = q && x.toNat < y.toNat + b.2 && y.toNat < x.toNat + a.2
  | .control d p o, .control e q u => d = e && p = q && o = u
  | .port l o, .port m u => l = m && o < u + b.2 && u < o + a.2
  | _, _ => false

def Access.meets (a b : Access) : Bool := a.places.any fun x => b.places.any fun y => placesMeet x y

/-- The 64-byte lines that an access touches at their homes. -/
def Access.lines (a : Access) : List Nat := a.places.filterMap fun p => match p.1 with | .mem k => some (k / 64) | _ => none

/-- An access that reads its bytes and may write nothing: a load, a query, or an ACAS whose compare may fail (Table 9-1). -/
def Access.mayRead (a : Access) : Bool := a.isRead || match a.kind with | .rmw (.cas _) _ _ => true | _ => false

def Access.inMem (a : Access) : Bool := match a.tgt with | .mem _ => true | _ => false

/-- A read takes the value of an own plain write of memory that stands before it unperformed (R227). -/
def Access.forwards (a b : Access) : Bool := b.isRead && !a.isLoad && !a.isRmw && a.inMem && b.inMem

/-- Remote accesses to one rank are performed in program order (R364). -/
def Access.sameRank (a b : Access) : Bool := match a.tgt, b.tgt with | .remote r _, .remote q _ => r = q | _, _ => false

def Access.isControl (a : Access) : Bool := match a.tgt with | .control .. => true | _ => false
def Access.isRemote (a : Access) : Bool := match a.tgt with | .remote .. => true | _ => false

/-- BASE of the sketch that an update or a query belongs to. -/
def Access.sketch? (a : Access) : Option Nat :=
  match a.kind with | .sketch _ b _ _ _ => some b | .query _ _ _ b _ _ _ _ => some b | _ => none

/-- An earlier access `a` that is not performed keeps a later one from being performed (R229, R235, R302, Table 9-3,
R232; control space is in program order, R318). A read of bytes that only a plain write of memory holds back is forwarded. -/
def Access.blocks (a b : Access) : Bool :=
  a.acq || b.rel || a.seq || b.seq || a.isControl || b.isControl || a.sameRank b ||
    a.meets b && !a.forwards b ||
    a.isRmw && b.mayRead && a.lines.any b.lines.contains ||
    b.isRead && b.sketch?.isSome && a.isRmw && a.sketch? = b.sketch?

/-- No acknowledgement of an earlier remote write is missing that an access waits for: a release or seq access of system scope, as every
remote one is (R364, R365), any access behind a remote seq one (R232), or an access of control space (R318). -/
def Core.acked (x : Core) (b : Access) : Bool :=
  x.posted.isEmpty || !x.fenced && !(b.rel && b.scope = 5) && !(b.seq && b.scope = 5) && !b.isControl

/-- Jobs of a core with numbers below `n` keep an EFENCE waiting (R219); an armed window does not. -/
def Core.jobsBefore (x : Core) (n : Nat) : Bool :=
  x.eng.jobs.any fun j => j.2.ord < n && !(j.2.kind = .xarm && j.2.st ≠ .waiting)

/-- The outstanding access `i` of a core may be performed (log entry 5). -/
def Core.mayPerform (x : Core) (i : Nat) (b : Access) : Bool :=
  ((x.outs.take i).all fun a => a.done.isSome || !a.blocks b) && x.acked b && !x.jobsBefore b.jobs

/-! ## Values -/

/-- Byte `k` of what the own unperformed writes before an access leave at it, latest first. -/
def ownByte (older : List Access) (k : Nat) : Option Nat :=
  older.reverse.findSome? fun a =>
    match a.kind, a.tgt, a.done with
    | .write x, .mem j, none => if j ≤ k && k < j + a.n then some ((x >>> (8 * (k - j))).toNat % 256) else none
    | _, _, _ => none

/-- Lay the own writes over a value read (R227, forwarding). -/
def overlay (older : List Access) (k x : Nat) : Nat → Nat
  | 0 => 0
  | n + 1 => ((ownByte older k).getD (x % 256)) + 256 * overlay older (k + 1) (x / 256) n

/-- The median of an odd number of integers: the value with as many below it as above. -/
def median (xs : List Int) : Int :=
  (xs.mergeSort (· ≤ ·)).getD (xs.length / 2) 0

/-- A query's result: the median scaled to FP32 (R296). -/
def queryRes (f mode draw : Nat) (xs : List Int) : Res :=
  let m := median xs
  roundDyad .f32 (Codes.engine mode 0) draw (m < 0) m.natAbs (-(f : Int))

/-! ## Performing -/

/-- A scope beyond the die: package or system. -/
def scopeWide (scope : Nat) : Bool := 4 ≤ scope

/-- The seq fences around a seq access at package or system scope (R232): the die's modified bytes go home and its copies are
dropped. -/
def State.seqFence (s : State) (d : Nat) (a : Access) : State :=
  if a.seq && scopeWide a.scope then (s.release d).acquire d else s

/-- What a release or seq access of package or system scope does before it is performed (R232, R354). -/
def State.fenceOut (s : State) (d : Nat) (a : Access) : State :=
  (if a.rel && scopeWide a.scope then s.release d else s).seqFence d a

/-- What an acquire or seq access of package or system scope does once it is performed (R232, R355). -/
def State.fenceIn (s : State) (d : Nat) (a : Access) : State :=
  (if a.acq && scopeWide a.scope then s.acquire d else s).seqFence d a

/-- A read as a core's agent: an acquire at package or system scope reads at the home and drops the die's copies (R355). -/
def State.readFor (s : State) (d : Nat) (a : Access) (k : Nat) : Nat × State :=
  if a.acq && scopeWide a.scope then
    let s1 := s.acquire d
    (s1.rd k a.n, s1)
  else
    let s1 := if s.eager || !foreign d k then s else s.fillCopy d k
    (s1.seen d k a.n, s1)

/-- One read of a query at its counter's home, the own writes that stand before it unperformed laid over it (R227, R301). -/
def State.queryRead (s : State) (d : Nat) (older : List Access) (r : Bool × Nat) : Int × State :=
  let s1 := s.flushLine d (r.2 / 64)
  ((if r.1 then -1 else 1) * toInt 32 (overlay older r.2 (s1.rd r.2 4) 4), s1)

/-- The given reads of a query, one after the other. -/
def State.queryReads (s : State) (d : Nat) (older : List Access) (rows : List (Bool × Nat)) : List Int × State :=
  rows.foldl (fun r w => let q := r.2.queryRead d older w; (r.1 ++ [q.1], q.2)) ([], s)

/-- What a query performs first: an acquire at package or system scope drops the die's copies (R355). -/
def State.queryFrom (s : State) (d : Nat) (a : Access) : State := if a.acq && scopeWide a.scope then s.acquire d else s

/-- Perform an access at its home, with the own writes that stand before it unperformed: the value read, the flags it
raises, and the state; none while a wake finds no room (R188), and for control space (`State.perform`). -/
def State.performPlain (s : State) (c : Nat) (older : List Access) (a : Access) : Option (BitVec 256 × State) :=
  let d := dieOf c
  let l := (s.core c).launch
  let s0 := s.fenceOut d a
  let note (s : State) : State := if a.space = 1 then s else s.notePage l (a.ea.toNat % 2 ^ 52)
  match a.kind, a.tgt with
  | .read _, .mem k =>
    let (x, s1) := s0.readFor d a k
    some (BitVec.ofNat 256 (overlay older k x a.n), s1)
  | .read _, .port p off => some (BitVec.ofNat 256 (s.portRead p off a.n a.whole), s0.fenceIn d a)
  | .write x, .mem k => some (0#256, (note (s0.putBy d k a.n x.toNat)).seqFence d a)
  | .write x, .port p off => (s0.portWrite? p off a.n a.whole (x.setWidth 64)).map fun t => (0#256, t.seqFence d a)
  | .rmw op b _, .mem k =>
    let s1 := if a.acq && scopeWide a.scope then s0.acquire d else s0
    let (old, s2) := s1.atomic d k a.n op b.toNat
    some (BitVec.ofNat 256 old, note (s1.keepFixed s2 k a.n))
  | .rmw _ _ _, .port p _ => (match s.launch? (some p) with
    | some q => some (0#256, (s0.dropAt d q.root.toNat).fenceIn d a)
    | none => some (0#256, s0.fenceIn d a))
  | .sketch q _ desc ev va, .mem k =>
    some (0#256, if q = 0 then s0.skStatusBy l va d desc ev else note (s0.skUpdateBy l va d k desc q ev))
  | .query _ _ rows _ f mode draw got, _ =>
    let q := (s.queryFrom d a).queryReads d older rows
    let r := queryRes f mode draw (got ++ q.1)
    some (BitVec.ofNat 256 (r.bits + r.fl.toNat * 2 ^ 32), q.2)
  | _, .control _ _ _ => none
  | _, _ => some (0#256, s)

/-- The outstanding access `i` of a core is gone; posted phaser commands and submitted jobs behind it wait for one less (R237, R249). -/
def Core.dropOut (x : Core) (i : Nat) : Core :=
  let q := x.eng.phq.map fun p => if i < p.before then { p with before := p.before - 1 } else p
  let js := x.eng.jobs.map fun j => (j.1, if i < j.2.behind then { j.2 with behind := j.2.behind - 1 } else j.2)
  { x with outs := x.outs.eraseIdx i, eng := { x.eng with phq := q, jobs := js } }

/-- The registers that a performed load writes as it completes. -/
def Access.writes (a : Access) (v : BitVec 256) : List Write :=
  match a.kind with
  | .read (.s r sg) => [.s r (if sg then BitVec.ofInt 64 (toInt (8 * a.n) v.toNat) else v.setWidth 64)]
  | .read (.v r pos) => [.v r (vOnes pos (8 * a.n)) (v.setWidth 1024 <<< pos)]
  | .rmw _ _ (some r) => [.s r (v.setWidth 64)]
  | .query r pos _ _ _ _ _ _ =>
    (.v r (vOnes pos 32) ((v.setWidth 32).setWidth 1024 <<< pos)) ::
      (if (v >>> 32).toNat = 0 then [] else [.flags (BitVec.ofNat 7 (v >>> 32).toNat)])
  | _ => []

/-- A load completes: its registers are written at once (R21). -/
def Core.complete (x : Core) (a : Access) (v : BitVec 256) : Core := (a.writes v).foldl Core.apply x

/-- The FN code of a read-modify-write (R209); 8 is compare-and-swap (R371) (log entry 36). -/
def Rmw.fn : Rmw → Nat
  | .add => 0 | .smin => 1 | .smax => 2 | .and => 3 | .or => 4 | .xor => 5 | .xchg => 6 | .fadd => 7 | .cas _ => 8

/-- The operand that the request carries: the new value of a compare-and-swap, whose compare value stands beside it. -/
def Rmw.operand (op : Rmw) (b : Word) : Word := match op with | .cas n => n | _ => b

/-- A remote access is sent, after the modified bytes of the die where it is a release (R354): the transport carries the request, and a
posted one is remembered with its flat address (log entry 39). -/
def State.sendRemote (s0 : State) (c : Nat) (a : Access) : State :=
  let s := s0.fenceOut (dieOf c) a
  match a.tgt with
  | .remote rank va =>
    let x := s.core c
    let bytes (v : BitVec 256) : List Byte := (List.range a.n).map fun i => (v >>> (8 * i)).setWidth 8
    let body : PacketBody := match a.kind with
      | .write v => .rma 1 (rank ++ va) a.n a.key (bytes v) 0 false 0#64
      | .rmw op b _ => .rma 2 (rank ++ va) a.n a.key (bytes ((op.operand b).setWidth 256)) op.fn (a.n = 4) b
      | _ => .rma 0 (rank ++ va) a.n a.key [] 0 false 0#64
    let q : OutPkt := { core := 4096 + c, ord := 0, entropy := 0, key := { target := false, peer := rank, mode := 1#2, sec := false, sdi := 0#12, pd := 0 },
                        body := body, bytes := a.n, resp := a.isLoad }
    let s1 := { s with outq := s.outq ++ [q] }
    if a.isLoad then s1
    else s1.setCore c { x with posted := x.posted ++ [rank ++ va],
                               fenced := a.seq && a.scope = 5 || x.fenced && !x.posted.isEmpty }
  | _ => s

/-- One of several reads that a query still lacks is performed, whichever a free value names (R302) (log entry 35); none where the
access is no query or lacks one read at most. -/
def State.queryStep (s : State) (c i : Nat) (a : Access) : Option State :=
  match a.kind with
  | .query r pos rows base f mode draw got =>
    if rows.length ≤ 1 then none
    else
      let n := s.fresh.1.toNat % rows.length
      let q := (s.fresh.2.queryFrom (dieOf c) a).queryRead (dieOf c) ((s.core c).outs.take i) (rows.getD n (false, 0))
      let y := q.2.core c
      some (q.2.setCore c { y with
        outs := y.outs.set i { a with kind := .query r pos (rows.eraseIdx n) base f mode draw (got ++ [q.1]) } })
  | _ => none

/-- Perform the outstanding access `i` of a core where Table 9-3 lets it be next; a load then waits for its completion,
any other access is gone (log entries 35 and 36). -/
def State.performAt (s : State) (c i : Nat) (f : State → Nat → List Access → Access → Option (BitVec 256 × State)) :
    Option State :=
  let x := s.core c
  match x.outs[i]? with
  | none => none
  | some a =>
    if a.done.isSome || !x.mayPerform i a then none
    else match s.queryStep c i a with
    | some t => some t
    | none =>
      let r := if a.isRemote then some (0#256, s.sendRemote c a) else f s c (x.outs.take i) a
      r.map fun r =>
        let y := r.2.core c
        if a.isLoad && !a.isRemote then r.2.setCore c { y with outs := y.outs.set i { a with done := some r.1 } }
        else r.2.setCore c (y.dropOut i)

/-- The performed load `i` of a core completes (R21). -/
def State.completeAt (s : State) (c i : Nat) : Option State :=
  let x := s.core c
  match x.outs[i]? with
  | none => none
  | some a =>
    match a.done with
    | none => none
    | some v => some (s.setCore c ((x.dropOut i).complete a v))

/-- How an access is performed: `State.performPlain`, or `State.perform` with control space. -/
abbrev Performer := State → Nat → List Access → Access → Option (BitVec 256 × State)

/-- The outstanding access `i` of a core goes one step on: it is performed, or completes. -/
def State.advance (s : State) (f : Performer) (c i : Nat) : Option State :=
  match (s.core c).outs[i]? with
  | none => none
  | some a => if a.done.isSome then s.completeAt c i else s.performAt c i f

/-- Perform and complete the outstanding accesses of a core from the `i`th on, in program order; one that may not be performed,
as a wake that finds no room, stays, and what does not wait for it goes on. `n` bounds the steps (log entry 5). -/
def State.drainFrom (s : State) (f : Performer) (c i : Nat) : Nat → State
  | 0 => s
  | n + 1 =>
    match (s.core c).outs[i]? with
    | none => s
    | some _ => match s.advance f c i with
      | some t => t.drainFrom f c i n
      | none => s.drainFrom f c (i + 1) n

/-- Enough steps for every outstanding access: a query takes one for each of its reads. -/
def Core.drainSteps (x : Core) : Nat := 10 * x.outs.length

/-- Perform and complete whatever a core has outstanding and may be performed. -/
def State.drainOutsBy (s : State) (f : Performer) (c : Nat) : State := s.drainFrom f c 0 (s.core c).drainSteps

/-- Whatever a core has outstanding is performed where it may be. -/
def State.drainOuts (s : State) (c : Nat) : State := s.drainOutsBy State.performPlain c

/-- Loads in flight complete (R25), with what a core has outstanding beside them. A core with no load in flight keeps
its store buffer (R239). -/
def State.drainLoads (s : State) (c : Nat) : State :=
  if (s.core c).outs.any Access.isLoad then s.drainOuts c else s

/-- No load of a core is in flight. -/
def State.landed (s : State) (c : Nat) : Bool := (s.core c).outs.all fun a => !a.isLoad

/-- The own accesses of the bundle in issue that may be performed now are, from the `i`th outstanding one on; loads among them
complete later (R15, R21). -/
def State.performOwn (s : State) (f : Performer) (i : Nat) : Nat → State
  | 0 => s
  | n + 1 =>
    match s.performAt s.cur i f with
    | none => s.performOwn f (i + 1) n
    | some t =>
      if t.me.outs.length < s.me.outs.length then
        ({ t with issue := { t.issue with mine := t.issue.mine - 1 } } : State).performOwn f i n
      else t.performOwn f (i + (if (t.me.outs[i]?).any fun a => a.done.isSome then 1 else 0)) n

/-- The accesses that earlier syllables of the bundle have issued are performed, where that may be. -/
def State.ownFirst (s : State) (f : Performer) : State := s.performOwn f s.before.length (10 * s.issue.mine)

/-- Issue memory events in element order (R223): performed at once in an eager state with nothing outstanding, where the
results of loads reach their registers at the end of the issue cycle; else outstanding (log entry 5). -/
def State.issueOne (s : State) (f : Performer) (a : Access) : State :=
  let c := s.cur
  let x := s.me
  let later : State :=
    { s.setMe { x with outs := x.outs ++ [a] } with issue := { s.issue with mine := s.issue.mine + 1 } }
  if s.eager && x.outs.isEmpty && x.acked a && !x.jobsBefore a.jobs then
    if a.isRemote then
      let t := s.sendRemote c a
      if a.isLoad then t else { t with issue := { t.issue with sent := t.issue.sent + 1 } }
    else match f s c [] a with
      | some (v, t) => (a.writes v).foldl (fun t w => t.post 1 w) t
      | none => later
  else later

end Sys2Proof.Machine
end

