-- ==== Sys2Proof/Machine/Debug.lean ====
section
/-! DEFINITION. Performance counters and trace records (spec/15 R337 to R347). -/

namespace Sys2Proof.Machine

/-! ## Performance counters (R345 to R347) -/

/-- The counters at the end of a cycle with the given occurrences, before the writes of the cycle are made: a counter that
is written in the cycle keeps the written value and signals nothing. A counter of L1 or micro-TLB misses, which the
architecture does not fix, counts a free number of them (log entry 7). -/
def Core.countEvents (x : Core) (evs : List Nat) (pc : Word) (free : Nat → Word) : Core :=
  (List.range 8).foldl (fun a n =>
    let ev := x.pmcEvent n
    if x.writesPmc n then a
    else if ev = 11 || ev = 12 then a.addPmc n (free n).toNat pc
    else a.addPmc n (evs.count ev) pc) x

/-! ## Trace records (R337 to R342) -/

/-- The ring that P0 and P1 of engine 7 describe: its address and LOGN; none where they are malformed. -/
def Engines.ring (e : Engines) : Option (Nat × Nat) :=
  let p0 := e.param 7 0
  let p1 := e.param 7 1
  if p0.toNat = 0 || fld p0 52 12 ≠ 0 || fld p0 0 6 ≠ 0 || fld p1 5 59 ≠ 0 || fld p1 0 5 < 4 || 20 < fld p1 0 5 then none
  else some (p0.toNat, fld p1 0 5)

/-- The home of an address of the ring, with what the core needs of its page (R324). -/
def State.ringKey? (s : State) (c : Nat) (n : Need) (va : Nat) : Option Nat :=
  match s.device (dieOf c) (isSup c) (s.launch? (s.core c).launch) n false (BitVec.ofNat 64 va) with
  | .ok (.mem k) => some k
  | _ => none

/-- The doublewords of a record (Table 15-1). -/
def TraceRec.words (r : TraceRec) (c : Nat) : List Word :=
  [BitVec.ofNat 64 (r.kind.toNat * 2 ^ 60 + r.pc.toNat), BitVec.ofNat 64 (r.sched.toNat * 2 ^ 32 + (coreIdOf c).toNat),
   r.cycle, r.data]

/-- The oldest queued record of a core is written to its ring, whose TAIL an atomic at its home counts (R211), or discarded and counted
(R337). -/
def State.traceWrite (s : State) (c : Nat) : State :=
  let x := s.core c
  match x.trace with
  | [] => s
  | r :: rest =>
    let s1 := s.setCore c { x with trace := rest }
    let lost := s1.happen c 16 x.next
    match x.eng.ring with
    | none => lost
    | some (base, logn) =>
      if !x.pmcCfg.getLsbD 61 then lost
      else match s.ringKey? c needRW base with
      | none => lost
      | some k0 =>
        let (tail, s2) := s1.atomic (dieOf c) k0 8 .add 1
        let va := base + 64 + 32 * (tail % 2 ^ logn)
        match s.ringKey? c needW va with
        | none => lost
        | some k =>
          (List.range 4).foldl (fun a i => a.put (dieOf c) (k + 8 * i) 8 ((r.words c).getD i 0#64).toNat)
            ((s2.notePage x.launch base).notePage x.launch va)

/-- Every queued record is performed (R342). -/
def State.traceAll (s : State) (c : Nat) : Nat → State
  | 0 => s
  | n + 1 => (s.traceWrite c).traceAll c n

end Sys2Proof.Machine
end

