-- ==== Sys2Proof/Machine/Supervisor.lean ====
section
/-! DEFINITION. Control space and the supervisor's commands (spec/14 R317 to R321, R325, R327, R328). -/

namespace Sys2Proof.Machine

/-! ## Stops -/

/-- The core stops at its boundary: waits end, it drains, latches become invalid, RESUMEPC names its next bundle (R312,
R320, R343). A core that waits for a remote answer keeps its wait and the answer, as the request is not sent again (R211). -/
def State.stopCore (s : State) (c : Nat) : State :=
  let s1 := s.drainLoads c
  let x := (s1.core c).endWait
  s1.setCore c { x.settle.noLatches with run := .stopped, resumePc := pcField x.next }

/-- BUDGET has reached 0 at the boundary before the bundle at `pc` (R315): the trap registers name it, INTRAP stays, and
the core stops with a record of KIND 2. -/
def State.budgetOut (s : State) (c : Nat) (pc : Word) : State :=
  let s1 := s.drainLoads c
  let x := (s1.core c).endWait.settle.noLatches
  (s1.setCore c { x with trapCause := 9#6, trapPc := pc, trapInfo := 0#64 }).forward c 9#6 0#64 pc

/-! ## KILL (R321) -/

/-- Every job of a core that has not ended is cancelled as TCANCEL does. -/
def State.cancelAll (s : State) (c : Nat) : State :=
  ((s.eng c).jobs.map Prod.fst).foldl (fun a slot => a.cancelJob c slot) s

/-- The state in which a core of a dome runs: CSTATE 4 while its dome holds a pre-empted victim. -/
def State.runState (s : State) (c : Nat) : RunState := if (tabGet? s.victims (domeKey c)).isSome then .newcomer else .running

/-- A core whose continuation is killed: its stores are performed, its jobs cancelled, its trace records written, and it runs no more; what
may not be performed yet, as a wake that finds no room, goes on to wait (R25, R188). -/
def State.killCore (s : State) (c : Nat) : State :=
  let s1 := ((s.drainOuts c).traceAll c 16).cancelAll c
  let x := s1.core c
  s1.setCore c { x.settle.noLatches with join := .exited, queue := [], own := [], wait := .none, answer := none, inTrap := false,
                                         run := if x.run = .idle || x.run = .preempted then x.run else s.runState c, parked := [] }

/-- KILLED is written into the record and LIVE falls. -/
def State.killedRecord (s : State) (dm : Nat) (r : BitVec 52) : State :=
  let s1 := s.setWait (dm / 12) r 5
  match s1.launch? (s1.dome dm).launch with
  | some l => s1.liveAdd (dm / 12) l (-1)
  | none => s1

/-- KILL of the continuation that the named core runs. -/
def State.kill (s : State) (c : Nat) : State :=
  let dm := domeKey c
  match (s.dome dm).run with
  | .idle => s
  | .ending => (domeCores dm).foldl (fun a x => a.cancelAll x) s
  | .dome r =>
    let s1 := ((domeCores dm).foldl (fun a x => a.killCore x) s).killedRecord dm r
    s1.setDome dm { s1.dome dm with run := .ending, barrier := none, open? := none }
  | .priv =>
    if (s.core c).join = .exited then s
    else
      let s1 := (s.killCore c).killedRecord dm (s.core c).record
      if (domeCores dm).all fun x => (s1.core x).join = .exited then s1.setDome dm { s1.dome dm with run := .ending } else s1

/-! ## Commands (R320) -/

def State.cmdStat (s : State) (c : Nat) (v : Nat) : State := s.setCore c { s.core c with cmdStat := BitVec.ofNat 8 v }

/-- Registers of bank `n` written back from a parked image, or saved: scalar, vector or predicate and mask (R205). -/
def Core.bankImage (x : Core) (n : Nat) : List VReg :=
  if n < 4 then (List.range 16).map fun i => (x.getS (BitVec.ofNat 6 (16 * n + i))).setWidth 1024
  else if n < 8 then (List.range 8).map fun i => x.getV (BitVec.ofNat 5 (8 * (n - 4) + i))
  else BitVec.ofNat 1024 ((List.range 24).foldl (fun a i => if x.getP (BitVec.ofNat 5 i) then a + 2 ^ i else a) 0) ::
    (List.range 8).map fun i => (x.getM (BitVec.ofNat 3 i)).setWidth 1024

def Core.putBank (x : Core) (n : Nat) (img : List VReg) : Core :=
  if n < 4 then
    (List.range 16).foldl (fun a i => a.setS (BitVec.ofNat 6 (16 * n + i)) ((img.getD i 0#1024).setWidth 64)) x
  else if n < 8 then
    (List.range 8).foldl (fun a i => a.setV (BitVec.ofNat 5 (8 * (n - 4) + i)) (BitVec.allOnes 1024) (img.getD i 0#1024)) x
  else
    let y := (List.range 24).foldl (fun a i => a.setP (BitVec.ofNat 5 i) ((img.getD 0 0#1024).getLsbD i)) x
    (List.range 8).foldl (fun a i =>
      a.setM (BitVec.ofNat 3 i) (BitVec.allOnes 128) ((img.getD (i + 1) 0#1024).setWidth 128)) y

/-- Parked banks return before the next bundle (R320). -/
def Core.unpark (x : Core) : Core :=
  { x.parked.foldl (fun (a : Core) p => a.putBank p.1 p.2.2) x with parked := [] }

/-- A core leaves the stream for an address of its own: its queue is discarded and it joins every detach set and is counted by event 8
(R156, R158) (log entries 25 and 34). -/
def State.detachTo (s : State) (c : Nat) (pc : Word) : State :=
  let x := s.core c
  let dm := domeKey c
  let d := s.dome dm
  let bit : BitVec 16 := BitVec.ofNat 16 (2 ^ coreIx c)
  let s1 := s.setDome dm { d with det := d.det.map (· ||| bit) }
  (s1.setCore c { x.settle.noLatches with join := .detached, next := pc, queue := [], own := [] }).happen c 8 pc

/-- A core that goes on elsewhere than at the bundle whose remote access it has sent takes no answer to it. -/
def Core.unask (x : Core) (at' pc : Word) : Core :=
  if at' = pc then x else { x with answer := none, wait := if x.wait = .remote then .none else x.wait }

/-- The core goes on at `pc`: attached where that is the head of its queue, as for RFT of a held core (R158); a
core that waited at a JOIN waits on where `pc` is still the bundle after it, and one that waited for a remote answer where `pc` is still
its bundle (log entry 34). -/
def State.goOn (s : State) (c : Nat) (pc : Word) : State :=
  let x0 := (s.core c).unask (s.core c).next pc
  let x := if x0.join = .waiting && x0.next ≠ pc then { x0 with join := .detached, wait := .none, waited := 0 } else x0
  let s1 := s.setCore c { x with run := s.runState c, next := pc }
  if x.join = .attached && (match x.queue with | q :: _ => q.addr ≠ pc | [] => x.next ≠ pc) then s1.detachTo c pc else s1

/-- RESUME (Table 14-5). -/
def State.resumeCore (s : State) (c : Nat) : State :=
  let x := (s.core c).unpark
  if x.run ≠ .stopped then s.cmdStat c 1
  else
    let s1 := (s.setCore c { x with cmdStat := 0#8 })
    if x.budget = 0#64 then s1.budgetOut c x.resumePc
    else if !x.arg.getLsbD 0 then s1.goOn c x.resumePc
    else if x.trapVec = 0#64 || x.inTrap || x.trapCause = 9#6 then s1.forward c x.trapCause x.trapInfo x.trapPc
    else
      s1.setCore c { x with cmdStat := 0#8, run := s.runState c, inTrap := true, next := x.trapVec,
                            join := match x.join with | .attached => .held | .waiting => .detached | j => j,
                            wait := x.wait.fencePart, waited := 0, answer := none }

/-- STOP: at once, or when the loads in flight have completed (R25, R343) (log entry 34). -/
def State.stopCmd (s : State) (c : Nat) : State :=
  if (s.core c).run = .running || (s.core c).run = .newcomer then
    let t := s.drainLoads c
    let x := t.core c
    let next : Option Wait := match x.wait with | .remote => none | .stop w => some w | w => some w
    match t.landed c, next with
    | false, some w => (t.setCore c { x with wait := .stop w }).cmdStat c 0
    | _, _ => (t.stopCore c).cmdStat c 0
  else s.cmdStat c 1

/-- Every job of a core of a victim is cancelled; a status area stands in the saves, which are discarded. -/
def State.cancelSaved (s : State) (c : Nat) (v : Core) : State :=
  let x := s.core c
  let e := { v.eng with jobs := v.eng.jobs.map fun (j : Nat × Job) => (j.1, { j.2 with status := none }) }
  ((s.setCore c { v with eng := e }).cancelAll c).setCore c x

/-- A record of a victim is killed. -/
def State.victimKilled (s : State) (dm : Nat) (v : Victim) (r : BitVec 52) : State :=
  let s1 := s.setWait (dm / 12) r 5
  match s1.launch? v.dome.launch with
  | some l => s1.liveAdd (dm / 12) l (-1)
  | none => s1

/-- The saves of a core's banks are discarded, and the banks that the newcomer has not claimed are free from now on: they read zero and
are cleared at its first access. -/
def State.dropSaves (s : State) (c : Nat) : State :=
  let x := s.core c
  let gone (k : Nat) : Bool := (List.range 64).any fun b =>
    x.smSpm.getLsbD b && imgKey c (b * 2 ^ 16) ≤ k && k < imgKey c (b * 2 ^ 16) + 2 ^ 16 ||
      x.owedSpm.getLsbD b && spKey c (b * 2 ^ 16) ≤ k && k < spKey c (b * 2 ^ 16) + 2 ^ 16
  ({ s with mem := s.mem.filter fun m => !gone m.1 } : State).setCore c
    { x with smReg := 0#9, smAcc := 0#32, smSpm := 0#64, owedReg := 0#9, owedSpm := 0#64, owedAcc := 0#32,
             freshSpm := x.freshSpm ||| x.owedSpm, freshAcc := x.freshAcc ||| x.owedAcc,
             run := if x.run = .preempted then .idle else x.run }

/-- KILL of a pre-empted victim (R334): its saves are discarded and the reserve credited; a newcomer runs on (log entry 20). -/
def State.killVictim (s : State) (dm : Nat) : State :=
  match tabGet? s.victims dm with
  | none => s
  | some v =>
    let s1 := v.cores.foldl (fun a e => a.cancelSaved e.1 e.2) s
    let s2 := match v.dome.run with
      | .dome r => s1.victimKilled dm v r
      | .priv => v.cores.foldl (fun (a : State) (e : Nat × Core) =>
          if e.2.join = JoinState.exited then a else a.victimKilled dm v e.2.record) s1
      | _ => s1
    let s3 := if v.rcb = 0 then s2 else s2.pool (dm / 12) v.rcb (v.bytes : Nat)
    let s4 := (domeCores dm).foldl (fun a c => a.dropSaves c) s3
    { s4 with victims := tabDel s4.victims dm }

/-- KILL: a core in CSTATE 3 names the victim of its dome, any other the continuation that runs there (log entry 20). -/
def State.killCmd (s : State) (c : Nat) : State :=
  match (s.core c).run with
  | .idle => s.cmdStat c 1
  | .preempted => (s.killVictim (domeKey c)).cmdStat c 0
  | _ => (s.kill c).cmdStat c 0

/-- A record is known to a launch: one of its initial records, one in its ready queues, or one that a core runs for it. -/
def State.knows (s : State) (li : Nat) (l : Launch) (r : BitVec 52) : Bool :=
  l.entries.toNat ≤ r.toNat && r.toNat < l.entries.toNat + 64 * (l.height * l.width * (if l.priv then 16 else 1)) ||
    (s.dies.any fun d => d.2.ready.any fun e => e.launch = li && e.record = r) ||
    s.cores.any fun x => x.2.launch = some li && x.2.record = r

/-- The launch that a newcomer's record may belong to: a supervisor launch, or one admitted with PRE over the dome. A record known to
another launch alone belongs to no such launch (R328) (log entry 62). -/
def State.newcomerOf (s : State) (dm : Nat) (r : BitVec 52) : Option (Nat × Launch) :=
  let taken := s.launches.any fun m => s.knows m.1 m.2 r
  s.launches.find? fun l =>
    (l.2.sup || l.2.pre && l.2.holds dm) && s.recValid (dm / 12) l.2 r && (s.knows l.1 l.2 r || !taken)

/-- PREEMPT (R328): refused, or accepted with the save reserve taken from the victim region's QPOOL. -/
def State.preemptCmd (s : State) (c : Nat) : State :=
  let dm := domeKey c
  let die := dm / 12
  let x := s.core c
  let d := s.dome dm
  let r : BitVec 52 := x.arg.setWidth 52
  if x.run = .idle || (tabGet? s.victims dm).isSome || d.asked.isSome then s.cmdStat c 1
  else match s.newcomerOf dm r, s.launch? x.launch with
  | some (li, l), some _ =>
    match s.region? die l (recRegion (s.recWord die r 1)), x.region with
    | some g, some v =>
      let need := 2 ^ 16 * bitsOf v.spm.toNat 64 + 2 ^ 14 * bitsOf v.acc.toNat 32 + 448 * 1024
      if g.reg.getLsbD 0 && g.reg.getLsbD 3 && g.reg.getLsbD 8 && need ≤ s.dev die v.pool 8 then
        let s1 := s.pool die v.pool (-(need : Int))
        (s1.setDome dm { s1.dome dm with asked := some (r, li, c) }).cmdStat c 0
      else s.cmdStat c 2
    | _, _ => s.cmdStat c 2
  | _, _ => s.cmdStat c 2

/-- JOBRESUME (R327): the job goes on at its boundary, and walks again there. -/
def State.jobResume (s : State) (c slot : Nat) : State :=
  match s.job? c slot with
  | some j => match j.st with
    | .parked _ => (s.setJob c slot { j with st := .running }).cmdStat c 0
    | _ => s.cmdStat c 3
  | none => s.cmdStat c 3

/-- JOBKILL (R327): CODE 3 with FCAUSE XLATE. -/
def State.jobKill (s : State) (c slot : Nat) : State :=
  match s.job? c slot with
  | some j => match j.st with
    | .parked _ => (s.endJob c slot 3 cXLATE).cmdStat c 0
    | _ => s.cmdStat c 3
  | none => s.cmdStat c 3

/-- PARK (R205): a stopped core, in start-up, which lasts until the domes are released, or in test or recovery, which a free value tells;
refused where a launch holds the tile (log entry 104). -/
def State.parkCmd (s0 : State) (c : Nat) : State :=
  let s : State := { s0 with freeCtr := s0.freeCtr + 1 }
  let x := s.core c
  let bank := fld x.arg 0 4
  let tile := fld x.arg 8 5
  if x.run ≠ .stopped || s.root.released && !Config.inRecovery s0.freeCtr then s.cmdStat c 1
  else if 8 < bank then s.cmdStat c 3
  else if s.launches.any fun l => l.2.holds (domeKey c) && l.2.acc.getLsbD tile then s.cmdStat c 2
  else
    let saved := (x.parked.filter fun p => p.1 ≠ bank) ++ [(bank, tile, x.bankImage bank)]
    s.setCore c { x with cmdStat := 0#8, parked := saved }

/-- A write of CMD (log entry 31). -/
def State.command (s : State) (c : Nat) (v : Word) : State :=
  let slot := fld v 8 6
  match fld v 0 4 with
  | 1 => s.resumeCore c
  | 2 => s.killCmd c
  | 3 => s.stopCmd c
  | 4 => s.preemptCmd c
  | 5 => s.jobResume c slot
  | 6 => s.jobKill c slot
  | 7 => s.parkCmd c
  | _ => s.cmdStat c 3

/-! ## Control pages (R318, R319) -/

/-- The core of a core control block. -/
def pageCore (die page : Nat) : Nat := coreAt (12 * die + (page - 1) / 16) ((page - 1) % 16)

/-- CSTATE (log entries 20 and 22). -/
def RunState.code : RunState → Nat
  | .idle => 0 | .running => 1 | .stopped => 2 | .preempted => 3 | .newcomer => 4 | .halted => 2

/-- Register images are shown and written in these states. -/
def Core.shown (x : Core) : Bool := x.run = .stopped || x.run = .preempted

/-- The saved registers of a pre-empted core (log entry 20). -/
def State.savedCore? (s : State) (c : Nat) : Option Core :=
  if (s.core c).run = .preempted then (tabGet? s.victims (domeKey c)).bind fun v => tabGet? v.cores c else none

/-- The dome of a pre-empted core as its victim left it; CYCLE and BUNDLES are the cores' own and go on. -/
def State.victimView (s : State) (dm : Nat) : State :=
  match tabGet? s.victims dm with
  | none => s
  | some v => v.cores.foldl (fun (a : State) e => a.setCore e.1 { e.2 with cycle := (s.core e.1).cycle, bundles := (s.core e.1).bundles })
      (s.setDome dm v.dome)

/-- A read of the image of control register `n` (R319). -/
def State.imageRead (s : State) (c n : Nat) : Word :=
  match s.savedCore? c with
  | some _ => (s.victimView (domeKey c)).readCr c n
  | none => if (s.core c).shown then s.readCr c n else 0#64

/-- A read of control space; a write-only register gives a free value (log entries 7 and 31). -/
def State.controlRead (s : State) (die page off : Nat) : Word × State :=
  let d := s.die die
  let c := pageCore die page
  let x := s.core c
  let v (n : Nat) : Word × State := (BitVec.ofNat 64 n, s)
  if page = 0 then
    match off with
    | 0x00 => v d.ttRoot.toNat
    | 0x08 => v d.sqBase.toNat
    | 0x10 => v d.sqSize.toNat
    | 0x18 => v d.sqHead.toNat
    | 0x20 => v d.sqTail.toNat
    | 0x28 => v d.tlbiVa.toNat
    | 0x30 => v d.tlbiSize.toNat
    | 0x38 => s.fresh
    | _ => v d.tlbiDone.toNat
  else if off ≤ 0x110 then (s.imageRead c (off / 8), s)
  else
    match off with
    | 0x200 => s.fresh
    | 0x208 => (x.arg, s)
    | 0x210 => v x.run.code
    | 0x218 => v x.cmdStat.toNat
    | 0x220 => v x.smReg.toNat
    | 0x228 => v x.smAcc.toNat
    | 0x230 => (x.smSpm, s)
    | 0x238 => v (x.parked.foldl (fun a p => a ||| 2 ^ p.1) 0 + (x.parked.getLast?.map fun p => p.2.1 * 2 ^ 40).getD 0)
    | _ => (if x.run = .stopped then x.resumePc else 0#64, s)

/-- A register without behaviour of its own is written (R318, R319); a reserved value leaves its field. -/
def State.plainWrite (s : State) (die off : Nat) (v : Word) : State :=
  let d := s.die die
  match off with
  | 0x00 => s.setDie die { d with ttRoot := v.setWidth 52 &&& ~~~0xFFFF#52 }
  | 0x08 => s.setDie die { d with sqBase := v.setWidth 40 &&& ~~~0xFFF#40 }
  | 0x10 => if 6 ≤ fld v 0 5 && fld v 0 5 ≤ 16 then s.setDie die { d with sqSize := v.setWidth 5 } else s
  | 0x18 => s.setDie die { d with sqHead := v.setWidth 32 }
  | 0x28 => s.setDie die { d with tlbiVa := v.setWidth 52 &&& ~~~0xFFF#52 }
  | 0x30 => if 12 ≤ fld v 0 6 && fld v 0 6 ≤ 52 then s.setDie die { d with tlbiSize := v.setWidth 6 } else s
  | _ => s

/-- A store to TLBICMD (R325): discarded where reserved; none while eight commands are queued (log entry 31). -/
def State.shoot? (s : State) (die : Nat) (v : Word) : Option State :=
  let d := s.die die
  if v.toNat / 2 ^ 14 ≠ 0 || fld v 0 3 = 0 || 4 < fld v 0 3 then some s
  else if 8 ≤ d.tlbiQ.length then none
  else
    let e : Shootdown := { scope := v.setWidth 3, core := v.extractLsb' 3 11, va := d.tlbiVa, size := d.tlbiSize }
    some (s.setDie die { d with tlbiQ := d.tlbiQ ++ [e] })

/-- A write to the image of control register `n` (R319). -/
def State.imageWrite (s : State) (c n : Nat) (v : Word) : State :=
  let x := s.core c
  match s.savedCore? c, tabGet? s.victims (domeKey c) with
  | some y, some w => { s with victims := tabPut s.victims (domeKey c) { w with cores := tabPut w.cores c (y.writeCr n v) } }
  | _, _ => if x.shown then s.setCore c (x.writeCr n v) else s

/-- A write of control space; none while a shootdown waits for room (log entry 31). -/
def State.controlWrite? (s : State) (die page off : Nat) (v : Word) : Option State :=
  let c := pageCore die page
  let x := s.core c
  if page = 0 then if off = 0x38 then s.shoot? die v else some (s.plainWrite die off v)
  else if off ≤ 0x110 then some (s.imageWrite c (off / 8) v)
  else if off = 0x200 then some (s.command c v)
  else if off = 0x208 then some (s.setCore c { x with arg := v })
  else if off = 0x240 && x.run = .stopped then some (s.setCore c { x with resumePc := v &&& 0xFFFFFFFFFFFFC#64 })
  else some s

/-- Perform an access, control space included (R318). -/
def State.perform (s : State) (c : Nat) (older : List Access) (a : Access) : Option (BitVec 256 × State) :=
  match a.tgt, a.kind with
  | .control die page off, .read _ => let (v, t) := s.controlRead die page off; some (v.setWidth 256, t)
  | .control die page off, .write x => (s.controlWrite? die page off (x.setWidth 64)).map fun t => (0#256, t)
  | _, _ => s.performPlain c older a

/-! ## Shootdowns and records -/

/-- An entry maps an address of the range; one of a group maps all of its 64 KiB (R323, R325) (log entry 24). -/
def Shootdown.hits (q : Shootdown) (e : TlbEntry) : Bool :=
  let lo := if e.group then e.va / 2 ^ 16 * 2 ^ 16 else e.va
  let n := if e.group then 2 ^ 16 else e.size
  lo < q.va.toNat + 2 ^ q.size.toNat && q.va.toNat < lo + n

/-- A core lies in the scope of a shootdown that a die has queued. -/
def Shootdown.covers (q : Shootdown) (die c : Nat) : Bool :=
  if q.scope = 4#3 then true else if q.scope = 3#3 then dieOf c = die
  else if q.scope = 2#3 then domeKey c = domeKey q.core.toNat && isSup c = isSup q.core.toNat else coreIdOf c = q.core

/-- The entry that serves an address of a die now: a cached one, else what a walk finds. -/
def State.entryOf (s : State) (die va : Nat) : Option TlbEntry :=
  ((s.die die).tlb.find? fun t => t.va ≤ va && va < t.va + t.size) <|> s.walk die va

/-- An access of core `c` that is not performed has used an entry that maps an address of the range (R325), a query for its counters too,
whose addresses it does not keep (log entry 24). -/
def State.waitsFor (s : State) (q : Shootdown) (c : Nat) (a : Access) : Bool :=
  let va := a.ea.toNat % 2 ^ 52
  let maps (v : Nat) : Bool := match s.entryOf (dieOf c) v with | some e => q.hits e | none => false
  a.done.isNone && a.space ≠ 1 && !a.isRemote &&
    ((match a.kind with | .query .. => true | _ => false) ||
      va < q.va.toNat + 2 ^ q.size.toNat && q.va.toNat < va + a.n || maps va || maps (va + (a.n - 1)))

/-- The dies whose translation caches a shootdown reaches: the package, or the die of the target or of the command (log entry 24). -/
def Shootdown.dies (q : Shootdown) (die : Nat) : List Nat :=
  if q.scope = 4#3 then List.range 8 else if q.scope = 3#3 then [die] else [q.core.toNat % 8]

/-- The oldest shootdown of a die completes: no cache in its scope holds an entry it hits, and every access that used one is performed
(R325) (log entry 24). -/
def State.shootDone (s : State) (die : Nat) : State :=
  let d := s.die die
  match d.tlbiQ with
  | [] => s
  | q :: r =>
    if s.cores.any fun x => q.covers die x.1 && x.2.outs.any (s.waitsFor q x.1) then s
    else
    let s1 := (q.dies die).foldl (fun a x =>
      let y := a.die x
      a.setDie x { y with tlb := y.tlb.filter fun e => !q.hits e }) s
    let y := s1.die die
    s1.setDie die { y with tlbiQ := r, tlbiDone := y.tlbiDone + 1#32 }

/-- The oldest pending record of a die is written to its ring, and SQTAIL advanced, where the ring has room (R317). -/
def State.writeRecord (s : State) (die : Nat) : State :=
  let d := s.die die
  match d.records with
  | [] => s
  | r :: rest =>
    let size := 2 ^ d.sqSize.toNat
    if (d.sqTail - d.sqHead).toNat = size then s
    else
      let k := d.sqBase.toNat + 64 * (d.sqTail.toNat % size)
      let ws := r.words ++ [d.sqTail.setWidth 64]
      let s1 := (List.range 8).foldl (fun a i => a.store (k + 8 * i) 8 (ws.getD i 0#64).toNat) s
      let y := s1.die die
      s1.setDie die { y with records := rest, sqTail := y.sqTail + 1#32 }

end Sys2Proof.Machine
end

