-- ==== Sys2Proof/Machine/ScalarFp.lean ====
section
/-! DEFINITION. The scalar floating-point instructions and conversions (spec/04 R102 to R105). -/

namespace Sys2Proof.Machine

/-- The scalar codes: the saturation code has no bearing (R102). -/
def State.fpCodes (s : State) : Codes := { s.codes with sat := 0 }

/-- The bits of a source that a format reads (R90). -/
def srcBits (f : Nf) (x : Word) : Nat := x.toNat % 2 ^ f.width

/-- A floating result of `l` issue cycles with its flags (R81, R90); `rounds` says whether it is a rounded result, which
draws under SR (R72). -/
def fpRes (fs : List (BitVec 7)) (w : Bool) (d : BitVec 6) (l : Nat) (rounds : Bool) (c : Codes) (s : State)
    (k : Nat → Res) : Out :=
  let s1 := s.noteLatches fs
  let dr := if rounds then s1.drawIf c else (0, s1)
  let r := k dr.1
  .next ((dr.2.putS w d l (BitVec.ofNat 64 r.bits)).postFlags l r.fl)

/-- FADD, FSUB, FMUL, FDIV. -/
def fp2 (f : Nf) (op : FOp) (l : Nat) (o : S3) (s : State) : Out :=
  guarded o.gw (srcReg o.a ++ srcReg o.b ++ dstReg o.w o.d) s fun s =>
    let c := s.fpCodes
    fpRes [o.a, o.b] o.w o.d l true c s fun r => fop op f c r (srcBits f (s.me.src o.a)) (srcBits f (s.me.src o.b))

/-- FMIN, FMAX: nothing is rounded. -/
def fpMm (f : Nf) (isMin : Bool) (l : Nat) (o : S3) (s : State) : Out :=
  guarded o.gw (srcReg o.a ++ srcReg o.b ++ dstReg o.w o.d) s fun s =>
    let c := s.fpCodes
    fpRes [o.a, o.b] o.w o.d l false c s fun _ => minMax f c isMin (srcBits f (s.me.src o.a)) (srcBits f (s.me.src o.b))

def fpSqrt (f : Nf) (l : Nat) (o : S3) (s : State) : Out :=
  guarded o.gw (srcReg o.a ++ dstReg o.w o.d) s fun s =>
    let c := s.fpCodes
    fpRes [o.a] o.w o.d l true c s fun r => fsqrt f c r (srcBits f (s.me.src o.a))

/-- FABS clears the sign bit and sets no flag. -/
def fpAbs (f : Nf) (l : Nat) (o : S3) (s : State) : Out :=
  guarded o.gw (srcReg o.a ++ dstReg o.w o.d) s fun s =>
    .next ((s.noteLatches [o.a]).putS o.w o.d l (BitVec.ofNat 64 (srcBits f (s.me.src o.a) % 2 ^ (f.width - 1))))

/-- FMA, FMS, FNMA, FNMS (R103): `np` negates the product, `nc` the addend. -/
def fpFma (f : Nf) (np nc : Bool) (l : Nat) (o : S3X) (s : State) : Out :=
  guarded (some o.g) (srcReg o.a ++ srcReg o.b ++ srcReg o.c ++ dstReg o.w o.d) s fun s =>
    let c := s.fpCodes
    let x := s.me
    fpRes [o.a, o.b, o.c] o.w o.d l true c s fun r =>
      ffma f c r np nc (srcBits f (x.src o.a)) (srcBits f (x.src o.b)) (srcBits f (x.src o.c))

/-- FEQ, FLT, FLE, FUN (R104), of latency 4; `any` makes every NaN set NV. -/
def fpCmp (f : Nf) (any : Bool) (k : Option Ordering → Bool) (o : S3) (s : State) : Out :=
  guarded o.gw (srcReg o.a ++ srcReg o.b ++ dstPred o.w) s fun s =>
    let r := fcmp f s.codes.ftz any (srcBits f (s.me.src o.a)) (srcBits f (s.me.src o.b))
    .next (((s.noteLatches [o.a, o.b]).putP o.w o.d 4 (k r.1)).postFlags 4 r.2)

/-- CVT (R105): a conversion to a wider format of the same kind is exact, draws nothing and takes no saturation. -/
def fpCvt (src dst : Nf) (o : S3) (s : State) : Out :=
  guarded o.gw (srcReg o.a ++ dstReg o.w o.d) s fun s =>
    let c := if widens src dst then { s.codes with sat := 0 } else s.codes
    fpRes [o.a] o.w o.d 4 (!widens src dst) c s fun r => convert src dst c r (srcBits src (s.me.src o.a))

def execFaddS (o : S3) (s : State) : Out := fp2 .f32 .add 4 o s
def execFsubS (o : S3) (s : State) : Out := fp2 .f32 .sub 4 o s
def execFmulS (o : S3) (s : State) : Out := fp2 .f32 .mul 4 o s
def execFdivS (o : S3) (s : State) : Out := fp2 .f32 .div 12 o s
def execFminS (o : S3) (s : State) : Out := fpMm .f32 true 4 o s
def execFmaxS (o : S3) (s : State) : Out := fpMm .f32 false 4 o s
def execFsqrtS (o : S3) (s : State) : Out := fpSqrt .f32 12 o s
def execFabsS (o : S3) (s : State) : Out := fpAbs .f32 4 o s
def execFmaS (o : S3X) (s : State) : Out := fpFma .f32 false false 4 o s
def execFmsS (o : S3X) (s : State) : Out := fpFma .f32 false true 4 o s
def execFnmaS (o : S3X) (s : State) : Out := fpFma .f32 true false 4 o s
def execFnmsS (o : S3X) (s : State) : Out := fpFma .f32 true true 4 o s
def execFeqS (o : S3) (s : State) : Out := fpCmp .f32 false (· == some .eq) o s
def execFltS (o : S3) (s : State) : Out := fpCmp .f32 true (· == some .lt) o s
def execFleS (o : S3) (s : State) : Out := fpCmp .f32 true (fun r => r == some .lt || r == some .eq) o s
def execFunS (o : S3) (s : State) : Out := fpCmp .f32 false Option.isNone o s

def execFaddD (o : S3) (s : State) : Out := fp2 .f64 .add 6 o s
def execFsubD (o : S3) (s : State) : Out := fp2 .f64 .sub 6 o s
def execFmulD (o : S3) (s : State) : Out := fp2 .f64 .mul 6 o s
def execFdivD (o : S3) (s : State) : Out := fp2 .f64 .div 20 o s
def execFminD (o : S3) (s : State) : Out := fpMm .f64 true 6 o s
def execFmaxD (o : S3) (s : State) : Out := fpMm .f64 false 6 o s
def execFsqrtD (o : S3) (s : State) : Out := fpSqrt .f64 20 o s
def execFabsD (o : S3) (s : State) : Out := fpAbs .f64 6 o s
def execFmaD (o : S3X) (s : State) : Out := fpFma .f64 false false 6 o s
def execFmsD (o : S3X) (s : State) : Out := fpFma .f64 false true 6 o s
def execFnmaD (o : S3X) (s : State) : Out := fpFma .f64 true false 6 o s
def execFnmsD (o : S3X) (s : State) : Out := fpFma .f64 true true 6 o s
def execFeqD (o : S3) (s : State) : Out := fpCmp .f64 false (· == some .eq) o s
def execFltD (o : S3) (s : State) : Out := fpCmp .f64 true (· == some .lt) o s
def execFleD (o : S3) (s : State) : Out := fpCmp .f64 true (fun r => r == some .lt || r == some .eq) o s
def execFunD (o : S3) (s : State) : Out := fpCmp .f64 false Option.isNone o s

def execCvtSD (o : S3) (s : State) : Out := fpCvt .f64 .f32 o s
def execCvtDS (o : S3) (s : State) : Out := fpCvt .f32 .f64 o s
def execCvtSL (o : S3) (s : State) : Out := fpCvt (.sint 64) .f32 o s
def execCvtSLu (o : S3) (s : State) : Out := fpCvt (.uint 64) .f32 o s
def execCvtDL (o : S3) (s : State) : Out := fpCvt (.sint 64) .f64 o s
def execCvtDLu (o : S3) (s : State) : Out := fpCvt (.uint 64) .f64 o s
def execCvtLS (o : S3) (s : State) : Out := fpCvt .f32 (.sint 64) o s
def execCvtLuS (o : S3) (s : State) : Out := fpCvt .f32 (.uint 64) o s
def execCvtLD (o : S3) (s : State) : Out := fpCvt .f64 (.sint 64) o s
def execCvtLuD (o : S3) (s : State) : Out := fpCvt .f64 (.uint 64) o s
def execCvtHS (o : S3) (s : State) : Out := fpCvt .f32 .f16 o s
def execCvtSH (o : S3) (s : State) : Out := fpCvt .f16 .f32 o s

end Sys2Proof.Machine
end

