-- ==== Sys2Proof/Machine/Vector.lean ====
section
/-! DEFINITION. The vector instructions (spec/05 R123 to R146): type checks, element-wise operations, compares,
reductions, permutes, masks, conversion and quantisation. -/

namespace Sys2Proof.Machine

/-! ## Type-dependent encoding faults (R127, Table 5-2) -/

/-- Width of a quantisation format code. -/
def qBits (qf : Nat) : Nat := (Nf.ofCode qf).width

/-- The number of elements of a syllable of effective type `t`. -/
def vLanes (wd : BitVec 2) (t : Nat) : Nat := vWidth wd / elBits t

def rsvIf (c : Bool) : Option (BitVec 6) := if c then some cILLRSV else none
def opIf (c : Bool) : Option (BitVec 6) := if c then some cILLOP else none

/-- The fault of a vector syllable whose effective type is `t` and whose quantisation format is `qf` (R127, R141, R144,
R297). -/
def typeFaultOf (i : Instr) (t qf : Nat) : Option (BitVec 6) :=
  match i with
  | .vmul _ | .vmin _ | .vmax _ | .vabs _ | .vlt _ | .vle _ | .vgt _ | .vge _ | .vrmax _ | .vrmin _ => opIf (isCplx t)
  | .vsll _ | .vsrl _ | .vsra _ => opIf (isCplx t)
  | .vmulh _ => opIf (!isIntT t)
  | .vfma _ | .vfms _ | .vfnma _ | .vfnms _ | .vrcp _ | .vrsq _ | .vexp2 _ | .vlog2 _ | .vmaxexp _ => opIf (!isFloat t)
  | .vcmul _ | .vcmulj _ | .vcfma _ => opIf (!isCplx t)
  | .skupdv _ | .skqryv _ => opIf (t ≠ 0)
  | .vslideu o | .vslided o => rsvIf (vLanes o.wd t ≤ (vx o).x8.toNat)
  | .vmovToScalar o => rsvIf (vLanes o.wd t ≤ (vx o).x8.toNat % 128)
  | .vbcst o => rsvIf (vLanes o.wd t ≤ (vx o).x8.toNat % 128)
  | .vcvt o =>
    let d := (vx o).x8.toNat % 16
    if 8 ≤ d then some cILLRSV
    else if isCplx t != isCplx d then some cILLOP
    else
      let a := elBits t
      let b := elBits d
      rsvIf (max a b / min a b ≤ (vx o).x8.toNat / 16 % 4)
  | .vcvtq o | .vdq o =>
    if !isFloat t then some cILLOP else rsvIf (elBits t < ((vx o).x8.toNat % 4 + 1) * qBits qf)
  | _ => none

/-- The FMTO field of a vector syllable; 0 where it has none. -/
def fmtoOf (i : Instr) : BitVec 4 :=
  match i with
  | .vmul o | .vmin o | .vmax o | .vabs o | .vlt o | .vle o | .vgt o | .vge o | .vrmax o | .vrmin o => (vx o).fmto
  | .vsll o | .vsrl o | .vsra o | .vmulh o | .vfma o | .vfms o | .vfnma o | .vfnms o => (vx o).fmto
  | .vrcp o | .vrsq o | .vexp2 o | .vlog2 o | .vmaxexp o | .vcmul o | .vcmulj o | .vcfma o => (vx o).fmto
  | .skupdv o | .skqryv o | .vslideu o | .vslided o | .vmovToScalar o | .vbcst o | .vcvt o | .vcvtq o | .vdq o =>
    (vx o).fmto
  | _ => 0#4

/-- The type-dependent fault of a syllable on the current core. -/
def State.typeFault (s : State) (i : Instr) : Option (BitVec 6) :=
  typeFaultOf i (s.elType (fmtoOf i)) s.me.fmtQf

/-- A vector syllable that no mask governs (R137, R146): its type fault whatever its guard (R127), and then the checks of every guarded
syllable. Its mask field is not read and names no register that it uses. -/
def vecPlain (i : Instr) (o : Vec) (rs : List Reg) (s : State) (k : State → Out) : Out :=
  match s.typeFault i with
  | some c => encTrap c s
  | none => guarded (o.ext.map VecX.g) rs s k

/-- A vector syllable that its mask m[MK] governs (R126). -/
def vecOp (i : Instr) (o : Vec) (rs : List Reg) (s : State) (k : State → Out) : Out := vecPlain i o (rs ++ maskReg (vx o).msk) s k

/-! ## Element-wise evaluation (R129) -/

/-- The bits to write with their values, the flags, and the seed the draws have reached. -/
structure VAcc where
  bits : VReg
  x    : VReg
  fl   : Flags
  seed : BitVec 32
  deriving DecidableEq, Repr

/-- One result of `w` bits at `pos`, which draws where `draws` holds. -/
def VAcc.add (a : VAcc) (draws : Bool) (pos w : Nat) (f : Nat → Res) : VAcc :=
  let sd := if draws then xorshift a.seed else a.seed
  let r := f (if draws then (sd >>> 8).toNat else 0)
  { bits := a.bits ||| vOnes pos w, x := a.x ||| vAt pos w r.bits, fl := a.fl ||| r.fl, seed := sd }

/-- Evaluate the active elements in lane order, each part by part (R65, R73): `w` element bits, `parts` per element. -/
def vLoop (m : Mask) (b n w parts : Nat) (draws : Bool) (seed : BitVec 32) (f : Nat → Nat → Res) : VAcc :=
  (List.range n).foldl (fun a i =>
    if laneOn m (b + w * i) then
      (List.range parts).foldl (fun a p => let pos := b + w * i + w / parts * p; a.add draws pos (w / parts) (f pos)) a
    else a) { bits := 0#1024, x := 0#1024, fl := 0#7, seed := seed }

/-- Write what an evaluation gives to a vector register after `l` issue cycles, with its flags and draws. -/
def vFinish (s : State) (vd : BitVec 5) (l : Nat) (draws : Bool) (a : VAcc) : Out :=
  let s1 := if draws then { s with issue := { s.issue with seed := some a.seed } } else s
  .next ((s1.post l (.v vd a.bits a.x)).postFlags l a.fl)

/-- The effective type of a vector syllable. -/
def State.vType (s : State) (o : Vec) : Nat := s.elType (vx o).fmto

/-- The governing mask of a vector syllable. -/
def State.vMask (s : State) (o : Vec) : Mask := s.me.getM (vx o).msk

def vParts (t : Nat) : Nat := if isCplx t then 2 else 1

/-- An element-wise syllable over the registers `rs`: `f` gives the result of the part at a position, from the type and
the draw; `draws` says whether a float result of this operation is rounded. -/
def vElem (i : Instr) (o : Vec) (rs : List Reg) (l : Nat) (draws : Nat → Bool) (s : State)
    (f : State → Nat → Nat → Nat → Res) : Out :=
  vecOp i o (.v o.vd :: rs) s fun s =>
    let t := s.vType o
    let dr := draws t && s.codes.mode = 6
    vFinish s o.vd l dr (vLoop (s.vMask o) (vBase o.lg) (vLanes o.wd t) (elBits t) (vParts t) dr s.seedNow (f s t))

/-- Float results of a rounding operation draw; integer results do not. -/
def drawsFloat (t : Nat) : Bool := !isIntT t
def drawsNever (_ : Nat) : Bool := false

def opA (o : Vec) (s : State) (pos w : Nat) : Nat := vGet (s.me.getV o.va) pos w
def opB (o : Vec) (s : State) (pos w : Nat) : Nat := vGet (s.me.getV o.vb) pos w
def opC (o : Vec) (s : State) (pos w : Nat) : Nat := vGet (s.me.getV (vx o).vc) pos w

/-- Bits of one part of an element. -/
def partBits (t : Nat) : Nat := elBits t / vParts t

def exact (x : Nat) : Res := { bits := x, fl := 0#7 }

/-! ## VARI (R130) -/

/-- Integer arithmetic of VARI: the exact integer brought to w bits by the saturation code. -/
def vInt2 (f : Int → Int → Int) (s : State) (w x y : Nat) : Res := intReduce w s.codes.sat (f (toInt w x) (toInt w y))

/-- VADD, VSUB, VMUL. -/
def vArith (i : Instr) (o : Vec) (fo : FOp) (fi : Int → Int → Int) (s : State) : Out :=
  vElem i o [.v o.va, .v o.vb] 2 drawsFloat s fun s t pos r =>
    let w := partBits t
    if isIntT t then vInt2 fi s w (opA o s pos w) (opB o s pos w)
    else fop fo (Nf.ofType t) s.codes r (opA o s pos w) (opB o s pos w)

/-- VMIN, VMAX (R79): a float result is limited by the saturation code (R129), an integer one is an operand (log entry 98). -/
def vMinMax (i : Instr) (o : Vec) (isMin : Bool) (s : State) : Out :=
  vElem i o [.v o.va, .v o.vb] 2 drawsNever s fun s t pos _ =>
    let w := elBits t
    let a := opA o s pos w
    let b := opB o s pos w
    if isIntT t then exact (if (toInt w a ≤ toInt w b) = isMin then a else b)
    else limitRes (Nf.ofType t) s.codes (minMax (Nf.ofType t) s.codes isMin a b)

def execVadd (o : Vec) (s : State) : Out := vArith (.vadd o) o .add (· + ·) s
def execVsub (o : Vec) (s : State) : Out := vArith (.vsub o) o .sub (· - ·) s
def execVmul (o : Vec) (s : State) : Out := vArith (.vmul o) o .mul (· * ·) s
def execVmin (o : Vec) (s : State) : Out := vMinMax (.vmin o) o true s
def execVmax (o : Vec) (s : State) : Out := vMinMax (.vmax o) o false s

/-- VABS: a float's sign bit is cleared, whatever SAT (log entry 98), an integer's magnitude is reduced. -/
def execVabs (o : Vec) (s : State) : Out :=
  vElem (.vabs o) o [.v o.va] 2 drawsNever s fun s t pos _ =>
    let w := elBits t
    let a := opA o s pos w
    if isIntT t then intReduce w s.codes.sat (toInt w a).natAbs else exact (a % 2 ^ (w - 1))

/-- VNEG: a float's sign bit is inverted, whatever SAT (log entry 98), an integer's negation is reduced. -/
def execVneg (o : Vec) (s : State) : Out :=
  vElem (.vneg o) o [.v o.va] 2 drawsNever s fun s t pos _ =>
    let w := partBits t
    let a := opA o s pos w
    if isIntT t then intReduce w s.codes.sat (-toInt w a) else exact ((a + 2 ^ (w - 1)) % 2 ^ w)

def execVmulh (o : Vec) (s : State) : Out :=
  vElem (.vmulh o) o [.v o.va, .v o.vb] 2 drawsNever s fun s t pos _ =>
    let w := elBits t
    exact (ofInt w (toInt w (opA o s pos w) * toInt w (opB o s pos w) / 2 ^ w))

/-! ## VLOG, VLOP3 (R132, R133) -/

/-- A bitwise operation on the bit patterns of elements. -/
def vBit (i : Instr) (o : Vec) (rs : List Reg) (s : State) (f : State → Nat → Nat → Nat) : Out :=
  vElem i o rs 2 drawsNever s fun s t pos _ => exact (f s pos (partBits t))

def execVand (o : Vec) (s : State) : Out :=
  vBit (.vand o) o [.v o.va, .v o.vb] s fun s p w => opA o s p w &&& opB o s p w
def execVor (o : Vec) (s : State) : Out :=
  vBit (.vor o) o [.v o.va, .v o.vb] s fun s p w => opA o s p w ||| opB o s p w
def execVxor (o : Vec) (s : State) : Out :=
  vBit (.vxor o) o [.v o.va, .v o.vb] s fun s p w => opA o s p w ^^^ opB o s p w
def execVandn (o : Vec) (s : State) : Out :=
  vBit (.vandn o) o [.v o.va, .v o.vb] s fun s p w => opA o s p w &&& (2 ^ w - 1 - opB o s p w)
def execVnot (o : Vec) (s : State) : Out := vBit (.vnot o) o [.v o.va] s fun s p w => 2 ^ w - 1 - opA o s p w
def execVsll (o : Vec) (s : State) : Out :=
  vBit (.vsll o) o [.v o.va, .v o.vb] s fun s p w => opA o s p w * 2 ^ (opB o s p w % w) % 2 ^ w
def execVsrl (o : Vec) (s : State) : Out :=
  vBit (.vsrl o) o [.v o.va, .v o.vb] s fun s p w => opA o s p w / 2 ^ (opB o s p w % w)
def execVsra (o : Vec) (s : State) : Out :=
  vBit (.vsra o) o [.v o.va, .v o.vb] s fun s p w => ofInt w (toInt w (opA o s p w) / 2 ^ (opB o s p w % w))
def execVlop3 (o : Vec) (s : State) : Out :=
  vBit (.vlop3 o) o [.v o.va, .v o.vb, .v (vx o).vc] s fun s p w =>
    (lop3 (vx o).x8 (BitVec.ofNat 64 (opA o s p w)) (BitVec.ofNat 64 (opB o s p w)) (BitVec.ofNat 64 (opC o s p w))).toNat
      % 2 ^ w

/-! ## VFMA, VSFU, VCPLX (R131, R138, R139) -/

def vFma (i : Instr) (o : Vec) (np nc : Bool) (s : State) : Out :=
  vElem i o [.v o.va, .v o.vb, .v (vx o).vc] 4 drawsFloat s fun s t pos r =>
    let w := elBits t
    ffma (Nf.ofType t) s.codes r np nc (opA o s pos w) (opB o s pos w) (opC o s pos w)

def execVfma (o : Vec) (s : State) : Out := vFma (.vfma o) o false false s
def execVfms (o : Vec) (s : State) : Out := vFma (.vfms o) o false true s
def execVfnma (o : Vec) (s : State) : Out := vFma (.vfnma o) o true false s
def execVfnms (o : Vec) (s : State) : Out := vFma (.vfnms o) o true true s

def vSfu (i : Instr) (o : Vec) (f : Sfu) (s : State) : Out :=
  vElem i o [.v o.va] 8 drawsFloat s fun s t pos r => sfu f (Nf.ofType t) s.codes r (opA o s pos (elBits t))

def execVrcp (o : Vec) (s : State) : Out := vSfu (.vrcp o) o .rcp s
def execVrsq (o : Vec) (s : State) : Out := vSfu (.vrsq o) o .rsq s
def execVexp2 (o : Vec) (s : State) : Out := vSfu (.vexp2 o) o .exp2 s
def execVlog2 (o : Vec) (s : State) : Out := vSfu (.vlog2 o) o .log2 s

/-- VCMUL, VCMULJ and VCFMA: the part at a position, from the parts of its element. The first NaN operand of either part is taken in the
order real part, imaginary part, of A, then B, then C (log entry 99). -/
def vCplx (i : Instr) (o : Vec) (conj addC : Bool) (s : State) : Out :=
  vElem i o ([.v o.va, .v o.vb] ++ if addC then [.v (vx o).vc] else []) 6 drawsFloat s fun s t pos r =>
    let w := partBits t
    let f := Nf.ofType t
    let c := s.codes
    let re := pos / (2 * w) * (2 * w)
    let rd (x : Nat) : Val := f.read c.ftz x
    let ar := rd (opA o s re w)
    let ai := rd (opA o s (re + w) w)
    let br := rd (opB o s re w)
    let bi := rd (opB o s (re + w) w)
    let cc := if addC then some (rd (opC o s pos w)) else none
    let ps := if pos = re then [(false, ar, br), (!conj, ai, bi)]
      else if conj then [(false, ai, br), (true, ar, bi)] else [(false, ar, bi), (false, ai, br)]
    dotRes f c r ([ar, ai, br, bi] ++ cc.toList) ps cc

def execVcmul (o : Vec) (s : State) : Out := vCplx (.vcmul o) o false false s
def execVcmulj (o : Vec) (s : State) : Out := vCplx (.vcmulj o) o true false s
def execVcfma (o : Vec) (s : State) : Out := vCplx (.vcfma o) o false true s

/-! ## VCMP (R134) -/

/-- The condition of an element, as float, complex and integer compares define it. -/
def vCompare (i : Instr) (o : Vec) (any : Bool) (kf : Option Ordering → Bool) (kc : Option Ordering → Option Ordering → Bool)
    (ki : Ordering → Bool) (s : State) : Out :=
  vecOp i o [.v o.va, .v o.vb, .m] s fun s =>
    let t := s.vType o
    let w := elBits t
    let pw := partBits t
    let f := Nf.ofType t
    let ftz := s.me.fmtFtz
    let b := vBase o.lg
    let m := s.vMask o
    let r := (List.range (vLanes o.wd t)).foldl (fun (a : Mask × Mask × Flags) j =>
      let pos := b + w * j
      if laneOn m pos then
        let c0 := fcmp f ftz any (opA o s pos pw) (opB o s pos pw)
        let c1 := if isCplx t then fcmp f ftz any (opA o s (pos + pw) pw) (opB o s (pos + pw) pw) else (none, 0#7)
        let v := if isIntT t then ki (compare (toInt w (opA o s pos w)) (toInt w (opB o s pos w)))
          else if isCplx t then kc c0.1 c1.1 else kf c0.1
        let bits := BitVec.ofNat 128 (2 ^ (w / 8) - 1) <<< (pos / 8)
        (a.1 ||| bits, if v then a.2.1 ||| bits else a.2.1, if isIntT t then a.2.2 else a.2.2 ||| c0.2 ||| c1.2)
      else a) (0#128, 0#128, 0#7)
    .next ((s.post 2 (.m (o.vd.setWidth 3) r.1 r.2.1)).postFlags 2 r.2.2)

def execVeq (o : Vec) (s : State) : Out :=
  vCompare (.veq o) o false (· == some .eq) (fun x y => x == some .eq && y == some .eq) (· == .eq) s
def execVne (o : Vec) (s : State) : Out :=
  vCompare (.vne o) o false (· != some .eq) (fun x y => !(x == some .eq && y == some .eq)) (· != .eq) s
def execVlt (o : Vec) (s : State) : Out :=
  vCompare (.vlt o) o true (· == some .lt) (fun _ _ => false) (· == .lt) s
def execVle (o : Vec) (s : State) : Out :=
  vCompare (.vle o) o true (fun x => x == some .lt || x == some .eq) (fun _ _ => false) (· != .gt) s
def execVgt (o : Vec) (s : State) : Out :=
  vCompare (.vgt o) o true (· == some .gt) (fun _ _ => false) (· == .gt) s
def execVge (o : Vec) (s : State) : Out :=
  vCompare (.vge o) o true (fun x => x == some .gt || x == some .eq) (fun _ _ => false) (· != .lt) s
def execVun (o : Vec) (s : State) : Out :=
  vCompare (.vun o) o false Option.isNone (fun x y => x.isNone || y.isNone) (fun _ => false) s

/-! ## VRED (R84, R135) -/

/-- One level of the pairwise tree, in index order; each combining step draws where `draws` holds. -/
def redLevel (draws : Bool) (f : Nat → Nat → Nat → Res) : List Nat → BitVec 32 → Flags → List Nat × BitVec 32 × Flags
  | x :: y :: r, seed, fl =>
    let sd := if draws then xorshift seed else seed
    let z := f (if draws then (sd >>> 8).toNat else 0) x y
    let q := redLevel draws f r sd (fl ||| z.fl)
    (z.bits :: q.1, q.2)
  | _, seed, fl => ([], seed, fl)

/-- The whole tree. -/
def redTree (draws : Bool) (f : Nat → Nat → Nat → Res) : Nat → List Nat → BitVec 32 → Flags → Nat × BitVec 32 × Flags
  | 0, xs, seed, fl => (xs.headD 0, seed, fl)
  | k + 1, xs, seed, fl =>
    if xs.length ≤ 1 then (xs.headD 0, seed, fl)
    else
      let q := redLevel draws f xs seed fl
      redTree draws f k q.1 q.2.1 q.2.2

/-- A reduction of the parts of all elements by `f`; an inactive element contributes the identity, which is the result where none is
active. A complex reduction
keeps its parts side by side: each combining step forms the real part and then the imaginary part. -/
def vReduce (i : Instr) (o : Vec) (draws : Nat → Bool) (ident : Nat → Nat) (f : State → Nat → Nat → Nat → Nat → Res)
    (s : State) : Out :=
  vecOp i o [.v o.va, .v o.vd] s fun s =>
    let t := s.vType o
    let w := elBits t
    let pw := partBits t
    let b := vBase o.lg
    let n := vLanes o.wd t
    let dr := draws t && s.codes.mode = 6
    let idle := (List.range n).all fun j => !laneOn (s.vMask o) (b + w * j)
    let join (p : Nat → Nat) : Nat := p 0 + (if isCplx t then 2 ^ pw * p 1 else 0)
    let els := (List.range n).map fun j =>
      if laneOn (s.vMask o) (b + w * j) then opA o s (b + w * j) w else join fun _ => ident t
    let both (r : Nat) (x y : Nat) : Res :=
      if isCplx t then
        let re := f s t r (x % 2 ^ pw) (y % 2 ^ pw)
        let im := f s t r (x / 2 ^ pw) (y / 2 ^ pw)
        { bits := re.bits + 2 ^ pw * im.bits, fl := re.fl ||| im.fl }
      else f s t r x y
    if isCplx t && dr then
      let q := cplxTree s t f 7 els s.seedNow 0#7 pw
      let s1 := { s with issue := { s.issue with seed := some q.2.1 } }
      finish s1 b w idle (join fun _ => ident t) q
    else
      let q := redTree dr both 7 els s.seedNow 0#7
      let s1 := if dr then { s with issue := { s.issue with seed := some q.2.1 } } else s
      finish s1 b w idle (join fun _ => ident t) q
where
  /-- Element 0 of VD's groups and the flags: those of the tree, or the identity where no element is active. -/
  finish (s : State) (b w : Nat) (idle : Bool) (id : Nat) (q : Nat × BitVec 32 × Flags) : Out :=
    .next ((s.post 6 (.v o.vd (vOnes b w) (vAt b w (if idle then id else q.1)))).postFlags 6 (if idle then 0#7 else q.2.2))
  /-- The tree of a complex reduction under SR: two draws for each combining step. -/
  cplxTree (s : State) (t : Nat) (f : State → Nat → Nat → Nat → Nat → Res) :
      Nat → List Nat → BitVec 32 → Flags → Nat → Nat × BitVec 32 × Flags
    | 0, xs, seed, fl, _ => (xs.headD 0, seed, fl)
    | k + 1, xs, seed, fl, pw =>
      if xs.length ≤ 1 then (xs.headD 0, seed, fl)
      else
        let q := cplxLevel s t f pw xs seed fl
        cplxTree s t f k q.1 q.2.1 q.2.2 pw
  cplxLevel (s : State) (t : Nat) (f : State → Nat → Nat → Nat → Nat → Res) (pw : Nat) :
      List Nat → BitVec 32 → Flags → List Nat × BitVec 32 × Flags
    | x :: y :: r, seed, fl =>
      let sd := xorshift seed
      let re := f s t (sd >>> 8).toNat (x % 2 ^ pw) (y % 2 ^ pw)
      let se := xorshift sd
      let im := f s t (se >>> 8).toNat (x / 2 ^ pw) (y / 2 ^ pw)
      let q := cplxLevel s t f pw r se (fl ||| re.fl ||| im.fl)
      ((re.bits + 2 ^ pw * im.bits) :: q.1, q.2)
    | _, seed, fl => ([], seed, fl)

def execVradd (o : Vec) (s : State) : Out :=
  vReduce (.vradd o) o drawsFloat (fun t => if isIntT t then 0 else 2 ^ (partBits t - 1))
    (fun s t r x y => if isIntT t then vInt2 (· + ·) s (elBits t) x y else fop .add (Nf.ofType t) s.codes r x y) s

def vRedMm (i : Instr) (o : Vec) (isMin : Bool) (s : State) : Out :=
  vReduce i o drawsNever
    (fun t => let w := elBits t
      if isIntT t then (if isMin then 2 ^ (w - 1) - 1 else 2 ^ (w - 1))
      else signBit (Nf.ofType t) (!isMin) + infCode (Nf.ofType t))
    (fun s t _ x y => let w := elBits t
      if isIntT t then exact (if (toInt w x ≤ toInt w y) = isMin then x else y)
      else limitRes (Nf.ofType t) s.codes (minMax (Nf.ofType t) s.codes isMin x y)) s

def execVrmax (o : Vec) (s : State) : Out := vRedMm (.vrmax o) o false s
def execVrmin (o : Vec) (s : State) : Out := vRedMm (.vrmin o) o true s
def execVrand (o : Vec) (s : State) : Out :=
  vReduce (.vrand o) o drawsNever (fun t => 2 ^ partBits t - 1) (fun _ _ _ x y => exact (x &&& y)) s

/-! ## VPERM (R136, R137) -/

/-- A permute: element i of the result from whole elements. -/
def vPerm (i : Instr) (o : Vec) (rs : List Reg) (s : State) (f : (Nat → Nat) → (Nat → Nat) → Nat → Nat → Nat → Nat) : Out :=
  vecOp i o (.v o.vd :: rs) s fun s =>
    let w := elBits (s.vType o)
    let n := vLanes o.wd (s.vType o)
    let b := vBase o.lg
    let a (j : Nat) : Nat := opA o s (b + w * j) w
    let bb (j : Nat) : Nat := opB o s (b + w * j) w
    vFinish s o.vd 2 false (vLoop (s.vMask o) b n w 1 false 0#32 fun pos _ => exact (f a bb n w ((pos - b) / w)))

def x8Of (o : Vec) : Nat := (vx o).x8.toNat

def execVshuf (o : Vec) (s : State) : Out :=
  vPerm (.vshuf o) o [.v o.va, .v o.vb] s fun a b n _ i => if b i < n then a (b i) else 0
def execVslideu (o : Vec) (s : State) : Out :=
  vPerm (.vslideu o) o [.v o.va, .v o.vb] s fun a b n _ i => if x8Of o ≤ i then a (i - x8Of o) else b (n - x8Of o + i)
def execVslided (o : Vec) (s : State) : Out :=
  vPerm (.vslided o) o [.v o.va, .v o.vb] s fun a b n _ i => if i + x8Of o < n then a (i + x8Of o) else b (i + x8Of o - n)
def execVzip (o : Vec) (s : State) : Out :=
  vPerm (.vzip o) o [.v o.va, .v o.vb] s fun a b n _ i =>
    let j := x8Of o * n / 2 + i / 2
    if i % 2 = 0 then a j else b j
def execVunzip (o : Vec) (s : State) : Out :=
  vPerm (.vunzip o) o [.v o.va, .v o.vb] s fun a b n _ i =>
    if i < n / 2 then a (2 * i + x8Of o) else b (2 * (i - n / 2) + x8Of o)
def execVmov (o : Vec) (s : State) : Out := vPerm (.vmov o) o [.v o.va] s fun a _ _ _ i => a i
def execVbcst (o : Vec) (s : State) : Out := vPerm (.vbcst o) o [.v o.va] s fun a _ _ _ _ => a (x8Of o)

/-- VBCST from s[VA]: its low w bits. -/
def execVbcstScalar (o : Vec) (s : State) : Out :=
  let x := (s.me.getS (o.va.setWidth 6)).toNat
  vPerm (.vbcstScalar o) o [.s (o.va.setWidth 6)] s fun _ _ _ w _ => x % 2 ^ w

/-- VMOV of an element to s[VD]: a scalar result of latency 2 that the mask does not govern (R137). -/
def execVmovToScalar (o : Vec) (s : State) : Out :=
  vecPlain (.vmovToScalar o) o [.s (o.vd.setWidth 6), .v o.va] s fun s =>
    let w := elBits (s.vType o)
    .next (s.putS true (o.vd.setWidth 6) 2 (BitVec.ofNat 64 (opA o s (vBase o.lg + w * (x8Of o % 128)) w)))

/-! ## VMSK (R140) -/

/-- The mask bits of the operation's groups. -/
def groupBits (o : Vec) : Mask := BitVec.ofNat 128 (2 ^ (vWidth o.wd / 8) - 1) <<< (vBase o.lg / 8)

def maskOp (i : Instr) (o : Vec) (s : State) (f : Mask → Mask → Mask) : Out :=
  vecOp i o [.m] s fun s =>
    let c := s.me
    .next (s.post 2 (.m (o.vd.setWidth 3) (groupBits o &&& s.vMask o) (f (c.getM (o.va.setWidth 3)) (c.getM (o.vb.setWidth 3)))))

def execMand (o : Vec) (s : State) : Out := maskOp (.mand o) o s (· &&& ·)
def execMor (o : Vec) (s : State) : Out := maskOp (.mor o) o s (· ||| ·)
def execMxor (o : Vec) (s : State) : Out := maskOp (.mxor o) o s (· ^^^ ·)
def execMandn (o : Vec) (s : State) : Out := maskOp (.mandn o) o s fun a b => a &&& ~~~b
def execMnot (o : Vec) (s : State) : Out := maskOp (.mnot o) o s fun a _ => ~~~a

/-- MPOPC and MFIRST write 32 bits at the base of VD's groups. -/
def maskCount (i : Instr) (o : Vec) (s : State) (f : Mask → Nat) : Out :=
  vecOp i o [.m, .v o.vd] s fun s =>
    let x := s.me.getM (o.va.setWidth 3) &&& s.vMask o &&& groupBits o
    .next (s.post 2 (.v o.vd (vOnes (vBase o.lg) 32) (vAt (vBase o.lg) 32 (f (x >>> (vBase o.lg / 8))))))

def execMpopc (o : Vec) (s : State) : Out := maskCount (.mpopc o) o s fun x => ones x 128
def execMfirst (o : Vec) (s : State) : Out :=
  maskCount (.mfirst o) o s fun x => ((List.range 128).find? fun i => x.getLsbD i).getD 0xFFFFFFFF

/-! ## Conversion and quantisation (R141 to R146) -/

/-- VCVT: part P of the wider register; the mask governs the destination element (log entry 13). -/
def execVcvt (o : Vec) (s : State) : Out :=
  vecOp (.vcvt o) o [.v o.va, .v o.vd] s fun s =>
    let t := s.vType o
    let d := x8Of o % 16
    let p := x8Of o / 16 % 4
    let ws := elBits t
    let wt := elBits d
    let n := vWidth o.wd / max ws wt
    let b := vBase o.lg
    let src := Nf.ofType t
    let dst := Nf.ofType d
    let c := s.codes
    let dr := !widens src dst && c.mode = 6
    let pw := partBits d
    let sw := partBits t
    let a := (List.range n).foldl (fun (a : VAcc) i =>
      let si := if ws < wt then p * n + i else i
      let j := if wt < ws then p * n + i else i
      if laneOn (s.vMask o) (b + wt * j) then
        (List.range (vParts t)).foldl (fun a k =>
          a.add dr (b + wt * j + pw * k) pw fun r => convert src dst c r (opA o s (b + ws * si + sw * k) sw)) a
      else a) { bits := 0#1024, x := 0#1024, fl := 0#7, seed := s.seedNow }
    vFinish s o.vd 4 dr a

/-- The scale of block `i / 32` of SCL (R142). -/
def sclEntry (scl : BitVec 48) (k : Nat) : Nat := (scl >>> (24 * k)).toNat % 2 ^ 24

/-- VMAXEXP: the S24 of one block (R143), with its flags. -/
def maxExpBlock (s : State) (o : Vec) (k : Nat) : Nat × Flags :=
  let t := s.vType o
  let w := elBits t
  let b := vBase o.lg
  let f := Nf.ofType t
  let vs := (List.range (min 32 (vLanes o.wd t))).filterMap fun j =>
    let pos := b + w * (32 * k + j)
    if laneOn (s.vMask o) pos then some (f.read s.codes.ftz (opA o s pos w)) else none
  if vs.any fun v => v.isNan || v.isInf then (0xFF0000, snanFlag vs)
  else
    let mx := vs.foldl (fun (a : Val) v =>
      let x := if v.sign then v.neg else v
      if cmpVal a x = .lt then x else a) (.num false 0 0)
    match mx with
    | .num _ m e => s24Of (Nf.ofCode s.me.fmtQf) ((vx o).x8.getLsbD 0) m e
    | _ => (0, 0#7)

def execVmaxexp (o : Vec) (s : State) : Out :=
  vecOp (.vmaxexp o) o [.v o.va] s fun s =>
    let e0 := maxExpBlock s o 0
    if vLanes o.wd (s.vType o) ≤ 32 then
      .next ((s.post 3 (.scl 0xFFFFFF#48 (BitVec.ofNat 48 e0.1))).postFlags 3 e0.2)
    else
      let e1 := maxExpBlock s o 1
      .next ((s.post 3 (.scl 0xFFFFFFFFFFFF#48 (BitVec.ofNat 48 (e0.1 + 2 ^ 24 * e1.1)))).postFlags 3 (e0.2 ||| e1.2))

/-- VCVTQ: codes of the quantisation format, packed densely (R144). -/
def execVcvtq (o : Vec) (s : State) : Out :=
  vecOp (.vcvtq o) o [.v o.va, .v o.vd] s fun s =>
    let t := s.vType o
    let w := elBits t
    let n := vLanes o.wd t
    let b := vBase o.lg
    let c := s.codes
    let q := Nf.ofCode s.me.fmtQf
    let dr := c.mode = 6
    vFinish s o.vd 4 dr ((List.range n).foldl (fun (a : VAcc) i =>
      if laneOn (s.vMask o) (b + w * i) then
        a.add dr (b + x8Of o % 4 * n * q.width + q.width * i) q.width fun r =>
          quantise (Nf.ofType t) q c r (opA o s (b + w * i) w) (sclEntry s.me.scl (i / 32))
      else a) { bits := 0#1024, x := 0#1024, fl := 0#7, seed := s.seedNow })

/-- VDQ: the reverse (R145). -/
def execVdq (o : Vec) (s : State) : Out :=
  vecOp (.vdq o) o [.v o.va, .v o.vd] s fun s =>
    let t := s.vType o
    let w := elBits t
    let n := vLanes o.wd t
    let b := vBase o.lg
    let c := s.codes
    let q := Nf.ofCode s.me.fmtQf
    let dr := c.mode = 6
    vFinish s o.vd 4 dr ((List.range n).foldl (fun (a : VAcc) i =>
      if laneOn (s.vMask o) (b + w * i) then
        a.add dr (b + w * i) w fun r =>
          dequantise q (Nf.ofType t) c r (opA o s (b + x8Of o % 4 * n * q.width + q.width * i) q.width)
            (sclEntry s.me.scl (i / 32))
      else a) { bits := 0#1024, x := 0#1024, fl := 0#7, seed := s.seedNow })

/-- VSCLMV to a vector: the two entries zero-extended at the base of VD's groups (R146). -/
def execVsclmvToVector (o : Vec) (s : State) : Out :=
  vecPlain (.vsclmvToVector o) o [.v o.vd] s fun s =>
    let x := sclEntry s.me.scl 0 + 2 ^ 32 * sclEntry s.me.scl 1
    .next (s.post 4 (.v o.vd (vOnes (vBase o.lg) 64) (vAt (vBase o.lg) 64 x)))

/-- VSCLMV to SCL. -/
def execVsclmvToScl (o : Vec) (s : State) : Out :=
  vecPlain (.vsclmvToScl o) o [.v o.va] s fun s =>
    let b := vBase o.lg
    .next (s.post 4 (.scl (BitVec.allOnes 48) (BitVec.ofNat 48 (opA o s b 24 + 2 ^ 24 * opA o s (b + 32) 24))))

end Sys2Proof.Machine
end

