-- ==== Sys2Proof/Machine/Memory.lean ====
section
/-! DEFINITION. Loads, stores, atomics, vector accesses, the tag table, monitored waits, fences and cache maintenance
(spec/05 R147 to R150, spec/08 R199 to R221). -/

namespace Sys2Proof.Machine

/-! ## Attributes (R48) -/

/-- SPACE, SCOPE and ORD of CTL_DEF (Table 1-8). -/
def Core.ctlSpace (c : Core) : Nat := (c.ctlDef.extractLsb' 6 2).toNat
def Core.ctlScope (c : Core) : Nat := (c.ctlDef.extractLsb' 3 3).toNat
def Core.ctlOrd (c : Core) : Nat := (c.ctlDef.extractLsb' 0 3).toNat

/-- A code, or the default where it is 0. -/
def orCode (x dflt : Nat) : Nat := if x = 0 then dflt else x

def State.space (s : State) : Nat := orCode ((s.issue.pm.map fun p => p.space.toNat).getD 0) s.me.ctlSpace
def State.scope (s : State) : Nat := orCode ((s.issue.pm.map fun p => p.scope.toNat).getD 0) s.me.ctlScope
def State.ord (s : State) : Nat := orCode ((s.issue.pm.map fun p => p.ord.toNat).getD 0) s.me.ctlOrd

/-- A FENCE at a lower position waits for accesses of its own bundle (R218): those after it come in order. -/
def State.fencing (s : State) : Bool := s.issue.aft.any fun a => match a with | .fence _ _ => true | .efence _ _ => true | _ => false

/-- The jobs that an EFENCE at a lower position waits for after the bundle (R237). -/
def State.efenced (s : State) : Nat :=
  (s.issue.aft.findSome? fun a => match a with | .efence _ n => some n | _ => none).getD 0

def isRemoteT (t : Target) : Bool := match t with | .remote .. => true | _ => false

/-- The event of an access with the effective attributes; a remote one has system scope (R364). -/
def State.mkAccess (s : State) (kind : AccKind) (t : Target) (n : Nat) (ea : Word) (whole : Bool) : Access :=
  { kind := kind, tgt := t, n := n, ord := if s.fencing then 5 else s.ord, scope := if isRemoteT t then 5 else s.scope, ea := ea, space := s.space,
    whole := whole, key := s.me.xkey, jobs := s.efenced, done := none }

/-! ## One access -/


/-- An access of `n` bytes at an effective address: ALIGN, then the faults of the address (R207), then a claim, then the
access. -/
def access (need : Need) (n : Nat) (whole : Bool) (ea : Word) (s : State) (k : Target → State → Out) : Out :=
  if ea.toNat % n ≠ 0 then trapOut cALIGN ea s
  else match s.resolve s.cur s.space need whole ea with
  | .bad cause info => trapOut cause info s
  | .ok t => if (s.owedBank t).isEmpty then k t s else claimOut (s.owedBank t) s

/-- The accesses before the bundle let a remote access leave (Table 9-3, R229, R364). -/
def State.mayLeave (s : State) (a : Access) : Bool :=
  (s.before.all fun b => b.done.isSome || !b.blocks a) && (s.me.acked a || s.postedBefore.isEmpty)

/-- A remote access that returns a value (R195): with the rest of the bundle ready to issue the requests go out and the core
waits (`issueBundle`); when it issues again the answer is there, which names the element that the target rejected or did not
answer (R149) (log entries 39 and 102). -/
def remoteOut (as : List Access) (s : State) (k : BitVec 1024 → State → Out) : Out :=
  let info (i : Nat) : Word := ((as[i]?).map Access.ea).getD ((as.head?.map Access.ea).getD 0#64)
  match s.me.answer with
  | some (.value v) => k v (as.foldl (fun t a => t.fenceIn (dieOf t.cur) a) (s.setMe { s.me with answer := none }))
  | some (.reject i) => trapOut cREMOTE (info i) s
  | some (.timeout i) => trapOut cTIMEOUT (info i) s
  | _ =>
    if as.all s.mayLeave then .next { s with issue := { s.issue with far := s.issue.far ++ as } } else stallOut s

/-- The effective address of a MEM syllable (R206). -/
def memEa (o : Mem) (n : Nat) (s : State) : Word :=
  s.me.src o.a + (match o.ext with
    | none => o.off.signExtend 64 * BitVec.ofNat 64 n
    | some x => x.1.signExtend 64)

/-- LD of `n` bytes (R206). -/
def load (n : Nat) (signed : Bool) (o : Mem) (s : State) : Out :=
  guarded (extGuard o.ext) (srcReg o.a ++ dstReg o.w o.d) s fun s =>
    let ea := memEa o n s
    let dst : LoadTo := if o.w then .s o.d signed else .none
    access needR n (n = 8 && !signed) ea (s.noteLatches [o.a]) fun t s =>
      let a := s.mkAccess (.read dst) t n ea (n = 8)
      if isRemoteT t then
        remoteOut [a] s fun v s => .next ((a.writes (v.setWidth 256 &&& BitVec.ofNat 256 (2 ^ (8 * n) - 1))).foldl (fun t w => t.post 1 w) s)
      else .next (s.issueOne State.perform a)

/-- ST of `n` bytes (R206). -/
def storeOp (n : Nat) (o : Mem) (s : State) : Out :=
  guarded (extGuard o.ext) (srcReg o.a ++ [.s o.d]) s fun s =>
    let ea := memEa o n s
    let x := (s.me.getS o.d).toNat % 2 ^ (8 * n)
    access needW n (n = 8) ea (s.noteLatches [o.a]) fun t s =>
      .next (s.issueOne State.perform (s.mkAccess (.write (BitVec.ofNat 256 x)) t n ea (n = 8)))

def execLd8 (o : Mem) (s : State) : Out := load 1 false o s
def execLd16 (o : Mem) (s : State) : Out := load 2 false o s
def execLd32 (o : Mem) (s : State) : Out := load 4 false o s
def execLd64 (o : Mem) (s : State) : Out := load 8 false o s
def execLd8s (o : Mem) (s : State) : Out := load 1 true o s
def execLd16s (o : Mem) (s : State) : Out := load 2 true o s
def execLd32s (o : Mem) (s : State) : Out := load 4 true o s
def execSt8 (o : Mem) (s : State) : Out := storeOp 1 o s
def execSt16 (o : Mem) (s : State) : Out := storeOp 2 o s
def execSt32 (o : Mem) (s : State) : Out := storeOp 4 o s
def execSt64 (o : Mem) (s : State) : Out := storeOp 8 o s

/-! ## Atomics (R209 to R213) -/

/-- A read-modify-write of `n` bytes at a + sext(X8) * n. -/
def rmw (g : Option Guard) (op : State → Rmw) (rs : List (BitVec 7)) (a b : BitVec 7) (x8 : BitVec 8) (n : Nat) (w : Bool)
    (d : BitVec 6) (returns : Bool) (s : State) : Out :=
  guarded g (rs.flatMap srcReg ++ dstReg w d) s fun s =>
    let ea := s.me.src a + x8.signExtend 64 * BitVec.ofNat 64 n
    let x := (s.me.src b).toNat % 2 ^ (8 * n)
    let f := op s
    access needRW n false ea (s.noteLatches rs) fun t s =>
      let e := s.mkAccess (.rmw f (BitVec.ofNat 64 x) (if w then some d else none)) t n ea false
      if isRemoteT t && (w || returns) then
        remoteOut [e] s fun v s => .next ((e.writes (v.setWidth 256 &&& BitVec.ofNat 256 (2 ^ (8 * n) - 1))).foldl (fun t w => t.post 1 w) s)
      else .next (s.issueOne State.perform e)

/-- ATOM: 64 bits and no offset in the 32-bit form (R209). -/
def atom (op : Rmw) (o : Atom) (s : State) : Out :=
  match o.ext with
  | none => rmw none (fun _ => op) [o.a, o.b] o.a o.b 0#8 8 o.w o.d false s
  | some x => rmw (some x.g) (fun _ => op) [o.a, o.b] o.a o.b x.x8 (if x.sz then 4 else 8) o.w o.d false s

def execAadd (o : Atom) (s : State) : Out := atom .add o s
def execAmin (o : Atom) (s : State) : Out := atom .smin o s
def execAmax (o : Atom) (s : State) : Out := atom .smax o s
def execAand (o : Atom) (s : State) : Out := atom .and o s
def execAor (o : Atom) (s : State) : Out := atom .or o s
def execAxor (o : Atom) (s : State) : Out := atom .xor o s
def execAxchg (o : Atom) (s : State) : Out := atom .xchg o s
def execAfadd (o : Atom) (s : State) : Out := atom .fadd o s

/-- ACAS (R213). -/
def execAcas (o : Acas) (s : State) : Out :=
  rmw (some o.x.g) (fun s => .cas (s.me.src o.x.c)) [o.x.a, o.x.b, o.x.c] o.x.a o.x.b o.x.x8 (if o.sz then 4 else 8)
    o.x.w o.x.d true s

/-! ## Vector accesses (R147 to R150) -/

/-- Each address of a vector access in element order with the bit position of its data, checked and resolved: those before the
first that faults, and its fault (R149). -/
def State.resolveAll (s : State) (need : Need) (n : Nat) : List (Word × Nat) → List (Target × Word × Nat) × Option (BitVec 6 × Word)
  | [] => ([], none)
  | (ea, pos) :: r =>
    if ea.toNat % n ≠ 0 then ([], some (cALIGN, ea))
    else match s.resolve s.cur s.space need false ea with
    | .bad cause info => ([], some (cause, info))
    | .ok t => let q := s.resolveAll need n r; ((t, ea, pos) :: q.1, q.2)

/-- A vector access of `n`-byte parts: faults first, then claims, then the events. Remote loads return in one answer, which
comes before the fault of a higher element is taken (R149). -/
def vecAccess (need : Need) (n : Nat) (parts : List (Word × Nat)) (kind : Nat → AccKind) (loads : Bool) (s : State) : Out :=
  let ts := s.resolveAll need n parts
  let ev (t : Target × Word × Nat) : Access := s.mkAccess (kind t.2.2) t.1 n t.2.1 false
  let far := if loads then ts.1.filter fun t => isRemoteT t.1 else []
  let near := if loads then ts.1.filter fun t => !isRemoteT t.1 else ts.1
  let owed := ts.1.flatMap fun t => s.owedBank t.1
  let go (v : BitVec 1024) (s : State) : Out :=
    match ts.2 with
    | some (cause, info) => trapOut cause info s
    | none =>
      if !owed.isEmpty then claimOut owed s
      else
        let s1 := far.foldl (fun a t => ((ev t).writes (BitVec.ofNat 256 (vGet v t.2.2 (8 * n)))).foldl (fun a w => a.post 1 w) a) s
        .next (near.foldl (fun a t => a.issueOne State.perform (ev t)) s1)
  if far.isEmpty then go 0#1024 s else remoteOut (far.map ev) s go

/-- The 32-byte chunks of a VLD or VST, with the bit positions of their groups. -/
def chunks (o : VMem) (ea : Word) : List (Word × Nat) :=
  (List.range (vWidth o.wd / 256)).map fun i => (ea + BitVec.ofNat 64 (32 * i), vBase o.lg + 256 * i)

def vmemEa (o : VMem) (s : State) : Word := s.me.src o.a + o.off.signExtend 64 * BitVec.ofNat 64 (vWidth o.wd / 8)

/-- VLD (R147). -/
def execVld (o : VMem) (s : State) : Out :=
  guarded none (srcReg o.a ++ [.v o.v]) s fun s =>
    let ea := vmemEa o s
    let s1 := s.noteLatches [o.a]
    if ea.toNat % (vWidth o.wd / 8) ≠ 0 then trapOut cALIGN ea s1
    else vecAccess needR 32 (chunks o ea) (fun pos => .read (.v o.v pos)) true s1

/-- VST (R147). -/
def execVst (o : VMem) (s : State) : Out :=
  guarded none (srcReg o.a ++ [.v o.v]) s fun s =>
    let ea := vmemEa o s
    let s1 := s.noteLatches [o.a]
    let x := s.me.getV o.v
    if ea.toNat % (vWidth o.wd / 8) ≠ 0 then trapOut cALIGN ea s1
    else vecAccess needW 32 (chunks o ea) (fun pos => .write (BitVec.ofNat 256 (vGet x pos 256))) false s1

/-- The active elements of VGATH and VSCAT with their addresses (R148). -/
def elements (o : VIdx) (w : Nat) (s : State) : List (Word × Nat) :=
  let m := s.me.getM o.x.msk
  let ix := s.me.getV o.x.vc
  ((List.range (vWidth o.wd / w)).map fun i => vBase o.lg + w * i).filterMap fun pos =>
    if laneOn m pos then some (s.me.src o.a + BitVec.ofInt 64 (toInt w (vGet ix pos w) * (w / 8 : Nat)), pos) else none

/-- VGATH (R148). -/
def execVgath (o : VIdx) (s : State) : Out :=
  guarded (some o.x.g) (srcReg o.a ++ [.v o.v, .v o.x.vc] ++ maskReg o.x.msk) s fun s =>
    let w := elBits (s.elType o.x.fmto)
    vecAccess needR (w / 8) (elements o w s) (fun pos => .read (.v o.v pos)) true (s.noteLatches [o.a])

/-- VSCAT (R148). -/
def execVscat (o : VIdx) (s : State) : Out :=
  guarded (some o.x.g) (srcReg o.a ++ [.v o.v, .v o.x.vc] ++ maskReg o.x.msk) s fun s =>
    let w := elBits (s.elType o.x.fmto)
    let x := s.me.getV o.v
    vecAccess needW (w / 8) (elements o w s) (fun pos => .write (BitVec.ofNat 256 (vGet x pos w))) false (s.noteLatches [o.a])

/-! ## The tag table (R199 to R203) -/

def tagSet (a : Word) : Nat := fld a 12 7
def tagOf (a : Word) : BitVec 33 := a.extractLsb' 19 33
def Core.tag (c : Core) (slot : Nat) : TagEntry := (tabGet? c.tags slot).getD { v := false, pin := false, tag := 0#33 }

/-- The slot whose entry matches an address. -/
def Core.tagHit (c : Core) (a : Word) : Option Nat :=
  ((List.range 8).map (8 * tagSet a + ·)).find? fun i => (c.tag i).v && (c.tag i).tag = tagOf a

def Core.setTag (c : Core) (slot : Nat) (e : TagEntry) : Core := { c with tags := tabPut c.tags slot e }

/-- TRAPINFO after an SPM trap (Table 8-4). -/
def spmInfo (reason : Nat) (a : Word) : Word := BitVec.ofNat 64 (reason * 2 ^ 60 + a.toNat % 2 ^ 52)

def execTlook (o : Ctl) (s : State) : Out :=
  guarded o.gw (srcReg o.a ++ dstReg o.w o.d) s fun s =>
    let v : Word := match s.me.tagHit (s.me.src o.a) with
      | some i => BitVec.ofNat 64 i
      | none => BitVec.allOnes 64
    let s1 := s.noteLatches [o.a]
    .next (if o.w then s1.post 1 (.s o.d v) else s1)

/-- TSET: D names the slot register (R201). -/
def execTset (o : Ctl) (s : State) : Out :=
  guarded o.gw (srcReg o.a ++ [.s o.d]) s fun s =>
    let c := s.me
    let a := c.src o.a
    let sl := (c.getS o.d).toNat
    let s1 := s.noteLatches [o.a]
    if 1023 < sl then trapOut cPROT (spmInfo 1 a) s1
    else if sl / 8 ≠ tagSet a then trapOut cPROT (spmInfo 2 a) s1
    else if (c.tag sl).pin then trapOut cPROT (spmInfo 3 a) s1
    else if !c.spmAllot.getLsbD (sl / 16) then trapOut cALLOT (spmInfo 5 a) s1
    else
      let y := match s1.me.tagHit a with
        | some i => if i = sl then s1.me else s1.me.setTag i { s1.me.tag i with v := false }
        | none => s1.me
      .next (s1.setMe (y.setTag sl { v := true, pin := false, tag := tagOf a }))

def execTinv (o : Ctl) (s : State) : Out :=
  guarded o.gw (srcReg o.a) s fun s =>
    let a := s.me.src o.a
    let s1 := s.noteLatches [o.a]
    match s1.me.tagHit a with
    | none => .next s1
    | some i =>
      if (s1.me.tag i).pin then trapOut cPROT (spmInfo 4 a) s1
      else .next (s1.setMe (s1.me.setTag i { s1.me.tag i with v := false }))

/-- TPIN and TUNPIN. -/
def pinOp (pin : Bool) (o : Ctl) (s : State) : Out :=
  guarded o.gw (srcReg o.a) s fun s =>
    let s1 := s.noteLatches [o.a]
    .next (match s1.me.tagHit (s.me.src o.a) with
      | none => s1
      | some i => s1.setMe (s1.me.setTag i { s1.me.tag i with pin := pin }))

def execTpin (o : Ctl) (s : State) : Out := pinOp true o s
def execTunpin (o : Ctl) (s : State) : Out := pinOp false o s

/-! ## Monitored waits (R214 to R217) -/

/-- A one-byte read at an address in the space of CTL_DEF; it never raises ALIGN (log entry 23). -/
def probe (a : Word) (s : State) (k : Target → State → Out) : Out :=
  match s.resolve s.cur s.me.ctlSpace needR false a with
  | .bad cause info => trapOut cause info s
  | .ok t => k t s

/-- MONITOR: the arming is confirmed at once in an eager state. The port area is no memory: its line sees no write (log entry 42). -/
def execMonitor (o : Ctl) (s : State) : Out :=
  guarded o.gw (srcReg o.a) s fun s =>
    let a := s.me.src o.a
    probe a (s.noteLatches [o.a]) fun t s =>
      let arm (key : Nat) : Out :=
        if !(s.owedBank t).isEmpty then claimOut (s.owedBank t) s
        else .next (s.setMe { s.me with monitor :=
          { armed := true, conf := s.eager, space := if s.me.ctlSpace = 1 then 1#2 else 2#2,
            line := a.extractLsb' 6 46, key := key, codes := [] } })
      match t with
      | .mem k => arm k
      | .port _ _ => arm (2 ^ 60)
      | _ => trapOut cPROT a s

/-- The lowest pending code. -/
def Monitor.lowest (m : Monitor) : Nat := m.codes.foldl min 3

/-- A WAITM that ends with code 0 at a line of another die drops its own die's copy of it, so that a read returns the write or
a later value (R238, R355). -/
def State.dropMonitored (s : State) (c : Nat) : State :=
  let m := (s.core c).monitor
  if m.codes.contains 0 && foreign (dieOf c) m.key then s.flushLine (dieOf c) (m.key / 64) else s

/-- The wait of a core at its monitor ends with a code (R216). -/
def State.endWaitm (s : State) (c code : Nat) (d : BitVec 6) (w : Bool) (pos : Nat) : State :=
  let t := s.dropMonitored c
  t.setCore c ((t.core c).endMonitor code d w pos)

/-- WAITM (R216). -/
def execWaitm (o : Ctl) (s : State) : Out :=
  guarded o.gw (dstReg o.w o.d) s fun s =>
    let m := s.me.monitor
    if !m.armed then .next (s.putS o.w o.d 1 4#64)
    else if m.codes.isEmpty then
      .next (s.setMe { s.me with wait := .waitm (o.i6.toNat % 4) o.d o.w s.issue.pos, waited := 0 })
    else
      let s1 := (s.dropMonitored s.cur).putS o.w o.d 1 (BitVec.ofNat 64 m.lowest)
      .next (s1.setMe { s1.me with monitor := { m with armed := false, conf := false, codes := [] } })

/-! ## Fences and cache maintenance (R195, R218 to R221) -/

/-- A bundle that waits for the remote acknowledgements of earlier bundles and raises a held rejection (R195) (log entry 47).
Those of its own accesses are waited for after it (log entry 103). -/
def systemWait (s : State) (k : State → Out) : Out :=
  let x := s.me
  if !s.postedBefore.isEmpty || s.before.any (fun a => a.isRemote && a.isWrite) then stallOut s
  else match x.rejects with
  | [] => k s
  | a :: _ => trapOut cREMOTE a { s with issue := { s.issue with drop := true } }

/-- What a FENCE waits for among given accesses and remote acknowledgements (Table 8-11) (log entry 33). -/
def fenceOk (outs : List Access) (posted : List Word) (ord scope : Nat) : Bool :=
  (outs.all fun a => !a.isLoad) && (ord = 2 || outs.isEmpty && (scope ≠ 5 || posted.isEmpty))

/-- The loads that a core has in flight complete, control space included (R25, R318). -/
def State.drainInFlight (s : State) (c : Nat) : State :=
  if (s.core c).outs.any Access.isLoad then s.drainOutsBy State.perform c else s

/-- BUDGET is 0 at the boundary before `pc`: the core stops, or goes on waiting for the loads in flight that the stop completes (R25,
R315). -/
def State.budgetDue (s : State) (c : Nat) (pc : Word) : State :=
  let t := s.drainInFlight c
  if t.landed c then t.budgetOut c pc else t

/-- What a FENCE does to the copies of its die and the trace of its core (Table 8-11, R342). -/
def State.fence (s : State) (c ord scope : Nat) : State :=
  let d := dieOf c
  let s1 := if ord ≠ 2 && 3 ≤ scope then s.traceAll c 16 else s
  let s2 := if ord ≠ 2 && scopeWide scope then s1.release d else s1
  if ord ≠ 3 && scopeWide scope then s2.acquire d else s2

/-- FENCE (R218): `ord` and `scope` codes of 0 take CTL_DEF. Where accesses of its own bundle stand before it, it waits for them
after the bundle (log entries 33 and 103). -/
def execFence (o : Ctl) (s : State) : Out :=
  guarded o.gw [] s fun s =>
    let ord := orCode (o.i6.toNat % 8) s.me.ctlOrd
    let scope := orCode (o.i6.toNat / 8) s.me.ctlScope
    let k (s : State) : Out :=
      if !fenceOk s.before s.postedBefore ord scope then stallOut s
      else if fenceOk s.me.outs s.me.posted ord scope then .next (s.fence s.cur ord scope)
      else .next (s.after (.fence ord scope))
    if ord = 1 then .next s else if scope = 5 then systemWait s k else k s

/-- The writes of the jobs are performed at the scope of the EFENCE (R219). -/
def State.efence (s : State) (c scope : Nat) : State := if scopeWide scope then s.release (dieOf c) else s

/-- EFENCE (R219). It waits for a job of its own bundle after the bundle (log entry 103). -/
def execEfence (o : Ctl) (s : State) : Out :=
  guarded o.gw [] s fun s =>
    let scope := orCode (o.i6.toNat / 8) s.me.ctlScope
    let k (s : State) : Out :=
      if s.me.jobsBefore s.issue.job0 then stallOut s
      else if s.me.jobsBefore s.me.eng.ordNext || scope = 5 && !s.me.posted.isEmpty then
        .next (s.after (.efence scope s.me.eng.ordNext))
      else .next (s.efence s.cur scope)
    if scope = 5 then systemWait s k else k s

/-- CINV and CWB act on copies of lines homed on other dies and do nothing at a local address (R220); L1 holds nothing that is not at its home (log entry 97). -/
def cacheOp (f : State → Nat → Nat → State) (o : Ctl) (s : State) : Out :=
  guarded o.gw (srcReg o.a) s fun s =>
    let scope := orCode (o.i6.toNat / 8) s.me.ctlScope
    let s1 := s.noteLatches [o.a]
    match s1.resolve s1.cur s1.me.ctlSpace needR false (s.me.src o.a) with
    | .bad cause info => if cause = cALLOT then .next s1 else trapOut cause info s1
    | .ok (.mem k) => .next (if scopeWide scope && foreign (dieOf s1.cur) k then f s1 (dieOf s1.cur) (k / 64) else s1)
    | .ok _ => .next s1

def execCinv (o : Ctl) (s : State) : Out := cacheOp State.flushLine o s
def execCwb (o : Ctl) (s : State) : Out := cacheOp State.sendLine o s

/-- CPREF has no architected effect, never stalls and never traps (R221). -/
def execCpref (o : Ctl) (s : State) : Out :=
  .next (if s.me.guardTrue o.gw then s.noteLatches [o.a] else s.event 5)

end Sys2Proof.Machine
end

