-- ==== Sys2Proof/Machine/Control.lean ====
section
/-! DEFINITION. Transfers, the return-address store, hardware loops, system instructions and control-register access
(spec/04 R106 to R122, spec/07 R160, R164, R184, R185). What a bundle does after its syllables stands in
Machine/Issue.lean. -/

namespace Sys2Proof.Machine

/-! ## Hardware loops (R111 to R114) -/

/-- The completion of an iteration at a bundle whose next_bundle_start is `next` (R112): the successor, the loops that
stay active, innermost first, and those that end. -/
def loopDone (next : Word) : List Loop → Word × List Loop × List Loop
  | [] => (next, [], [])
  | l :: r =>
    if l.stop ≠ next then (next, l :: r, [])
    else if l.count.toNat ≤ 1 then
      let t := loopDone next r
      (t.1, t.2.1, l :: t.2.2)
    else (l.start, { l with count := l.count - 1#64, sched := 0#32 } :: r, [])

/-- The loops that a taken BR or JR to `t` leaves active, and those it ends (R113). -/
def loopJump (t : Word) : List Loop → List Loop × List Loop
  | [] => ([], [])
  | l :: r =>
    if l.start.toNat ≤ t.toNat && t.toNat < l.stop.toNat then (l :: r, [])
    else
      let u := loopJump t r
      (u.1, l :: u.2)

/-- The sequential successor of the bundle in issue (R112); back edges are suspended in a handler (R114). -/
def State.seqSucc (s : State) : Word :=
  if s.me.inTrap then s.issue.next else (loopDone s.issue.next s.me.loops).1

/-- A LOOP of the range [b, e) that would become active is refused (R114) (log entry 44). -/
def Core.loopRefused (x : Core) (b e : Word) : Bool :=
  x.inTrap || 4 ≤ x.loops.length || match x.loops with
    | [] => false
    | l :: _ =>
      b.toNat < l.stop.toNat && l.start.toNat < e.toNat && !(l.start.toNat ≤ b.toNat && e.toNat ≤ l.stop.toNat)

/-- LOOP (R111) (log entry 44). -/
def execLoop (o : LoopI) (s : State) : Out :=
  guarded o.gw (srcReg o.a) s fun s =>
    let n := s.me.src o.a
    let e := s.issue.addr + BitVec.ofNat 64 (4 * o.n.toNat)
    let s1 := s.noteLatches [o.a]
    if e.toNat ≤ s.issue.next.toNat then .next s1
    else if n = 0#64 then .next (s1.after (.jump e false))
    else if s.me.loopRefused s.issue.next e then encTrap cILLOP s1
    else .next (s1.after (.loop n o.n))

/-! ## The return-address store (R109) -/

/-- The eight doublewords of a spilled group, resolved; the first that faults decides. -/
def State.rasGroup (s : State) (space : Nat) (need : Need) (a : Word) : Sum (BitVec 6 × Word) (List (Target × Word)) :=
  (List.range 8).foldr (fun i acc =>
    let ea := a + BitVec.ofNat 64 (8 * i)
    match s.resolve s.cur space need false ea with
    | .bad cause info => .inl (cause, info)
    | .ok t => match acc with
      | .inl f => .inl f
      | .inr ts => .inr ((t, ea) :: ts)) (.inr [])

/-- A relaxed access of a spill or a refill. -/
def rasAccess (kind : AccKind) (space : Nat) (t : Target × Word) : Access :=
  { kind := kind, tgt := t.1, n := 8, ord := 1, scope := 1, ea := t.2, space := space, whole := false, key := 0#32, jobs := 0,
    done := none }

/-- An access that the core has outstanding to the bytes of the group must come first (log entry 45). -/
def Core.rasBlocked (x : Core) (ts : List (Target × Word)) : Bool :=
  x.outs.any fun a => a.done.isNone && ts.any fun t => a.meets (rasAccess (.read .none) 1 t)

/-- Write the doublewords of a group (log entry 45). -/
def State.rasWrite (s : State) (space : Nat) (ts : List (Target × Word)) (xs : List Word) : State :=
  (List.zip ts xs).foldl (fun a tx =>
    match a.performPlain a.cur [] (rasAccess (.write (tx.2.setWidth 256)) space tx.1) with
    | some r => r.2
    | none => a) s

/-- Read the doublewords of a group (log entry 45). -/
def State.rasRead (s : State) (space : Nat) (ts : List (Target × Word)) : List Word × State :=
  ts.foldl (fun r t =>
    match r.2.performPlain r.2.cur [] (rasAccess (.read .none) space t) with
    | some q => (r.1 ++ [q.1.setWidth 64], q.2)
    | none => r) ([], s)

/-- A group resolved: claims of banks first (R330), then accesses that must come first, those of the bundle itself performed at
once, then the transfer. -/
def rasTransfer (space : Nat) (need : Need) (a : Word) (s : State) (k : List (Target × Word) → State → Out) : Out :=
  match s.rasGroup space need a with
  | .inl (cause, info) => trapOut cause info s
  | .inr ts =>
    let owed := ts.flatMap fun t => s.owedBank t.1
    let s1 := if s.me.rasBlocked ts then s.ownFirst State.perform else s
    if !owed.isEmpty then claimOut owed s else if s1.me.rasBlocked ts then stallOut s else k ts s1

/-- Push a return address (log entry 45). -/
def pushRas (ra : Word) (s : State) (k : State → Out) : Out :=
  let c := s.me
  if c.ras.length < 16 then k (s.setMe { c with ras := c.ras ++ [ra] })
  else
    let g := c.rasSpill / 8
    let keep := c.ras.drop 8 ++ [ra]
    if g < 16 then
      rasTransfer 1 needW (c.spillBase + BitVec.ofNat 64 (64 * g)) s fun ts s =>
        let s1 := s.rasWrite 1 ts c.ras
        k (s1.setMe { s1.me with ras := keep, rasSpill := c.rasSpill + 8 })
    else if c.spillQuota.toNat < 64 then trapOut cALLOT (BitVec.ofNat 64 (2 ^ 61 + 1)) s
    else
      rasTransfer 2 needW c.spillOvf s fun ts s =>
        let s1 := s.rasWrite 2 ts c.ras
        k (s1.setMe { s1.me with ras := keep, rasSpill := c.rasSpill + 8, spillOvf := c.spillOvf + 64#64,
                                 spillQuota := c.spillQuota - 64#64 })

/-- Pop a return address (log entry 45). -/
def popRas (s : State) (k : Word → State → Out) : Out :=
  let c := s.me
  match c.ras.getLast? with
  | some ra => k ra (s.setMe { c with ras := c.ras.dropLast })
  | none =>
    if c.rasSpill = 0 then trapOut cRASEMPTY 0#64 s
    else
      let g := c.rasSpill / 8 - 1
      let go (s1 : State) (xs : List Word) : Out :=
        k (xs.getD 7 0#64) (s1.setMe { s1.me with ras := xs.take 7, rasSpill := c.rasSpill - 8 })
      if g < 16 then
        rasTransfer 1 needR (c.spillBase + BitVec.ofNat 64 (64 * g)) s fun ts s =>
          let r := s.rasRead 1 ts
          go r.2 r.1
      else
        rasTransfer 2 needR (c.spillOvf - 64#64) s fun ts s =>
          let r := s.rasRead 2 ts
          go (r.2.setMe { r.2.me with spillOvf := c.spillOvf - 64#64, spillQuota := c.spillQuota + 64#64 }) r.1

/-! ## Transfers (R106, R107) -/

/-- The target of BR and CALL. -/
def brTarget (o : Br) (s : State) : Word := s.issue.addr + o.off.signExtend 64 * 4#64

def execBr (o : Br) (s : State) : Out :=
  guarded (some o.g) [] s fun s => .next (s.after (.jump (brTarget o s) true))

def execCall (o : Br) (s : State) : Out :=
  guarded (some o.g) [] s fun s =>
    pushRas s.seqSucc s fun t => .next (t.after (.jump (brTarget o s) false))

/-- The target of a register transfer is aligned (log entry 43). -/
def aligned (t : Word) (s : State) (k : Out) : Out := if t.toNat % 4 ≠ 0 then trapOut cALIGN t s else k

def execJr (o : Ctl) (s : State) : Out :=
  guarded o.gw (srcReg o.a) s fun s =>
    let t := s.me.src o.a
    let s1 := s.noteLatches [o.a]
    aligned t s1 (.next (s1.after (.jump t true)))

def execJrl (o : Ctl) (s : State) : Out :=
  guarded o.gw (srcReg o.a) s fun s =>
    let t := s.me.src o.a
    let s1 := s.noteLatches [o.a]
    aligned t s1 (pushRas s1.seqSucc s1 fun u => .next (u.after (.jump t false)))

def execRet (o : Ctl) (s : State) : Out :=
  guarded o.gw [] s fun s => popRas s fun t u => aligned t s (.next (u.after (.jump t false)))

/-! ## System instructions (R116 to R120) -/

/-- NOP has no effect. -/
def execNop (o : Ctl) (s : State) : Out := guarded o.gw [] s fun s => .next s

/-- A hint of a segment that is not resident waits for the loader; a number beyond the segment table is ignored (R120, R173). -/
def State.hint (s : State) (n : Nat) : State :=
  let d := s.dome (domeKey s.cur)
  if isSup s.cur || s.dev (dieOf s.cur) s.me.segTab.toNat 8 % 2 ^ 12 ≤ n || d.hints.contains n || d.segs.any (fun g => g.num = n && !g.stale)
  then s
  else s.setDome (domeKey s.cur) { d with hints := d.hints ++ [n] }

/-- SEGHINT has no architected effect: the loader takes note (R120) (log entry 29). -/
def execSeghint (o : Ctl) (s : State) : Out :=
  guarded o.gw (srcReg o.a) s fun s => .next ((s.noteLatches [o.a]).hint (s.me.src o.a).toNat)

def execJoinAll (o : Ctl) (s : State) : Out := guarded o.gw [] s fun s => .next (s.after (.join false o.i6))
def execJoinAny (o : Ctl) (s : State) : Out := guarded o.gw [] s fun s => .next (s.after (.join true o.i6))

/-- LEN of TRAP and BRK (R117). -/
def lenCode (s : State) (code : Nat) : Word := BitVec.ofNat 64 (s.issue.len * 256 + code)

def execTrap (o : Ctl) (s : State) : Out := guarded o.gw [] s fun s => trapOut cTRAPI (lenCode s o.i6.toNat) s
def execBrk (o : Ctl) (s : State) : Out := guarded o.gw [] s fun s => trapOut cBRK (lenCode s 0) s

def execIfence (o : Ctl) (s : State) : Out := guarded o.gw [] s fun s => .next (s.after .ifence)

def execRft (o : Ctl) (s : State) : Out :=
  guarded o.gw [] s fun s => if s.me.inTrap then .next (s.after .rft) else encTrap cILLOP s

/-- EXIT waits for the acknowledgements of the core's remote accesses (R195); those of its own bundle, and stores that are not
performed, hold it up after the bundle (`State.exitTurn`). -/
def execExit (o : Ctl) (s : State) : Out := guarded o.gw [] s fun s => systemWait s fun s => .next (s.after .exit)

/-- The guards that the cores of a dome have shown for the bundle in issue (R160). -/
def State.guardsShown (s : State) : List (Nat × Bool) :=
  ((s.dome (domeKey s.cur)).guards.filter fun g => g.1 = s.issue.seq).map Prod.snd

/-- The core shows its guard (log entry 26). -/
def State.showGuard (s : State) (b : Bool) : State :=
  let dm := domeKey s.cur
  let d := s.dome dm
  s.setDome dm { d with guards := (d.guards.filter fun g => !(g.1 = s.issue.seq && g.2.1 = s.cur)) ++ [(s.issue.seq, s.cur, b)] }

/-- A guard that is the same on every core, as it reads no predicate but p0. -/
def fixedGuard (g : Option Guard) : Bool := match g with | none => true | some g => g.g = 0#5

/-- DETACHED with its reason (R160). -/
def detachedOut (n : Nat) (s : State) : Out := trapOut cDETACHED (BitVec.ofNat 64 n) s

/-- A dome-uniform instruction (R160): the core traps unless every core is attached and every guard is true; a core
whose guard is true waits until the others have shown theirs, and a core that has shown its guard for this bundle stood attached at
it. `single` says that the instruction raises DETACHED in a private-kind continuation (R177) (log entries 26 and 28). -/
def uniform (single : Bool) (g : Option Guard) (s : State) (k : State → Out) : Out :=
  let c := s.me
  let cs := domeCores (domeKey s.cur)
  let seen := s.guardsShown.map Prod.fst
  let whole := !isSup s.cur && c.join = .attached &&
    cs.all fun x => seen.contains x || (s.core x).join = .attached && (s.core x).run ≠ .stopped
  let s1 := if whole then s.showGuard (c.guardTrue g) else s
  guarded g [] s1 fun s =>
    let shown := s.guardsShown
    if c.join ≠ .attached || isSup s.cur then detachedOut 0 s
    else if !whole then detachedOut 1 s
    else if !fixedGuard g && shown.any (fun x => !x.2) then detachedOut 2 s
    else if !fixedGuard g && cs.any (fun x => !(shown.map Prod.fst).contains x) then stallOut s
    else if single && (s.dome (domeKey s.cur)).run = .priv then detachedOut 3 s
    else k s

def execSuspend (o : Ctl) (s : State) : Out :=
  uniform true o.gw s fun s => systemWait s fun s => .next (s.after .suspend)
def execYield (o : Ctl) (s : State) : Out := uniform true o.gw s fun s => systemWait s fun s => .next (s.after .yield)
def execDsync (o : Ctl) (s : State) : Out := uniform false o.gw s fun s => .next (s.after .dsync)

/-! ## Control registers (R121, R122) -/

def execMfc (o : Ctl) (s : State) : Out :=
  guarded o.gw (dstReg o.w o.d) s fun s => .next (s.putS o.w o.d 1 (s.crNow o.i6.toNat))

/-- The control registers that only a supervisor core writes (R26). -/
def crPriv (n : Nat) : Bool := n = 4 || n = 8 || n = 16 || n = 18 || n = 23

/-- MTC, MSET and MCLR: FMT takes four issue cycles (R30). -/
def writeCrOp (f : Word → Word → Word) (o : Ctl) (s : State) : Out :=
  guarded o.gw (srcReg o.a) s fun s =>
    let n := o.i6.toNat
    let s1 := s.noteLatches [o.a]
    if crPriv n && !isSup s.cur then trapOut cPRIV (BitVec.ofNat 64 n) s1
    else .next (s1.post (if n = 2 then 4 else 1) (.cr o.i6 (f (s.crNow n) (s.me.src o.a))))

def execMtc (o : Ctl) (s : State) : Out := writeCrOp (fun _ a => a) o s
def execMset (o : Ctl) (s : State) : Out := writeCrOp (fun x a => x ||| a) o s
def execMclr (o : Ctl) (s : State) : Out := writeCrOp (fun x a => x &&& ~~~a) o s

/-! ## Prefixes (R48 to R50) -/

/-- PFXM: its fields hold for the next syllable; `step` drops them after it. -/
def execPfxm (o : PfxM) (s : State) : Out := .next { s with issue := { s.issue with pm := some o } }

/-- PFXA. -/
def execPfxa (o : PfxA) (s : State) : Out := .next { s with issue := { s.issue with pa := some o } }

end Sys2Proof.Machine
end

