-- ==== Sys2Proof/Machine/Deferral.lean ====
section
/-! DEFINITION. The deferral queue (spec/07 R168 to R171). The rings of spilled elements stand in `dqSpill`; their layout
in memory is not architected (R180; log entry 18). -/

namespace Sys2Proof.Machine

def Core.path (x : Core) (p : Nat) : List DqElem := x.dq.toList.getD p []
def Core.spilled (x : Core) (p : Nat) : List DqElem := x.dqSpill.toList.getD p []
def Core.onChip (x : Core) : Nat := (x.dq.toList.map List.length).sum

/-- Append one element to a path: on chip where nothing of the path is spilled and there is room (R168) (log entry 18). -/
def Core.defer1 (x : Core) (p : Nat) (e : DqElem) : Core :=
  if (x.spilled p).isEmpty && x.onChip < 4096 then { x with dq := x.dq.setIfInBounds p (x.path p ++ [e]) }
  else { x with dqSpill := x.dqSpill.setIfInBounds p (x.spilled p ++ [e]) }

/-- NV and PATH (R169). -/
def dqNv (o : Vec) : Nat := (vx o).x8.toNat % 4
def dqPath (o : Vec) : Nat := (vx o).x8.toNat / 4 % 4

def dqLanes (o : Vec) : Nat := vWidth o.wd / 32

/-- DEFER: ALLOT, before any lane is appended, where QPOOL lacks 32 bytes for an element to spill or the path would
pass 2^32 - 1 elements (R170). -/
def execDefer (o : Vec) (s : State) : Out :=
  let regs := (List.range (dqNv o + 1)).map fun k => Reg.v (o.va + BitVec.ofNat 5 k)
  guarded (o.ext.map VecX.g) (.v o.vb :: regs ++ maskReg (vx o).msk) s fun s =>
    let x := s.me
    let p := dqPath o
    let b := vBase o.lg
    let els := ((List.range (dqLanes o)).filter fun i => laneOn (s.vMask o) (b + 32 * i)).map fun i =>
      let get (r : BitVec 5) : Nat := vGet (x.getV r) (b + 32 * i) 32
      { tag := BitVec.ofNat 16 (get o.vb),
        vals := (List.range (dqNv o + 1)).map fun k => BitVec.ofNat 32 (get (o.va + BitVec.ofNat 5 k)) : DqElem }
    let y := els.foldl (fun a e => a.defer1 p e) x
    let spills := (y.spilled p).length - (x.spilled p).length
    let total := (y.path p).length + (y.spilled p).length
    let pool := s.me.region.map Region.pool
    let have32 := match pool with
      | some q => 32 * spills ≤ s.dev (dieOf s.cur) q 8
      | none => false
    if 2 ^ 32 ≤ total || 0 < spills && !have32 then trapOut cALLOT (BitVec.ofNat 64 (2 ^ 61)) s
    else
      let s1 := s.setMe y
      .next (match pool with
        | some q => if spills = 0 then s1 else s1.pool (dieOf s.cur) q (-(32 * spills : Nat))
        | none => s1)

/-- DQCNT: the counts at the issue of the bundle. -/
def execDqcnt (o : Vec) (s : State) : Out :=
  guarded (o.ext.map VecX.g) [.v o.vd] s fun s =>
    let n := s.issue.dqc.getD (dqPath o) (0, 0)
    let b := vBase o.lg
    .next (s.post 1 (.v o.vd (vOnes b 64) (vAt b 32 n.1 ||| vAt (b + 32) 32 (min (n.1 + n.2) 0xFFFFFFFF))))

/-- DQDRAIN: up to n elements on chip leave the path; empty lanes read 0 with the tag 0xFFFF_FFFF (log entry 46). -/
def execDqdrain (o : Vec) (s : State) : Out :=
  let regs := (List.range (dqNv o + 1)).map fun k => Reg.v (o.vd + BitVec.ofNat 5 k)
  guarded (o.ext.map VecX.g) (.v o.vb :: regs) s fun s =>
    let x := s.me
    let p := dqPath o
    let n := dqLanes o
    let b := vBase o.lg
    let got := (x.path p).take n
    let lane (f : Option DqElem → Nat) : VReg :=
      (List.range n).foldl (fun a i => a ||| vAt (b + 32 * i) 32 (f (got[i]?))) 0#1024
    let s1 := s.setMe { x with dq := x.dq.setIfInBounds p ((x.path p).drop n) }
    let s2 := (List.range (dqNv o + 1)).foldl (fun a k =>
      a.post 1 (.v (o.vd + BitVec.ofNat 5 k) (vOnes b (32 * n)) (lane fun e => match e with
        | some e => (e.vals.getD k 0#32).toNat
        | none => 0))) s1
    .next (s2.post 1 (.v o.vb (vOnes b (32 * n)) (lane fun e => match e with
      | some e => e.tag.toNat
      | none => 0xFFFFFFFF)))

/-- The oldest spilled elements of a path return on chip while there is room, crediting QPOOL (R168, R170) (log entry 18). -/
def State.refillDq (s : State) (c p : Nat) : State :=
  let x := s.core c
  let n := min (x.spilled p).length (4096 - x.onChip)
  let s1 := s.setCore c { x with dq := x.dq.setIfInBounds p (x.path p ++ (x.spilled p).take n),
                                 dqSpill := x.dqSpill.setIfInBounds p ((x.spilled p).drop n) }
  match x.region with
  | some g => if n = 0 then s1 else s1.pool (dieOf c) g.pool (32 * n : Nat)
  | none => s1

end Sys2Proof.Machine
end

