-- ==== Sys2Proof/Machine/Domes.lean ====
section
/-! DEFINITION. The Meridian stream (spec/07 R153 to R174): the words of a bundle, segments and finders, delivery, the
outcomes that the lead core gives, barriers, JOIN and the re-forming of an empty stream. -/

namespace Sys2Proof.Machine

/-! ## The words of a bundle (R33) -/

/-- The words of the bundle at an address as far as R33 reads them, by what each word address holds; or the first
address that has none. A bundle over its limits ends with word 0 of the syllable past them. -/
def gather (rd : Nat → Option Half) : Nat → Nat → Nat → Nat → Sum Nat (List Half)
  | 0, _, _, _ => .inr []
  | fuel + 1, a, n, bits =>
    match rd a with
    | none => .inl a
    | some w0 =>
      let len := if longOf w0 then 64 else 32
      if 8 < n + 1 || 256 < bits + len then .inr [w0]
      else
        let rest (b : Nat) : Sum Nat (List Half) := if endOf w0 then .inr [] else gather rd fuel b (n + 1) (bits + len)
        if longOf w0 then
          match rd (a + 4) with
          | none => .inl (a + 4)
          | some w1 => match rest (a + 8) with
            | .inl x => .inl x
            | .inr ws => .inr (w0 :: w1 :: ws)
        else
          match rest (a + 4) with
          | .inl x => .inl x
          | .inr ws => .inr (w0 :: ws)

/-- The syllables of a bundle's words: word 0 and word 1, which is 0 in a 32-bit syllable. -/
def syllables : List Half → List (Half × Half)
  | [] => []
  | [w0] => [(w0, 0#32)]
  | w0 :: w1 :: r => if longOf w0 then (w0, w1) :: syllables r else (w0, 0#32) :: syllables (w1 :: r)

/-- The position of the first syllable past the limits of R33 (log entry 61). -/
def overlong : List (Half × Half) → Nat → Nat → Option Nat
  | [], _, _ => none
  | w :: r, n, bits =>
    let len := if longOf w.1 then 64 else 32
    if 8 < n + 1 || 256 < bits + len then some n else overlong r (n + 1) (bits + len)

/-- next_bundle_start (R33). -/
def bundleNext (addr : Word) (ws : List Half) : Word := addr + BitVec.ofNat 64 (4 * ws.length)

/-! ## Segments (R172 to R174) -/

/-- A row of the segment table at `tab` (Table 7-8): VBASE, LEN, IMAGE and PIN. -/
def State.segRow (s : State) (die : Nat) (tab : Word) (n : Nat) : Word × Nat × BitVec 52 × Bool :=
  let f (off : Nat) : Nat := s.dev die (tab.toNat + 64 + 32 * n + off) 8
  (BitVec.ofNat 64 (f 0 % 2 ^ 52), f 8 % 2 ^ 20, BitVec.ofNat 52 (f 16), (f 24).testBit 0)

/-- The lowest segment whose range holds an address; none in the scratchpad window (R173). -/
def State.segOf (s : State) (die : Nat) (tab : Word) (a : Nat) : Option Nat :=
  if inWindow a then none
  else (List.range (s.dev die tab.toNat 8 % 2 ^ 12)).find? fun n =>
    let r := s.segRow die tab n
    r.1.toNat ≤ a && a < r.1.toNat + r.2.1

/-- A resident segment holds an address. -/
def Segment.holds (g : Segment) (a : Nat) : Bool := g.base.toNat ≤ a && a < g.base.toNat + g.len

/-- The resident segment that serves a fetch: not stale, the lowest of several. -/
def Dome.server (d : Dome) (a : Nat) : Option Segment :=
  (d.segs.filter fun g => !g.stale && g.holds a).foldl (fun m g => match m with
    | none => some g
    | some x => if g.num < x.num then some g else some x) none

/-- The word at an address in instruction memory. -/
def Dome.word? (d : Dome) (a : Nat) : Option Half :=
  if inWindow a then none
  else (d.server a).map fun g => BitVec.ofNat 32 (Memory.read g.bytes (a - g.base.toNat) 4)

/-- A fetch of the stream or of a finder, which last fetched from segment `old`, at an address: a segment that it thereby moves into is
the one entered last (R173). The segment that it fetches from now is the second part. -/
def Dome.enter (d : Dome) (old : Option Nat) (a : Nat) : Dome × Option Nat :=
  match d.server a with
  | none => (d, old)
  | some g =>
    if old = some g.num then (d, old)
    else ({ d with segs := (d.segs.filter fun x => x.num ≠ g.num) ++ (d.segs.filter fun x => x.num = g.num) }, some g.num)

/-- The finder of a core fetches at its next address; a core of the stream has no finder address. -/
def State.enterAt (s : State) (c : Nat) : State :=
  let x := s.core c
  if isSup c then s
  else
    let r := (s.dome (domeKey c)).enter x.seg x.next.toNat
    if r.2 = x.seg then s else (s.setDome (domeKey c) r.1).setCore c { x with seg := r.2 }

/-- A core fetches from its finder: outside the stream, or in a handler while held (R157, R158). -/
def Core.finds (x : Core) : Bool := x.join = .detached || x.join = .held

/-- The stream of a dome is not empty. -/
def State.streaming (s : State) (dm : Nat) : Bool := (s.lead? dm).isSome

/-- The addresses that the stream and the finders of a dome fetch next. -/
def State.nextFetches (s : State) (dm : Nat) : List Nat :=
  (if s.streaming dm then [(s.dome dm).fe.toNat] else []) ++
    ((domeCores dm).map s.core).filterMap fun x => if x.finds then some x.next.toNat else none

/-- Evict segments, least recently entered first, until `len` bytes fit; pinned ones and those in use stay. -/
def evict (used : List Nat) (len : Nat) : Nat → List Segment → Option (List Segment)
  | 0, _ => none
  | n + 1, gs =>
    if (gs.map Segment.len).sum + len ≤ 2 ^ 19 then some gs
    else
      match gs.find? fun g => !g.pin && !used.any g.holds with
      | none => none
      | some g => evict used len n (gs.filter fun x => x.num ≠ g.num)

/-- `n` lines of 64 bytes from `va` on, as a fetch of a core may read them (R324); none where one may not be fetched (log entry 53). -/
def State.image? (s : State) (c va : Nat) : Nat → Option (List Host.Cell)
  | 0 => some []
  | n + 1 =>
    match s.image? c va n with
    | none => none
    | some m =>
      match s.device (dieOf c) (isSup c) (s.launch? (s.core c).launch) needX false (BitVec.ofNat 64 (va + 64 * n)) with
      | .ok (.mem k) => some (Memory.write m (64 * n) 64 (s.seen (dieOf c) k 64))
      | _ => none

/-- The finder lines of a dome that lie in a range become invalid. -/
def State.dropLines (s : State) (dm lo hi : Nat) : State :=
  (domeCores dm).foldl (fun a c =>
    let x := a.core c
    a.setCore c { x with finder := x.finder.filter fun l => !(lo ≤ 64 * l.1 && 64 * l.1 < hi) }) s

/-- The loader serves a fetch of core `c` at an address (R173): the state with the segment resident, or TRAPINFO of
FETCH: 1 for no segment, 2 for no room, the address where the image may not be fetched (log entry 53). -/
def State.loadSegment (s : State) (c a : Nat) : Sum Word State :=
  let dm := domeKey c
  let tab := (s.core c).segTab
  match s.segOf (dieOf c) tab a with
  | none => .inl 1#64
  | some n =>
    let (base, len, img, pin) := s.segRow (dieOf c) tab n
    let d := s.dome dm
    match evict (s.nextFetches dm) len (d.segs.length + 1) (d.segs.filter fun g => g.num ≠ n) with
    | none => .inl 2#64
    | some gs =>
      match s.image? c img.toNat (len / 64) with
      | none => .inl (BitVec.ofNat 64 a)
      | some m =>
        let g : Segment := { num := n, base := base, len := len, image := img, pin := pin, stale := false, bytes := m }
        .inr ((s.setDome dm { d with segs := gs ++ [g] }).dropLines dm base.toNat (base.toNat + len))

/-! ## Finders (R157) -/

/-- The word at an address in a core's finder; the scratchpad window holds no code (R173). -/
def Core.finderWord (x : Core) (a : Nat) : Option Half :=
  if inWindow a then none
  else (tabGet? x.finder (a / 64)).map fun (l : BitVec 512) => (l >>> (8 * (a % 64))).setWidth 32

/-- Put a line into the finder of a core; of 256 lines the lowest-numbered one makes room (log entry 54). -/
def Core.putLine (x : Core) (n : Nat) (l : BitVec 512) : Core :=
  { x with finder := tabPut (if x.finder.length < 256 then x.finder else x.finder.drop 1) n l }

/-- The finder of a core asks for the line of an address: the line from instruction memory, else its segment is loaded; a
supervisor core, which stands outside the domes, reads the line from the image (log entries 53 and 54). -/
def State.fillFinder (s : State) (c a : Nat) : Sum Word State :=
  let x := s.core c
  if isSup c then
    match s.segOf (dieOf c) x.segTab a with
    | none => .inl 1#64
    | some n =>
      let (base, _, img, _) := s.segRow (dieOf c) x.segTab n
      match s.image? c (img.toNat + (a / 64 * 64 - base.toNat)) 1 with
      | none => .inl (BitVec.ofNat 64 a)
      | some m => .inr (s.setCore c (x.putLine (a / 64) (BitVec.ofNat 512 (Memory.read m 0 64))))
  else
    match if inWindow a then none else (s.dome (domeKey c)).server a with
    | none => s.loadSegment c a
    | some g =>
      .inr (s.setCore c (x.putLine (a / 64) (BitVec.ofNat 512 (Memory.read g.bytes (a / 64 * 64 - g.base.toNat) 64))))

/-! ## Delivery (R153 to R155) -/

/-- What the front end sees in the words of a bundle: the target of a fixed transfer, whether the lead core resolves its
successor, whether it holds a JOIN, what its control syllable does with the dome, and whether it holds a vote. -/
structure Shape where
  fixed : Option Word
  res   : Bool
  join  : Bool
  meet  : Option Meet
  vote  : Bool
  deriving DecidableEq, Repr

def Shape.plain : Shape := { fixed := none, res := false, join := false, meet := none, vote := false }

/-- GN and G as one field: in word 0 of BR and CALL, else in word 1. -/
def guardField (w : Half × Half) : BitVec 6 :=
  if majOf w.1 = 0x16 || majOf w.1 = 0x17 then w.1.extractLsb' 8 6 else if longOf w.1 then w.2.extractLsb' 0 6 else 0#6

/-- What one syllable adds to the shape of the bundle at `addr` that ends at `next`. -/
def Shape.add (addr next : Word) (h : Shape) (w : Half × Half) : Shape :=
  let maj := majOf w.1
  let fn4 := (w.1.extractLsb' 22 4).toNat
  let free := guardField w = 0#6
  if maj = 0x16 || maj = 0x17 then
    if free then { h with fixed := some (addr + (w.1.extractLsb' 14 18).signExtend 64 * 4#64) } else { h with res := true }
  else if maj = 0x18 then { h with res := true }
  else if maj = 0x19 then
    if next.toNat < (addr + BitVec.ofNat 64 (4 * (w.1.extractLsb' 22 10).toNat)).toNat then { h with res := true } else h
  else if maj = 0x1A then
    match fn4 with
    | 1 => { h with join := true, res := h.res || !free }
    | 2 => { h with meet := some .suspend }
    | 3 => { h with meet := some .yield }
    | 7 => { h with meet := some .dsync }
    | 8 => { h with meet := some .ifence }
    | _ => h
  else if maj = 0x10 && 5 ≤ (w.1.extractLsb' 29 3).toNat && (w.1.extractLsb' 29 3).toNat ≤ 6 then { h with vote := true }
  else h

def shapeOf (addr : Word) (ws : List Half) : Shape :=
  (syllables ws).foldl (Shape.add addr (bundleNext addr ws)) Shape.plain

/-- The cores that take part in the stream of a dome. -/
def State.inStream (s : State) (dm : Nat) : List Nat := (domeCores dm).filter fun c => (s.core c).inStream

/-- A core of the stream has an active loop that ends with the bundle (R112). -/
def State.loopEnds (s : State) (dm : Nat) (next : Word) : Bool :=
  (s.inStream dm).any fun c => (s.core c).loops.any fun l => l.stop = next

/-- The front end has the words of the bundle numbered `seq`: the entry in each queue that holds it, and where the front
end stands thereafter. -/
def State.expand (s : State) (dm seq : Nat) (addr : Word) (ws : List Half) : State :=
  let d := s.dome dm
  let next := bundleNext addr ws
  let h := shapeOf addr ws
  let long := (overlong (syllables ws) 0 0).isSome
  let res := h.res || h.fixed.isNone && s.loopEnds dm next
  let cs := s.inStream dm
  let fe := if long then addr else h.fixed.getD next
  let bar : Option Barrier := if h.meet.isSome || h.vote then
      some { seq := seq, kind := h.meet, live := false, vote := h.vote, next := next, missing := cs, votes := [] }
    else none
  let d1 := { d with fe := fe, awaits := if res || h.join || long then some seq else none, barrier := bar }
  let s1 := s.setDome dm d1
  cs.foldl (fun a c =>
    let x := a.core c
    a.setCore c { x with queue := x.queue.map fun q => if q.seq = seq then { q with ws := ws, res := res } else q }) s1

/-- The front end may deliver: a stream that it is not held up in, and no queue that holds 32 bundles (R153). -/
def State.canDeliver (s : State) (dm : Nat) : Bool :=
  let d := s.dome dm
  (match d.run with | .dome _ => true | .priv => true | _ => false) && s.streaming dm && d.awaits.isNone &&
    d.open?.isNone && d.barrier.isNone && d.asked.isNone && (s.inStream dm).all fun c => (s.core c).queue.length < 32

/-- The front end delivers the next bundle to every core of the stream (R153); it first has its segment loaded. A bundle
that cannot be fetched is delivered without words, and raises FETCH on each core that would issue it. The second part
tells whether a bundle was delivered (log entry 64). -/
def State.deliver (s : State) (dm : Nat) : State × Bool :=
  let d := s.dome dm
  let put (s : State) : State :=
    let boss := s.lead? dm
    let s1 := s.setDome dm { s.dome dm with seq := d.seq + 1, awaits := some d.seq, boss := boss }
    (s1.inStream dm).foldl (fun a c =>
      let x := a.core c
      a.setCore c { x with queue := x.queue ++
        [{ seq := d.seq, addr := d.fe, ws := [], res := false, lead := none, boss := boss, again := false }] }) s1
  if !s.canDeliver dm then (s, false)
  else match gather d.word? 9 d.fe.toNat 0 0 with
  | .inr ws =>
    let r := d.enter d.feSeg d.fe.toNat
    ((put (s.setDome dm { r.1 with feSeg := r.2 })).expand dm d.seq d.fe ws, true)
  | .inl a =>
    match s.loadSegment ((s.lead? dm).getD 0) a with
    | .inr t => (t, false)
    | .inl _ => (put s, true)

/-! ## Outcomes (R155, R156) -/

/-- The core leaves the stream after its bundle; one that has issued a JOIN with a true guard waits at it (R164) (log entry 25). -/
def State.leave (s : State) (c : Nat) (pc : Word) : State :=
  let s1 := s.detachTo c pc
  let x := s1.core c
  s1.setCore c (match x.wait with | .join .. => { x with join := .waiting } | _ => x)

/-- The lead core's outcome of the bundle `seq`: the front end goes on along its path, unless a JOIN holds it, and the
cores that had another outcome leave. -/
def State.resolve' (s : State) (dm seq : Nat) (o : Outcome) (joined : Bool) : State :=
  let d := s.dome dm
  let s1 := s.setDome dm { d with fe := o.succ, awaits := if joined then d.awaits else none }
  (s1.inStream dm).foldl (fun a c =>
    let x := a.core c
    let y := { x with queue := x.queue.map fun q => if q.seq = seq then { q with lead := some o } else q, own := [] }
    match x.own.find? fun p => p.1 = seq with
    | none => a.setCore c { y with own := x.own }
    | some p => if p.2 = o then a.setCore c y else (a.setCore c y).leave c p.2.succ) s1

/-- A core of the stream has issued a bundle whose successor the lead resolves (log entry 55). -/
def State.outcome (s : State) (c : Nat) (q : Delivered) (o : Outcome) (joined : Bool) : State :=
  let dm := domeKey c
  match q.lead with
  | some l => if l = o then s else s.leave c o.succ
  | none =>
    if s.lead? dm = some c then
      s.resolve' dm q.seq o joined
    else s.setCore c { s.core c with own := [(q.seq, o)] }

/-! ## JOIN (R159, R162 to R165) -/

/-- The core has issued the stream's JOIN, or waits at a JOIN. -/
def Core.atJoin (x : Core) : Option (Bool × BitVec 6 × Word) :=
  match x.wait with
  | .join any tag addr => some (any, tag, addr)
  | _ => none

/-- The open JOIN lets its cores go on: the waiting cores at its address with its tag reattach, and every attached core
that has issued it starts anew with no latches and an empty queue (log entry 55). -/
def State.joinDone (s : State) (dm : Nat) (o : JoinOpen) : State :=
  let d := s.dome dm
  let det := if o.any then d.det else d.det.setIfInBounds o.tag.toNat 0#16
  let s1 := s.setDome dm { d with open? := none, awaits := none, det := det }
  (domeCores dm).foldl (fun a c =>
    let x := a.core c
    let mine : Bool := match x.atJoin with | some j => j.2.1 = o.tag && j.2.2 = o.addr | none => false
    if x.join = .waiting && mine then
      a.setCore c ({ x.settle.noLatches with join := .attached, wait := .none, waited := 0, queue := [] }.bumpBut (s.pmcKept c) 9 1 d.fe)
    else if x.join = .attached && x.run ≠ .stopped && mine then
      a.setCore c ({ x.settle.noLatches with wait := .none, waited := 0 }.bumpBut (s.pmcKept c) 9 1 d.fe)
    else if x.join = .attached && mine then a.setCore c { x with wait := .none }
    else a) s1

/-- Every attached core that runs has issued the JOIN (log entry 55). -/
def State.allIssued (s : State) (dm : Nat) : Bool :=
  (domeCores dm).all fun c =>
    let x := s.core c
    !(x.join = .attached && x.run ≠ .stopped) || x.atJoin.isSome

/-- JOIN.ALL completes (R162) (log entry 55). -/
def State.joinReady (s : State) (dm : Nat) (o : JoinOpen) : Bool :=
  s.allIssued dm && (domeCores dm).all fun c =>
    let x := s.core c
    !x.isHeld && (!(((s.dome dm).det[o.tag.toNat]?).getD 0#16).getLsbD (coreIx c) || x.join = .attached || x.join = .exited ||
      x.join = .waiting && (match x.atJoin with | some j => j.2.1 = o.tag && j.2.2 = o.addr | none => false))

/-- JOIN.ANY closes early (R163): no core is detached or held (log entry 55). -/
def State.joinEarly (s : State) (dm : Nat) : Bool :=
  (domeCores dm).all fun c => (s.core c).join ≠ .detached && !(s.core c).isHeld

/-- JOIN.ALL completes where it may. -/
def State.joinComplete (s : State) (dm : Nat) : State :=
  match (s.dome dm).open? with
  | some o => if !o.any && s.joinReady dm o then s.joinDone dm o else s
  | none => s

/-- The window of a JOIN.ANY closes: early where it may, or as its cycles have passed; an attached core that has yet to issue the JOIN then
finds it closed. -/
def State.joinClose (s : State) (dm : Nat) (over' : Bool) : State :=
  match (s.dome dm).open? with
  | some o => if o.any && (over' || s.joinEarly dm) then s.joinDone dm o else s
  | none => s

/-- One cycle of the window of a JOIN.ANY, counted by the lead core; it closes at the end of the 255th after the one in which it
opened (R163). -/
def State.joinTick (s : State) (c : Nat) : State :=
  let dm := domeKey c
  let d := s.dome dm
  match d.open? with
  | none => s
  | some o =>
    if s.lead? dm ≠ some c then s
    else match o.left with
    | some (n + 1) => s.setDome dm { d with open? := some { o with left := some n } }
    | some 0 => s.joinClose dm true
    | none => s

/-- A JOIN opens as the lead core has issued it. -/
def State.openJoin (s : State) (dm : Nat) : State :=
  let d := s.dome dm
  match d.awaits, d.open?, s.lead? dm with
  | some k, none, some c =>
    let x := s.core c
    match x.atJoin with
    | some (any, tag, addr) =>
      if x.join = .attached && x.own.isEmpty then
        s.setDome dm { d with open? := some { seq := k, any := any, tag := tag, addr := addr,
                                              left := if any then some 254 else none } }
      else s
    | none => s
  | _, _, _ => s

/-- The votes of a bundle are answered: each position holds its own vote. -/
def State.answerVotes (s : State) (vs : List Vote) : State :=
  vs.foldl (fun a v =>
    let mine := vs.filter fun u => u.pos = v.pos
    let r := if v.all then mine.all Vote.b else mine.any Vote.b
    let x := a.core v.core
    let y := if v.w then x.setP v.d r else x
    let keep := x.join = .attached && x.run ≠ .stopped
    a.setCore v.core
      (if keep then { y with latches := y.latches.setIfInBounds v.pos (some (if r then 1#64 else 0#64)) } else y)) s

/-- An empty stream is re-formed by the lowest core that waits at a JOIN (R159) (log entry 58). -/
def State.reform (s : State) (dm : Nat) : State :=
  if s.streaming dm then s
  else
    let s1 := match (s.dome dm).barrier with | some b => s.answerVotes b.votes | none => s
    let d := { s1.dome dm with awaits := none, open? := none, barrier := none }
    match (domeCores dm).find? fun c => (s1.core c).join = .waiting with
    | none => s1.setDome dm d
    | some c =>
      let x := s1.core c
      (s1.setDome dm { d with fe := x.next, awaits := some d.seq, seq := d.seq + 1 }).setCore c
        { x with join := .attached, queue := [], own := [] }

/-! ## Barriers (R98, R116, R119, R184) -/

/-- The segments for which `f` holds become stale, and the finder lines that they serve invalid (R119, R174) (log entry 29). -/
def State.stale (s : State) (dm : Nat) (f : Segment → Bool) : State :=
  let d := s.dome dm
  let s1 := s.setDome dm { d with segs := d.segs.map fun g => { g with stale := g.stale || f g } }
  (d.segs.filter f).foldl (fun a g => a.dropLines dm g.base.toNat (g.base.toNat + g.len)) s1

/-- The IFENCE of the stream: everything in the instruction memory of the dome and in the finders of the cores of the stream is
fetched again (R119, R157, R174) (log entry 29). -/
def State.staleAll (s : State) (dm : Nat) : State :=
  (s.inStream dm).foldl (fun a c => a.setCore c { a.core c with finder := [] }) (s.stale dm fun _ => true)

/-- A core outside the stream has issued an IFENCE: its finder, the segments that it fetches from next and, for a held core, the bundles
of its queue and where the front end stands are fetched again (R119, R174). A supervisor core fetches from no segment of a dome. -/
def State.fenceFetch (s : State) (c : Nat) : State :=
  let x := s.core c
  let at' := x.next.toNat :: (if x.join = .held then (s.dome (domeKey c)).fe.toNat :: x.queue.map fun q => q.addr.toNat else [])
  let s1 := s.setCore c { x with finder := [], queue := x.queue.map fun q => { q with again := !q.ws.isEmpty } }
  if isSup c then s1 else s1.stale (domeKey c) fun g => at'.any g.holds

/-- The barrier completes as no core is missing. A SUSPEND or YIELD first has every access of the dome performed and every remote write acknowledged (R195), and waits
while a ready queue has no room (log entries 29 and 57). -/
def State.barrierDone (s : State) (dm : Nat) (b : Barrier) : State :=
  let s1 := s.answerVotes b.votes
  let clear (s : State) : State := s.setDome dm { s.dome dm with barrier := none }
  let stop (yield : Bool) : State :=
    let t := (domeCores dm).foldl (fun a c => (a.drainOuts c).traceAll c 16) s1
    if (domeCores dm).any fun c => !(t.core c).outs.isEmpty || !(t.core c).posted.isEmpty then t else (t.suspend? dm yield b.next).getD t
  if !b.live then clear s1
  else match b.kind with
  | some .suspend => stop false
  | some .yield => stop true
  | some .ifence => clear (s1.staleAll dm)
  | _ => clear s1

/-- A core of the stream has issued the bundle of the barrier: `done` tells whether its control syllable took effect. Where
a guard let a dome-uniform syllable do nothing the front end goes on (R160). -/
def State.passBarrier (s : State) (c seq : Nat) (done : Bool) (votes : List Vote) : State :=
  let dm := domeKey c
  let d := s.dome dm
  match d.barrier with
  | none => s
  | some b =>
    if b.seq ≠ seq then s
    else
      let kind := if done || b.kind = some .ifence then b.kind else none
      let b1 := { b with kind := kind, live := b.live || done, missing := b.missing.filter (· ≠ c), votes := b.votes ++ votes }
      s.setDome dm { d with barrier := if kind.isNone && !b.vote then none else some b1 }

/-! ## After each turn -/

/-- Whatever the dome can settle: cores that left the stream hold nothing up, a new lead gives its outcome, an empty
stream is re-formed, an issued JOIN opens, completes or closes early, and a barrier that all have passed completes (log entries 57 and 58). -/
def State.settleDome (s : State) (dm : Nat) : State :=
  let s0 := match (s.dome dm).awaits, s.lead? dm with
    | some k, some c => (match (s.core c).own.find? (fun (p : Nat × Outcome) => p.1 = k) with
      | some p => s.resolve' dm k p.2 (s.core c).atJoin.isSome
      | none => s)
    | _, _ => s
  let s1 := (s0.reform dm).openJoin dm
  let s2 := (s1.joinComplete dm).joinClose dm false
  let d := s2.dome dm
  match d.barrier with
  | none => s2
  | some b =>
    let b1 := { b with missing := b.missing.filter fun c => (s2.core c).inStream }
    let s3 := s2.setDome dm { d with barrier := some b1 }
    if b1.missing.isEmpty then s3.barrierDone dm b1 else s3

/-! ## The events of the stream -/

/-- STREAM_DELIVER. -/
def execStreamDeliver (dm : Nat) (s : State) : Out := .next (s.deliver dm).1

/-- FINDER_FILL: the line of an address reaches the finder of a core; nothing happens where its segment is not resident. -/
def execFinderFill (c : Nat) (a : BitVec 52) (s : State) : Out :=
  .next (if !isSup c && ((s.dome (domeKey c)).server a.toNat).isNone then s
    else match s.fillFinder c a.toNat with
      | .inr t => t
      | .inl _ => s)

/-- SEGMENT_LOAD: the loader serves the fetch of a core of the dome, or a SEGHINT that waits, where the segment fits (R120, R173). -/
def execSegmentLoad (dm : Nat) (a : BitVec 52) (s : State) : Out :=
  let c := (s.lead? dm).getD (((domeCores dm).find? fun c => (s.core c).finds).getD (coreAt dm 0))
  let d := s.dome dm
  let wanted := (s.nextFetches dm).any fun x => x / 64 = a.toNat / 64
  let fits := match s.segOf (dm / 12) (s.core c).segTab a.toNat with
    | some n => d.hints.contains n && ((d.segs.filter fun g => g.num ≠ n).map Segment.len).sum + (s.segRow (dm / 12) (s.core c).segTab n).2.1 ≤ 2 ^ 19
    | none => false
  .next (if (d.server a.toNat).isNone && (wanted || fits) then
      match s.loadSegment c a.toNat with
      | .inr t => t.setDome dm { t.dome dm with hints := d.hints.filter fun n => s.segOf (dm / 12) (s.core c).segTab a.toNat ≠ some n }
      | .inl _ => s
    else s)

/-- JOIN_COMPLETE (R162). -/
def execJoinComplete (dm : Nat) (s : State) : Out := .next ((s.joinComplete dm).settleDome dm)

/-- JOIN_ANY_CLOSE (R163): the window closes where its last cycle has come, or early. -/
def execJoinAnyClose (dm : Nat) (s : State) : Out :=
  let due := match (s.dome dm).open? with | some o => o.left = some 0 | none => false
  .next ((s.joinClose dm due).settleDome dm)

end Sys2Proof.Machine
end

