-- ==== Sys2Proof/Machine/Engines.lean ====
section
/-! DEFINITION. The commands of the task table, the copy engine and the matrix arrays, and the progress of their jobs
(spec/11 R262 to R289, spec/03 R86 to R89). -/

namespace Sys2Proof.Machine

/-! ## Parameters and the task table (R262, R273 to R275) -/

/-- ESET: a pair of parameters of an engine; a pair beyond P15 does not exist, and nothing is written (log entry 105). -/
def execEset (o : Eset) (s : State) : Out :=
  guarded o.e.gw [.s o.e.sa, .s o.e.sb] s fun s =>
    let x := s.me
    let k := 16 * o.e.eng.toNat + 2 * o.n.toNat
    let ps := (x.eng.params.setIfInBounds k (x.getS o.e.sa)).setIfInBounds (k + 1) (x.getS o.e.sb)
    .next (if o.n.toNat < 8 then s.setMe { x with eng := { x.eng with params := ps } } else s)

/-- The slots of a mask. -/
def maskSlots (x : Word) : List Nat := (List.range 64).filter x.getLsbD

/-- TWAIT: the bundle waits for the slots, against BUDGET, and then reports the lowest fault not yet reported. -/
def execTwait (o : En) (s : State) : Out :=
  guarded o.gw [.s o.sa] s fun s =>
    let x := s.me
    let slots := maskSlots (x.getS o.sa)
    if slots.any fun k => (tabGet? x.eng.jobs k).isSome then
      .next { s with issue := { s.issue with res := .stalled, tick := true } }
    else match slots.find? x.eng.unrep.getLsbD with
    | none => .next s
    | some k => trapOut cENGFAULT (engInfo k 3 0) { s with issue := { s.issue with told := some k } }

/-- TCANCEL. -/
def execTcancel (o : En) (s : State) : Out :=
  guarded o.gw [.s o.sa] s fun s =>
    .next ((maskSlots (s.me.getS o.sa)).foldl (fun a k => a.cancelJob a.cur k) s)

/-- TDEP: the mask is kept for the next submit. -/
def execTdep (o : En) (s : State) : Out :=
  guarded o.gw [.s o.sa] s fun s =>
    let x := s.me
    .next (s.setMe { x with eng := { x.eng with tdep := x.eng.tdep ||| x.getS o.sa } })

/-- A guarded submit. -/
def submitOp (o : En) (u : State → Submit) (s : State) : Out := guarded o.gw [] s fun s => submit o o.eng.toNat u s

/-- The first parameter, in the order given, whose condition fails. -/
def firstBad (xs : List (Nat × Bool)) : Option Nat := (xs.find? Prod.snd).map Prod.fst

/-- A phaser, status or block address that is misaligned (R242). -/
def misaligned (a : Word) (n : Nat) : Bool := a.toNat % n ≠ 0

/-- The local part of footprints. -/
def localsOf (xs : List Span) : List Span := xs.filter fun x => x.sp = 1

/-! ## COPY and CSTRM (R277 to R280) -/

/-- Row and plane strides of the source, or of the destination. -/
def cpStrides (ps : List Word) (dst : Bool) : Nat × Nat :=
  let lo := if dst then 32 else 0
  (fld (ps.getD 3 0#64) lo 32, fld (ps.getD 4 0#64) lo 32)

def cpHull (ps : List Word) (dst : Bool) : Nat :=
  let st := cpStrides ps dst
  (cpPlanes ps - 1) * st.2 + (cpRows ps - 1) * st.1 + cpLen ps

def cpSpace (ps : List Word) (dst : Bool) : Nat := fld (ps.getD 5 0#64) (if dst then 2 else 0) 2

/-- The base of a side, where its address fits its space. -/
def cpBase (ps : List Word) (dst : Bool) : Option JobAddr := jobAddr (cpSpace ps dst) (ps.getD (if dst then 1 else 0) 0#64)

/-- The side has a code but its address or its hull does not fit the space. -/
def cpUnfit (ps : List Word) (dst : Bool) : Bool :=
  cpSpace ps dst ≠ 0 && match cpBase ps dst with
    | none => true
    | some a => !a.fits (cpHull ps dst)

def cpSpan (c : Nat) (ps : List Word) (dst : Bool) : List Span :=
  match cpBase ps dst with
  | none => []
  | some a => [a.span c (cpHull ps dst)]

/-- The bytes of the core's own scratchpad that a side of a copy touches. -/
def cpTouch (c : Nat) (ps : List Word) (dst : Bool) : List Touch :=
  match cpBase ps dst with
  | none => []
  | some a => a.touch c (cpLen ps) [(cpPlanes ps, (cpStrides ps dst).2), (cpRows ps, (cpStrides ps dst).1)]

/-- The offset of byte `n` of the delivery order on a side. -/
def cpOff (ps : List Word) (dst : Bool) (n : Nat) : Nat :=
  let st := cpStrides ps dst
  n / cpLen ps / cpRows ps * st.2 + n / cpLen ps % cpRows ps * st.1 + n % cpLen ps

/-- The mode of an array as the MCFGs submitted so far fix it. -/
def Engines.modeSoon (e : Engines) (arr : Nat) : BitVec 2 :=
  match (e.mcfgs.filter fun m => m.2.1 = arr).getLast? with
  | some m => m.2.2
  | none => (e.modes[arr]?).getD 0#2

def copySubmit (s : State) : Submit :=
  let ps := s.me.eng.all 2
  let p5 := ps.getD 5 0#64
  let bad := firstBad [(0, cpUnfit ps false), (1, cpUnfit ps true), (2, cpLen ps = 0),
    (5, fld p5 13 51 ≠ 0 || fld p5 4 4 ≠ 0 || cpSpace ps false = 0 || cpSpace ps true = 0),
    (6, misaligned (ps.getD 6 0#64) 16)]
  let rs := cpSpan s.cur ps false
  let ws := cpSpan s.cur ps true
  { kind := .copy, hold := false, early := none, bad := bad, mode := false, locals := cpTouch s.cur ps false ++ cpTouch s.cur ps true, tiles := [], forms := [ps.getD 6 0#64],
    reads := rs, writes := ws, fill := id }

def cstrmSubmit (s : State) : Submit :=
  let ps := s.me.eng.all 2
  let p5 := ps.getD 5 0#64
  let bad := firstBad [(0, cpUnfit ps false), (2, cpLen ps = 0),
    (5, fld p5 13 51 ≠ 0 || fld p5 4 4 ≠ 0 || cpSpace ps false = 0 || fld p5 8 2 = 3), (6, misaligned (ps.getD 6 0#64) 16)]
  let rs := cpSpan s.cur ps false
  let mode := fld p5 11 2 ≠ 0 && s.me.eng.modeSoon (fld p5 10 1) ≠ 3#2
  { kind := .cstrm, hold := false, early := none, bad := bad, mode := mode, locals := cpTouch s.cur ps false, tiles := [], forms := [ps.getD 6 0#64],
    reads := rs, writes := [], fill := id }

def execCopy (o : En) (s : State) : Out := submitOp o copySubmit s
def execCstrm (o : En) (s : State) : Out := submitOp o cstrmSubmit s

/-- The first and the number of bytes of granule `g`. -/
def granule (ps : List Word) (g : Nat) : Nat × Nat := (4096 * g, min 4096 (cpTotal ps - 4096 * g))

/-- The first fault of a granule, in delivery order, the read of a byte before its write. -/
def State.granuleFault (s : State) (c : Nat) (j : Job) (writes : Bool) : Option (BitVec 6 × Word) :=
  let g := granule j.ps j.prog
  let probe (dst : Bool) (need : Need) (n : Nat) : Option (BitVec 6 × Word) :=
    match cpBase j.ps dst with
    | none => none
    | some a => match s.meet c need (a.add (cpOff j.ps dst n)) with
      | .fault cause x => some (cause, x)
      | _ => none
  (List.range g.2).findSome? fun i =>
    match probe false needR (g.1 + i) with
    | some f => some f
    | none => if writes then probe true needW (g.1 + i) else none

/-- A destination byte that the order writes more than once, or that lies where source and destination meet: its value
is open (R278). -/
def cpTangled (c : Nat) (ps : List Word) (n : Nat) : Bool :=
  let st := cpStrides ps true
  let len := cpLen ps
  let off := cpOff ps true n
  let plain := (cpRows ps = 1 || len ≤ st.1) && (cpPlanes ps = 1 || (cpRows ps - 1) * st.1 + len ≤ st.2)
  let twice := !plain && 1 < ((List.range (cpPlanes ps)).flatMap fun p => (List.range (cpRows ps)).filter fun r =>
    p * st.2 + r * st.1 ≤ off && off < p * st.2 + r * st.1 + len).length
  let meets := match cpBase ps false, cpBase ps true with
    | some a, some b => spansMeet [a.span c (cpHull ps false)] [b.span c (cpHull ps true)] &&
      (spansMeet [(b.add off).span c 1] [a.span c (cpHull ps false)] ||
        spansMeet [(a.add (cpOff ps false n)).span c 1] [b.span c (cpHull ps true)])
    | _, _ => false
  twice || meets

/-- The phaser of a copy takes the bytes of a granule (R280). -/
def State.copySignal (s : State) (c : Nat) (j : Job) (n : Nat) : State :=
  if j.p 6 = 0#64 then s else match s.syncKey? c (j.p 6) with
    | some k => s.jobSignal c true k n
    | none => s

/-- A running job of a kind. -/
def State.running? (s : State) (c slot : Nat) (k : JobKind) : Option Job :=
  match s.job? c slot with
  | some j => if j.kind = k && j.st = .running then some j else none
  | none => none

/-- Copy the bytes of a granule (log entry 7). -/
def State.copyBytes (s : State) (c : Nat) (j : Job) : State :=
  let g := granule j.ps j.prog
  match cpBase j.ps false, cpBase j.ps true with
  | some a, some b =>
    ({ s with freeCtr := s.freeCtr + g.2 } : State).jobWrites c ((List.range g.2).map fun i =>
      let n := g.1 + i
      (b.add (cpOff j.ps true n),
        if cpTangled c j.ps n then (Config.freeByte (s.freeCtr + i)).toNat else s.jobRead c (a.add (cpOff j.ps false n))))
  | _, _ => s

/-- COPY_GRANULE (R280). -/
def execCopyGranule (c slot : Nat) (s : State) : Out :=
  match s.running? c slot .copy with
  | none => .next s
  | some j =>
    if granules j.ps ≤ j.prog then .next s
    else match s.granuleFault c j true with
    | some (cause, a) => .next (s.jobMeets c slot cause a)
    | none =>
      let s1 := ((s.copyBytes c j).setJob c slot { j with prog := j.prog + 1 }).copySignal c j (granule j.ps j.prog).2
      .next (s1.setCore c ((s1.core c).bump 15 1 (s1.core c).next))

/-- Bytes that a stream holds, and its capacity (R279). -/
def Engines.stream (e : Engines) (k : Nat) : List Byte := (tabGet? e.streams k).getD []
def Engines.setStream (e : Engines) (k : Nat) (x : List Byte) : Engines :=
  { e with streams := if x.isEmpty then tabDel e.streams k else tabPut e.streams k x }
def Engines.streamSize (e : Engines) (arr : Nat) : Nat := if (e.modes[arr]?).getD 0#2 = 3#2 then 16384 else 65536

/-- CSTRM_GRANULE (R279, R280): the granule enters when the stream has room for it. -/
def execCstrmGranule (c slot : Nat) (s : State) : Out :=
  match s.running? c slot .cstrm with
  | none => .next s
  | some j =>
    let g := granule j.ps j.prog
    let e := s.eng c
    let k := streamKey j.array (fld (j.p 5) 8 2) j.quarter
    if granules j.ps ≤ j.prog || e.streamSize j.array < (e.stream k).length + g.2 then .next s
    else match s.granuleFault c j false with
    | some (cause, a) => .next (s.jobMeets c slot cause a)
    | none =>
      match cpBase j.ps false with
      | none => .next s
      | some a =>
        let bytes := (List.range g.2).map fun i => BitVec.ofNat 8 (s.jobRead c (a.add (cpOff j.ps false (g.1 + i))))
        let s1 := s.setEng c (e.setStream k (e.stream k ++ bytes))
        let s2 := (s1.setJob c slot { j with prog := j.prog + 1 }).copySignal c j g.2
        .next (s2.setCore c ((s2.core c).bump 15 1 (s2.core c).next))

/-! ## Matrix jobs: shapes (R282 to R285) -/

/-- A complex format code. -/
def fmtCplx (f : Nat) : Bool := f = 1 || f = 4
/-- Bits of an element of a format code (Table 3-1). -/
def fmtBits (f : Nat) : Nat := (Nf.ofCode f).width * (if fmtCplx f then 2 else 1)

/-- The unscaled summation block of a format (Table 3-12). -/
def fmtKb (f : Nat) : Nat :=
  if f < 2 then 8 else if f < 5 then 32 else if [5, 6, 7, 12, 13].contains f then 64 else 128

/-- The parameters of an MMA or of the region that an MDRAIN reads. -/
structure Mx where
  t0     : Nat
  m      : Nat
  n      : Nat
  k      : Nat
  af     : Nat
  bf     : Nat
  scaled : Bool
  acc    : Bool
  cacc   : Bool
  cplx   : Bool
  deriving DecidableEq, Repr

def mmaOf (ps : List Word) (sb : BitVec 6) : Mx :=
  let p0 := ps.getD 0 0#64
  let p1 := ps.getD 1 0#64
  { t0 := fld p0 32 4, m := fld p1 0 20 + 1, n := fld p1 20 20 + 1, k := fld p0 0 20 + 1, af := fld p0 20 4,
    bf := fld p0 24 4, scaled := p0.getLsbD 28, acc := sb.getLsbD 0, cacc := sb.getLsbD 1, cplx := fmtCplx (fld p0 20 4) }

def drainOf (ps : List Word) : Mx :=
  let p1 := ps.getD 1 0#64
  let p2 := ps.getD 2 0#64
  { t0 := fld (ps.getD 0 0#64) 32 4, m := fld p1 0 20 + 1, n := fld p1 20 20 + 1, k := 1, af := 0, bf := 0, scaled := false,
    acc := false, cacc := p2.getLsbD 59, cplx := p2.getLsbD 58 }

def Mx.parts (x : Mx) : Nat := if x.cplx then 2 else 1
def Mx.wpe (x : Mx) : Nat := x.parts * (if x.cacc then 2 else 1)
/-- The words of the region (R282). -/
def Mx.words (x : Mx) : Nat := x.wpe * x.m * x.n
def Mx.tiles (x : Mx) : Nat := (x.words + 4095) / 4096
def Mx.fitsTiles (x : Mx) : Bool := x.t0 + x.tiles ≤ 16
def Mx.span (x : Mx) (arr : Nat) : Span := { sp := 3 + arr, lo := 4096 * x.t0, hi := 4096 * x.t0 + x.words - 1 }
/-- The tiles as ACCALLOT numbers them. -/
def Mx.tileList (x : Mx) (arr : Nat) : List Nat := (List.range x.tiles).map fun t => 16 * arr + x.t0 + t
/-- The word of plane `pl` of element (i, j). -/
def Mx.word (x : Mx) (pl i j : Nat) : Nat := 4096 * x.t0 + pl * (x.m * x.n) + i * x.n + j

def Mx.kb (x : Mx) : Nat := min (fmtKb x.af) (fmtKb x.bf)
def Mx.steps (x : Mx) : Nat := (x.k + x.kb - 1) / x.kb

def mmaSubmit (o : En) (s : State) : Submit :=
  let arr := o.eng.toNat
  let e := s.me.eng
  let ps := e.all arr
  let p0 := ps.getD 0 0#64
  let x := mmaOf ps o.sb
  let bad := firstBad [(0, fld p0 36 28 ≠ 0 || fld p0 29 3 ≠ 0 || fmtCplx x.af != fmtCplx x.bf),
    (1, fld (ps.getD 1 0#64) 40 24 ≠ 0 || !x.fitsTiles), (4, misaligned (ps.getD 4 0#64) 16)]
  { kind := .mma, hold := false, early := none, bad := bad, mode := o.sb.toNat / 4 ≠ 0 && e.modeSoon arr ≠ 3#2, locals := [], tiles := x.tileList arr,
    forms := [ps.getD 4 0#64], reads := if x.acc then [x.span arr] else [], writes := [x.span arr], fill := id }

def mzeroSubmit (o : En) (s : State) : Submit :=
  let arr := o.eng.toNat
  let ps := s.me.eng.all arr
  let t0 := fld (ps.getD 0 0#64) 32 4
  let n := o.sb.toNat + 1
  { kind := .mzero, hold := false, early := none, bad := firstBad [(0, 16 < t0 + n), (4, misaligned (ps.getD 4 0#64) 16)], mode := false, locals := [],
    tiles := (List.range n).map fun t => 16 * arr + t0 + t, forms := [ps.getD 4 0#64], reads := [],
    writes := [{ sp := 3 + arr, lo := 4096 * t0, hi := 4096 * (t0 + n) - 1 }], fill := id }

/-- Bytes of a row that MDRAIN writes, and its hull. -/
def drainRow (ps : List Word) (x : Mx) : Nat := (x.n * fmtBits (fld (ps.getD 2 0#64) 48 4) + 7) / 8
def drainStride (ps : List Word) : Nat := fld (ps.getD 2 0#64) 32 16
def drainHull (ps : List Word) (x : Mx) : Nat := (x.m - 1) * drainStride ps + drainRow ps x

def mdrainSubmit (o : En) (s : State) : Submit :=
  let arr := o.eng.toNat
  let ps := s.me.eng.all arr
  let p2 := ps.getD 2 0#64
  let x := drainOf ps
  let q := fmtBits (fld p2 48 4)
  let dest := fld p2 0 22
  let bad2 := fld p2 60 4 ≠ 0 || p2.getLsbD 57 || fld p2 22 10 ≠ 0 || fld p2 52 3 = 7 || fmtCplx (fld p2 48 4) != x.cplx ||
    !x.fitsTiles || 1 < x.m && drainStride ps < drainRow ps x || 8 ≤ q && dest % min 8 (q / 8) ≠ 0 ||
    2 ^ 22 < dest + drainHull ps x
  let ws : List Span := [{ sp := 1, lo := dest, hi := dest + drainHull ps x - 1 }]
  { kind := .mdrain, hold := false, early := none, bad := firstBad [(1, fld (ps.getD 1 0#64) 40 24 ≠ 0), (2, bad2),
      (3, fld (ps.getD 3 0#64) 32 32 ≠ 0), (4, misaligned (ps.getD 4 0#64) 16)],
    mode := false, locals := [{ base := dest, len := drainRow ps x, dims := [(x.m, drainStride ps)] }], tiles := x.tileList arr, forms := [ps.getD 4 0#64], reads := [x.span arr], writes := ws,
    fill := id }

def execMma (o : En) (s : State) : Out := submitOp o (mmaSubmit o) s
def execMzero (o : En) (s : State) : Out := submitOp o (mzeroSubmit o) s
def execMdrain (o : En) (s : State) : Out := submitOp o (mdrainSubmit o) s

/-- MCFG waits for its place between the jobs of its array (R281). -/
def execMcfg (o : En) (s : State) : Out :=
  guarded o.gw [] s fun s =>
    let x := s.me
    let e := x.eng
    let m := (e.ordNext, o.eng.toNat, o.sa.setWidth 2)
    .next (s.setMe { x with eng := { e with mcfgs := e.mcfgs ++ [m], ordNext := e.ordNext + 1 } })

/-- A job of an array in the sense of R281. -/
def Job.ofArray (j : Job) (arr : Nat) : Bool :=
  match j.kind with
  | .mma | .mzero | .mdrain | .cstrm => j.array = arr
  | _ => false

/-- MCFG_APPLY (R281): the oldest MCFG of an array takes effect when the jobs before it have ended. -/
def execMcfgApply (c arr : Nat) (s : State) : Out :=
  let e := s.eng c
  match e.mcfgs.find? fun m => m.2.1 = arr with
  | none => .next s
  | some m =>
    if e.jobs.any fun j => j.2.ofArray arr && j.2.ord < m.1 then .next s
    else
      let e1 := (List.range 4).foldl (fun (a : Engines) q => a.discard arr q)
        { e with mcfgs := e.mcfgs.filter (· ≠ m), modes := e.modes.setIfInBounds arr m.2.2 }
      .next (s.setEng c e1)

/-! ## The accumulator store (R282) -/

def Engines.accGet (e : Engines) (arr w : Nat) : Nat := ((tabGet? e.acc (arr * 65536 + w)).getD 0#32).toNat
def Engines.accPut (e : Engines) (arr w x : Nat) : Engines :=
  let k := arr * 65536 + w
  { e with acc := if x % 2 ^ 32 = 0 then tabDel e.acc k else tabPut e.acc k (BitVec.ofNat 32 x) }

/-- lo of the element whose hi word is `w`: +0 where its tile has LOK = 0. -/
def Engines.loGet (e : Engines) (arr w lo : Nat) : Nat := if e.lok.getLsbD (16 * arr + w / 4096) then e.accGet arr lo else 0

/-! ## Summation blocks (R86 to R89) -/

/-- Round to nearest even into FP32, canonical NaNs (R286). -/
def rne : Codes := Codes.engine 1 0

def BlockSum.zero : BlockSum := { nan := false, nv := false, pinf := false, ninf := false, m := 0, e := 0 }

/-- Add a product, negated where `neg` is set. -/
def BlockSum.add (t : BlockSum) (neg : Bool) (a b : Val) : BlockSum :=
  let sn := a.isSnan || b.isSnan
  if a.isNan || b.isNan then { t with nan := true, nv := t.nv || sn }
  else if a.isInf && b.isZero || a.isZero && b.isInf then { t with nan := true, nv := true }
  else
    let s := (a.sign != b.sign) != neg
    if a.isInf || b.isInf then { t with pinf := t.pinf || !s, ninf := t.ninf || s }
    else match a, b with
    | .num _ m e, .num _ n g =>
      let x : Int := if s then -((m * n : Nat) : Int) else ((m * n : Nat) : Int)
      let lo := min t.e (e + g)
      { t with m := t.m * (2 : Int) ^ (t.e - lo).toNat + x * (2 : Int) ^ (e + g - lo).toNat, e := lo }
    | _, _ => t

/-- rne(t, FP32) with the special values of R88; an exact zero sum is +0. -/
def BlockSum.round (t : BlockSum) : Res :=
  if t.nan || t.pinf && t.ninf then { bits := 0x7FC00000, fl := flagIf (t.nv || !t.nan) fNV }
  else if t.pinf || t.ninf then infRes .f32 rne t.ninf
  else if t.m = 0 then { bits := 0, fl := 0#7 }
  else roundDyad .f32 rne 0 (t.m < 0) t.m.natAbs t.e

/-- The contribution of a block with its scales (R86, R88) (log entry 19). -/
def BlockSum.scaled (t : BlockSum) (sa sb : Nat) : Res :=
  let x := t.round
  if t.nan || t.pinf && t.ninf then x
  else if s24E sa = 255 || s24E sb = 255 then { bits := 0x7FC00000, fl := 0#7 }
  else if s24E sa = 0 || s24E sb = 0 then { bits := 0, fl := 0#7 }
  else if t.pinf || t.ninf then x
  else
    let u := s24Val sa
    let v := s24Val sb
    let g := roundDyad .f32 rne 0 false (u.1 * v.1) (u.2 + v.2)
    let y := fop .mul .f32 rne 0 x.bits g.bits
    { bits := y.bits, fl := x.fl ||| g.fl ||| y.fl }

/-- An exact finite FP32 value as a sign, magnitude and exponent. -/
def finite32 (bits : Nat) : Option (Bool × Nat × Int) :=
  match Nf.f32.decode bits with
  | .num s m e => some (s, m, e)
  | _ => none

/-- The exact sum of dyadics. -/
def dyadSum (ts : List (Bool × Nat × Int)) : Bool × Nat × Int :=
  let e := ts.foldl (fun a t => min a t.2.2) 0
  let tot : Int := ts.foldl (fun a t => a + (if t.1 then -1 else 1) * ((t.2.1 * 2 ^ (t.2.2 - e).toNat : Nat) : Int)) 0
  (tot < 0, tot.natAbs, e)

/-- Add a block to hi and lo (R86, R89): the new pair and the flags. An infinity or NaN in lo stays, made canonical. -/
def accStep (cacc : Bool) (hi lo x : Nat) : Nat × Nat × Flags :=
  let s := fop .add .f32 rne 0 hi x
  if !cacc then (s.bits, 0, s.fl)
  else match finite32 s.bits, finite32 hi, finite32 x, finite32 lo with
  | some sv, some hv, some xv, some lv =>
    let l := sumRes .f32 rne 0 [lv, dyadSum [hv, xv, (!sv.1, sv.2.1, sv.2.2)]]
    (s.bits, l.bits, s.fl ||| l.fl)
  | some _, _, _, none =>
    let l := fop .add .f32 rne 0 lo 0
    (s.bits, l.bits, s.fl ||| l.fl)
  | _, _, _, _ => (s.bits, 0, s.fl)

/-! ## Steps (R285, R286) -/

def leNat (bs : List Byte) : Nat := bs.foldr (fun b a => b.toNat + 256 * a) 0

/-- First and end of the elements of step `s`. -/
def Mx.range (x : Mx) (st : Nat) : Nat × Nat := (st * x.kb, min x.k ((st + 1) * x.kb))

/-- Bytes of a row of a step. -/
def rowBytes (f n : Nat) : Nat := (n * fmtBits f + 7) / 8

/-- The summation blocks that a step touches: of 32 elements where it is scaled, else the step itself. -/
def Mx.blocks (x : Mx) (st : Nat) : List Nat :=
  if x.scaled then
    let r := x.range st
    (List.range ((r.2 - 1) / 32 - r.1 / 32 + 1)).map (r.1 / 32 + ·)
  else [st]

/-- What a step takes from A, B and S; S24 of an open block stay with the job. -/
def Mx.needs (x : Mx) (st : Nat) : List Nat :=
  let r := x.range st
  let n := r.2 - r.1
  [x.m * rowBytes x.af n, x.n * rowBytes x.bf n, if x.scaled then 3 * (x.m + x.n) * (x.blocks st).length else 0]

/-- Take the bytes that have arrived: of A until its part of the step is complete, then of B, then of S. -/
def Engines.take (e : Engines) (arr q : Nat) (needs : List Nat) (have' : List (List Byte)) : Engines × List (List Byte) :=
  let r := (List.range 3).foldl (fun (a : Engines × List (List Byte) × Bool) str =>
    let got := have'.getD str []
    let need := needs.getD str 0
    if !a.2.2 then (a.1, a.2.1 ++ [got], false)
    else
      let k := streamKey arr str q
      let b := a.1.stream k
      let m := need - got.length
      let now := got ++ b.take m
      (a.1.setStream k (b.drop m), a.2.1 ++ [now], need ≤ now.length)) (e, [], true)
  (r.1, r.2.1)

/-- Element `i` of a row as its parts. -/
def rowElem (f row i : Nat) : List Val :=
  let w := (Nf.ofCode f).width
  (List.range (if fmtCplx f then 2 else 1)).map fun p =>
    (Nf.ofCode f).decode (row / 2 ^ (i * fmtBits f + p * w) % 2 ^ w)

/-- The products of one part of an element (R65). -/
def products (part : Nat) (a b : List Val) : List (Bool × Val × Val) :=
  let z := Val.num false 0 0
  let g (l : List Val) (i : Nat) : Val := l.getD i z
  if a.length < 2 then [(false, g a 0, g b 0)]
  else if part = 0 then [(false, g a 0, g b 0), (true, g a 1, g b 1)]
  else [(false, g a 0, g b 1), (false, g a 1, g b 0)]

/-- The S24 of a block in the bytes taken: number `i` of the block's M + N. -/
def scaleAt (sBytes : List Byte) (i : Nat) : Nat := leNat ((sBytes.drop (3 * i)).take 3)

/-- What one part of an element holds while a step is worked: hi, lo, flags, and its open block. -/
structure Part where
  hi   : Nat
  lo   : Nat
  fl   : Flags
  open? : Option BlockSum
  deriving DecidableEq, Repr

/-- One part of element (i, j) through the blocks of a step, with its rows of A and B. -/
def Mx.stepPart (x : Mx) (st i j part : Nat) (ra rb : Nat) (sBytes : List Byte) (p : Part) : Part :=
  let r := x.range st
  (x.blocks st).foldl (fun (p : Part) b =>
    let lo := if x.scaled then 32 * b else r.1
    let hi := if x.scaled then min x.k (32 * b + 32) else r.2
    let t0 := p.open?.getD BlockSum.zero
    let t := (List.range (min hi r.2 - max lo r.1)).foldl (fun (t : BlockSum) d =>
      let k := max lo r.1 - r.1 + d
      (products part (rowElem x.af ra k) (rowElem x.bf rb k)).foldl (fun t q => t.add q.1 q.2.1 q.2.2) t) t0
    if r.2 < hi then { p with open? := some t }
    else
      let base := (b - (x.blocks st).headD 0) * (x.m + x.n)
      let c := if x.scaled then t.scaled (scaleAt sBytes (base + i)) (scaleAt sBytes (base + x.m + j)) else t.round
      let y := accStep x.cacc p.hi p.lo c.bits
      { hi := y.1, lo := y.2.1, fl := p.fl ||| c.fl ||| y.2.2, open? := none }) p

/-- One step of an MMA on the accumulator store: the store, the flags and the open blocks. -/
def Mx.step (x : Mx) (arr st : Nat) (e : Engines) (fl : Flags) (sums : List (Nat × BlockSum)) (got : List (List Byte)) :
    Engines × Flags × List (Nat × BlockSum) :=
  let r := x.range st
  let n := r.2 - r.1
  let row (str f i : Nat) : Nat := leNat (((got.getD str []).drop (i * rowBytes f n)).take (rowBytes f n))
  let fresh := st = 0 && !x.acc
  let go := (List.range (x.m * x.n * x.parts)).foldl (fun (a : Engines × Flags × List (Nat × BlockSum)) q =>
    let part := q % x.parts
    let i := q / x.parts / x.n
    let j := q / x.parts % x.n
    let w := x.word part i j
    let wl := x.word (x.parts + part) i j
    let p0 : Part := { hi := if fresh then 0 else e.accGet arr w, lo := if fresh || !x.cacc then 0 else e.loGet arr w wl,
                       fl := a.2.1, open? := tabGet? sums q }
    let p := x.stepPart st i j part (row 0 x.af i) (row 1 x.bf j) (got.getD 2 []) p0
    let e1 := a.1.accPut arr w p.hi
    let e2 := if x.cacc then e1.accPut arr wl p.lo else e1
    (e2, p.fl, match p.open? with | some t => tabPut a.2.2 q t | none => a.2.2)) (e, fl, [])
  let hiTiles := (x.parts * x.m * x.n + 4095) / 4096
  let lok := (List.range hiTiles).foldl (fun (l : BitVec 32) t =>
    let b := BitVec.ofNat 32 (2 ^ (16 * arr + x.t0 + t))
    if x.cacc then l ||| b else l &&& ~~~b) go.1.lok
  ({ go.1 with lok := lok }, go.2.1, go.2.2)

/-- MMA_STEP (R285, R286): bytes that have arrived are taken, and the step is worked once it has them all. -/
def execMmaStep (c slot : Nat) (s : State) : Out :=
  match s.running? c slot .mma with
  | none => .next s
  | some j =>
    let x := mmaOf j.ps j.sb
    if x.steps ≤ j.prog then .next s
    else
      let needs := x.needs j.prog
      let t := (s.eng c).take j.eng j.quarter needs j.intake
      if (List.range 3).any fun i => (t.2.getD i []).length < needs.getD i 0 then
        .next ((s.setEng c t.1).setJob c slot { j with intake := t.2 })
      else
        let r := x.step j.eng j.prog t.1 j.fl j.sums t.2
        let keep := if r.2.2.isEmpty then [] else t.2.getD 2 []
        let s1 := (s.setEng c r.1).setJob c slot
          { j with intake := [[], [], keep], prog := j.prog + 1, fl := r.2.1, sums := r.2.2 }
        .next (s1.setCore c ((s1.core c).bump 14 1 (s1.core c).next))

/-! ## MZERO and MDRAIN (R288, R289) -/

/-- MZERO's writes (log entry 49). -/
def State.mzero (s : State) (c : Nat) (j : Job) : State :=
  let e := s.eng c
  let t0 := fld (j.p 0) 32 4
  let n := j.sb.toNat + 1
  let lo := j.eng * 65536 + 4096 * t0
  let lok := (List.range n).foldl (fun (l : BitVec 32) t => l &&& ~~~BitVec.ofNat 32 (2 ^ (16 * j.eng + t0 + t))) e.lok
  s.setEng c { e with acc := e.acc.filter fun a => !(lo ≤ a.1 && a.1 < lo + 4096 * n), lok := lok }

/-- One converted part: its code, its flags and the seed reached. -/
def drainPart (e : Engines) (arr : Nat) (x : Mx) (dfmt rnd sat i j part : Nat) (seed : BitVec 32) : Nat × Flags × BitVec 32 :=
  let w := x.word part i j
  let hi := e.accGet arr w
  let v : Res := if x.cacc then fop .add .f32 rne 0 hi (e.loGet arr w (x.word (x.parts + part) i j))
    else { bits := hi, fl := 0#7 }
  let sd := if rnd = 6 then xorshift seed else seed
  let r := convert .f32 (Nf.ofCode dfmt) (Codes.engine rnd sat) (if rnd = 6 then (sd >>> 8).toNat else 0) v.bits
  (r.bits, v.fl ||| r.fl, sd)

/-- MDRAIN's writes, with the flags of its conversions (log entry 49). -/
def State.mdrain (s : State) (c slot : Nat) (j : Job) : State :=
  let e := s.eng c
  let x := drainOf j.ps
  let p2 := j.p 2
  let dfmt := fld p2 48 4
  let w := (Nf.ofCode dfmt).width
  let r := (List.range x.m).foldl (fun (a : State × Flags × BitVec 32) i =>
    let row := (List.range (x.n * x.parts)).foldl (fun (b : Nat × Flags × BitVec 32) q =>
      let d := drainPart e j.eng x dfmt (fld p2 52 3) (fld p2 55 2) i (q / x.parts) (q % x.parts) b.2.2
      (b.1 + d.1 * 2 ^ (q * w), b.2.1 ||| d.2.1, d.2.2)) (0, a.2.1, a.2.2)
    let at' := fld p2 0 22 + i * drainStride j.ps
    let st := (List.range (drainRow j.ps x)).foldl (fun (t : State) b =>
      t.jobWrite c (.loc (at' + b)) (row.1 / 256 ^ b % 256)) a.1
    (st, row.2.1, row.2.2)) (s, j.fl, j.seed)
  r.1.setJob c slot { j with fl := r.2.1 }

/-! ## Start and end (R271, R266) -/

/-- JOB_START: an engine takes its oldest ready job (log entry 50). -/
def State.startJob (s : State) (c eng : Nat) : State :=
  match (s.core c).oldest c eng with
  | none => s
  | some x =>
    let sd := (x.2.p (if x.2.kind = .mdrain then 3 else 5)).setWidth 32
    let seed := if x.2.kind = .mdrain || x.2.kind = .skupd then (if sd = 0#32 then 1#32 else sd) else x.2.seed
    s.setJob c x.1 { x.2 with st := .running, seed := seed, start := (s.core c).cycle }

end Sys2Proof.Machine
end

