-- ==== Sys2Proof/Machine/Sync.lean ====
section
/-! DEFINITION. The sync engine: phaser commands and waits, and the tree reductions of the routers (spec/10 R242 to R261). -/

namespace Sys2Proof.Machine

/-! ## Phaser commands (R242 to R249) -/

/-- Apply a command at the home: the state, and the phase that PHSW or PHWAIT then awaits (log entry 32). -/
def State.phApply (s : State) (p : PhCmd) : State × Bool :=
  let w := s.phGet p.key
  let n := if phBytes w.1 then p.x.toNat % 2 ^ 48 else 1
  match p.op with
  | .init => (s.phPut p.key (if p.bytes then 2 ^ 61 else 0, p.x.toNat), false)
  | .reg => (s.phPut p.key (phChange w.1 (p.x.toNat % 4) 1, w.2), false)
  | .drop => (s.phPut p.key (phChange w.1 (p.x.toNat % 4) (-1), w.2), false)
  | .sig => (s.signal p.key n, false)
  | .sw => (s.signal p.key n, phP w.1)
  | .wait => (s, p.x.getLsbD 0)
  | .job => (s.jobApply p.bytes p.key p.x.toNat, false)
  | .fail => (s.phFail p.key, false)

/-- Commands that signal. -/
def PhOp.signals : PhOp → Bool
  | .sig | .sw | .job => true
  | _ => false

/-- A core's signal releases its earlier accesses, at package scope where the home is on another die (R249). -/
def State.phRelease (s : State) (c : Nat) (p : PhCmd) : State :=
  if (p.op = .sig || p.op = .sw) && farPhaser c p.key then s.release (dieOf c) else s

/-- The wait of a core at a phaser is over: the phase has changed, or ERR is set (R247). -/
def State.phOver (s : State) (key : Nat) (phase : Bool) : Bool :=
  let w := s.phGet key
  (phP w.1 != phase || phErr w.1) && !isImage key

/-- The wait of a core ends; one that a boundary ended acquires, at package scope where the home is on another die (R249). -/
def State.phFinish (s : State) (c key : Nat) (boundary : Bool) : State :=
  let t := if boundary && farPhaser c key then s.acquire (dieOf c) else s
  t.setCore c { t.core c with wait := .none, waited := 0 }

/-- A wait reaches its home: it is over, which its core takes note of in its next cycle, or registered there until a command releases it
(R246, R247). -/
def State.phWait (s : State) (c key : Nat) (phase : Bool) : State :=
  let b := phP (s.phGet key).1 != phase
  if !s.phOver key phase then s.setCore c { s.core c with wait := .phwait key phase }
  else s.setCore c { s.core c with wait := .phdone key b }

/-- What a core waits for stands behind a fence of the same bundle (R218). -/
def Wait.behindFence (w : Wait) : Bool := match w with | .fence _ _ _ => true | .efence _ _ _ => true | _ => false

/-- A command may be applied: those of its core for the same phaser and, for a signal, the accesses before it came first
(R248, R249); a wait comes after a fence of its bundle. -/
def Core.phReady (x : Core) (i : Nat) (p : PhCmd) : Bool :=
  (x.eng.phq.take i).all (fun q => q.key ≠ p.key) && !isImage p.key &&
    !((p.op = .sw || p.op = .wait) && x.wait.behindFence) &&
    (!(p.op = .sig || p.op = .sw) || (x.outs.take p.before).all fun a => a.done.isSome)

/-- Command `i` of the queue of a core reaches its home. -/
def State.phArrive (s : State) (c i : Nat) (signals : Bool) : State :=
  let x := s.core c
  match x.eng.phq[i]? with
  | none => s
  | some p =>
    if p.op.signals != signals || !x.phReady i p then s
    else
      let s1 := s.setCore c { x with eng := { x.eng with phq := x.eng.phq.eraseIdx i } }
      let r := (s1.phRelease c p).phApply p
      if (p.op = .sw || p.op = .wait) && (r.1.core c).wait = .phsw p.key then r.1.phWait c p.key r.2 else r.1

/-- The commands of a core from the `i`th on reach their homes where they may; `n` bounds the steps. -/
def State.phFrom (s : State) (c i : Nat) : Nat → State
  | 0 => s
  | n + 1 =>
    match (s.core c).eng.phq[i]? with
    | none => s
    | some p =>
      let t := s.phArrive c i p.op.signals
      if (t.core c).eng.phq.length < (s.core c).eng.phq.length then t.phFrom c i n else s.phFrom c (i + 1) n

/-- Every command of a core that may reach its home does. -/
def State.phDrain (s : State) (c : Nat) : State := s.phFrom c 0 (s.core c).eng.phq.length

/-- Post a command: applied at once in an eager state with nothing ahead of it, else queued (log entry 5). -/
def State.phPost (s : State) (p : PhCmd) : State :=
  let c := s.cur
  let x := s.me
  let q := { p with before := x.outs.length }
  let waits := p.op = .sw || p.op = .wait
  let s1 := s.setMe { x with eng := { x.eng with phq := x.eng.phq ++ [q] },
                             wait := if waits then .phsw p.key else x.wait, waited := if waits then 0 else x.waited }
  if s.eager && x.eng.phq.isEmpty && x.outs.isEmpty then
    let t := s1.phArrive c 0 p.op.signals
    match t.me.wait with
    | .phdone key b => if waits then t.phFinish c key b else t
    | _ => t
  else s1

/-- The address checks of a command (R242), and the claim of its bank (R330). -/
def phAddr (init : Bool) (a : Word) (s : State) (k : Nat → State → Out) : Out :=
  let low := if init then a.toNat % 16 / 2 else a.toNat % 16
  let base := if init then a &&& ~~~1#64 else a
  if low ≠ 0 then trapOut cALIGN a s
  else match s.syncAddr s.cur base with
  | .bad cause _ => trapOut cause a s
  | .ok (.mem key) => if (s.owedBank (.mem key)).isEmpty then k key s else claimOut (s.owedBank (.mem key)) s
  | .ok _ => trapOut cPROT a s

/-- The sync engine's queue holds 32 commands (R243). -/
def Core.phFull (x : Core) : Bool := 32 ≤ x.eng.phq.countP fun p => p.op ≠ .job && p.op ≠ .fail

/-- A posted phaser command; it waits while the queue of 32 commands is full. -/
def phCommand (op : PhOp) (o : En) (s : State) : Out :=
  guarded o.gw [.s o.sa, .s o.sb] s fun s =>
    let a := s.me.getS o.sa
    let x := s.me.getS o.sb
    let badMode := (op = .reg || op = .drop) && (x.toNat = 0 || 4 ≤ x.toNat)
    if badMode then trapOut cENGFAULT x s
    else phAddr (op = .init) a s fun key s =>
      if s.me.phFull then stallOut s
      else .next (s.phPost { op := op, key := key, bytes := op = .init && a.getLsbD 0, x := x, before := 0 })

def execPhinit (o : En) (s : State) : Out := phCommand .init o s
def execPhreg (o : En) (s : State) : Out := phCommand .reg o s
def execPhdrop (o : En) (s : State) : Out := phCommand .drop o s
def execPhsig (o : En) (s : State) : Out := phCommand .sig o s
def execPhsw (o : En) (s : State) : Out := phCommand .sw o s

/-- PHWAIT (R247), which takes its place in the queue of commands (R243). -/
def execPhwait (o : En) (s : State) : Out :=
  guarded o.gw [.s o.sa, .s o.sb] s fun s =>
    let x := s.me.getS o.sb
    phAddr false (s.me.getS o.sa) s fun key s =>
      if s.me.phFull then stallOut s
      else .next (s.phPost { op := .wait, key := key, bytes := false, x := x, before := 0 })

def execPhaserCommandArrive (c i : Nat) (s : State) : Out := .next (s.phArrive c i false)
def execPhaserSignal (c i : Nat) (s : State) : Out := .next (s.phArrive c i true)


/-! ## Reductions: descriptors and submits (R252 to R254) -/

/-- Router row and column of a core (R252). -/
def routerRow (c : Nat) : Nat := 4 * (domeOf c / 4) + coreIx c / 4
def routerCol (c : Nat) : Nat := 4 * (domeOf c % 4) + coreIx c % 4

/-- The number of a router on its die. -/
def routerNo (row col : Nat) : Nat := 16 * row + col

/-- The core at a router of a die. -/
def routerCore (die row col : Nat) : Nat := (row % 4 * 4 + col % 4) * 128 + (row / 4 * 4 + col / 4) * 8 + die

def RedKey.epoch (k : RedKey) : Nat := fld k.p1 48 16
def RedKey.tag (k : RedKey) : Nat := fld k.p1 32 16
def RedKey.members (k : RedKey) : Nat := fld k.p1 24 8
def RedKey.tree (k : RedKey) : Bool := k.p1.getLsbD 19
def RedKey.op (k : RedKey) : Nat := fld k.p1 16 3
def RedKey.nelem (k : RedKey) : Nat := fld k.p1 0 12
def RedKey.width (k : RedKey) : Nat := fld k.p2 20 4
def RedKey.height (k : RedKey) : Nat := fld k.p2 16 4
def RedKey.rcol (k : RedKey) : Nat := fld k.p2 12 4
def RedKey.col0 (k : RedKey) : Nat := fld k.p2 8 4
def RedKey.rrow (k : RedKey) : Nat := fld k.p2 4 4
def RedKey.row0 (k : RedKey) : Nat := fld k.p2 0 4
def RedKey.root (k : RedKey) : Nat := routerNo k.rrow k.rcol

def RedKey.holds (k : RedKey) (row col : Nat) : Bool :=
  k.row0 ≤ row && row ≤ k.row0 + k.height && k.col0 ≤ col && col ≤ k.col0 + k.width

def Job.redKey (j : Job) : RedKey := { p1 := j.p 1, p2 := j.p 2 }

/-- The core is the root of a reduction. -/
def RedKey.isRoot (k : RedKey) (c : Nat) : Bool := !isSup c && routerRow c = k.rrow && routerCol c = k.rcol

/-- A result or status address: a local offset or a device address. -/
def plainAddr (a : Word) : JobAddr := if a.toNat < 2 ^ 22 then .loc a.toNat else .dev a.toNat

/-- The address is checked under R242 at submit: a local offset, a window, or no device address at all. -/
def formOf (a : Word) : List Word := if a.toNat < 2 ^ 22 || 2 ^ 52 ≤ a.toNat || inWindow a.toNat then [a] else []

/-- RDSEND's checks (R254); a supervisor core, which has no router, is outside every rectangle (log entry 117). -/
def rdsendSubmit (s : State) : Submit :=
  let c := s.cur
  let ps := (s.me.eng.all 4).take 8
  let p (n : Nat) : Word := ps.getD n 0#64
  let k : RedKey := { p1 := p 1, p2 := p 2 }
  let root := k.isRoot c
  let bad1 := fld (p 1) 20 4 ≠ 0 || 6 ≤ k.op || fld (p 1) 12 4 ≠ 0 || k.nelem = 0 || 2048 < k.nelem
  let bad2 := fld (p 2) 24 40 ≠ 0 || k.members ≠ (k.height + 1) * (k.width + 1) || 11 < k.row0 + k.height ||
    15 < k.col0 + k.width || !k.holds k.rrow k.rcol || isSup c || !k.holds (routerRow c) (routerCol c)
  let bad := firstBad [(0, fld (p 0) 22 42 ≠ 0 || fld (p 0) 0 6 ≠ 0), (1, bad1), (2, bad2),
    (3, root && misaligned (p 3) 4), (4, root && fld (p 4) 32 32 ≠ 0), (5, root && misaligned (p 5) 16),
    (6, root && misaligned (p 6) 8), (7, p 7 ≠ 0#64)]
  let len := 4 * k.nelem
  let rs : List Span := [{ sp := 1, lo := fld (p 0) 0 22, hi := fld (p 0) 0 22 + len - 1 }]
  let ws : List Span := if root then [(plainAddr (p 3)).span c len] else []
  { kind := .rdsend, hold := false, early := none, bad := bad, mode := false, locals := touchesOf (rs ++ ws), tiles := [],
    forms := if root then formOf (p 3) ++ [p 5] ++ formOf (p 6) else [], reads := rs, writes := ws, fill := id }

def execRdsend (o : En) (s : State) : Out := submitOp o rdsendSubmit s

/-! ## Routers (R255 to R257, R260, R261) -/

/-- Epoch `a` is later than epoch `b` (R260). -/
def laterEpoch (a b : Nat) : Bool :=
  let d := (a + 65536 - b) % 65536
  1 ≤ d && d ≤ 32767

/-- One application of the operation (R257). -/
def redOp (op a b : Nat) : Nat × Flags :=
  let f (r : Res) : Nat × Flags := (r.bits, r.fl)
  match op with
  | 0 => f (fop .add .f32 rne 0 a b)
  | 1 => ((a + b) % 2 ^ 32, 0#7)
  | 2 => f (minMax .f32 rne false a b)
  | 3 => f (minMax .f32 rne true a b)
  | 4 => (if toInt 32 a ≤ toInt 32 b then b else a, 0#7)
  | _ => (if toInt 32 a ≤ toInt 32 b then a else b, 0#7)

/-- Combine two partials, element by element. -/
def combine2 (op : Nat) (p q : Partial) : Partial :=
  let r := (List.zip p.vals q.vals).map fun v => redOp op v.1.toNat v.2.toNat
  { p with count := p.count + q.count, fl := r.foldl (fun a x => a ||| x.2) (p.fl ||| q.fl),
           vals := r.map fun x => BitVec.ofNat 32 x.1 }

/-- Stage 1 of TREE 0 and stage 2 of TREE 1 run along the rows. -/
def alongRow (k : RedKey) (stage : Nat) : Bool := (stage = 1) != k.tree

/-- The inputs that a stage expects at a router: west 0, north 1, east 2, south 3 and local 4 (R256). -/
def expected (k : RedKey) (stage row col : Nat) : List Nat :=
  if alongRow k stage then
    (if k.col0 < col && col ≤ k.rcol then [0] else []) ++
      (if col < k.col0 + k.width && k.rcol ≤ col then [2] else []) ++ [4]
  else
    (if k.row0 < row && row ≤ k.rrow then [1] else []) ++
      (if row < k.row0 + k.height && k.rrow ≤ row then [3] else []) ++ [4]

/-- Where the output of a stage goes: router, stage and input. -/
def outputTo (k : RedKey) (stage row col : Nat) : Nat × Nat × Nat :=
  if alongRow k stage then
    if col < k.rcol then (routerNo row (col + 1), stage, 0)
    else if k.rcol < col then (routerNo row (col - 1), stage, 2)
    else (routerNo row col, stage + 1, 4)
  else
    if row < k.rrow then (routerNo (row + 1) col, stage, 1)
    else if k.rrow < row then (routerNo (row - 1) col, stage, 3)
    else (routerNo row col, stage + 1, 4)

/-- The job of a core that is the root of a reduction, once it has started. -/
def State.rootJob (s : State) (c : Nat) (k : RedKey) : Option (Nat × Job) :=
  (s.eng c).jobs.find? fun j => j.2.kind = .rdsend && j.2.st ≠ .waiting && j.2.redKey = k

/-- The status doubleword of a reduction (Table 10-5) from the partials of its key at the root. -/
def redStatus (ps : List Partial) (code : Nat) : Nat :=
  let n := (ps.map Partial.count).sum
  let fl := ps.foldl (fun a p => a ||| p.fl) (0#7 : Flags)
  n % 65536 * 2 ^ 32 + (fl &&& 0x1D#7).toNat * 2 ^ 8 + code

/-- Write the status of a reduction, where one is named. -/
def State.redWrite (s : State) (c : Nat) (j : Job) (v : Nat) : State :=
  if j.p 6 = 0#64 then s
  else s.jobWrites c ((List.range 8).map fun i => ((plainAddr (j.p 6)).add i, v / 256 ^ i % 256))

/-- The fault that the status write of a reduction meets, where its status lies in device memory. -/
def State.redWordFault (s : State) (c : Nat) (j : Job) : Option (BitVec 6 × Word) :=
  if j.p 6 = 0#64 then none else s.runFault c needW (plainAddr (j.p 6)) 8

/-- The root ends a reduction that did not complete: TIMEOUT (code 2) or MISMATCH (code 3) (R260, R261). A fault of the status write parks the
job on XLATE, which keeps the code in `made` and ends it once it goes on, or ends it there (R272, R326) (log entry 51). -/
def State.redFail (s : State) (c slot : Nat) (j : Job) (code : Nat) : State :=
  let die := dieOf c
  let d := s.die die
  let k := j.redKey
  let here := d.partials.filter fun p => p.router = k.root && p.key = k
  let s1 := (s.setDie die { d with badRed := d.badRed.filter (· ≠ k), deadRed := k :: d.deadRed.filter (· ≠ k) }).setJob c slot
    { j with made := code }
  match s1.redWordFault c j with
  | some (cause, a) => s1.jobMeets c slot cause a
  | none =>
    let s2 := s1.redWrite c j (redStatus here code)
    let s3 := if j.p 5 = 0#64 then s2 else match s2.syncKey? c (j.p 5) with
      | some a => s2.jobFail c a
      | none => s2
    s3.endJob c slot 3 (if code = 2 then cTIMEOUT else cENGFAULT)

/-- The reduction whose root a started job is was found mismatched (R261). -/
def State.redBad (s : State) (c : Nat) (j : Job) : Bool :=
  j.kind = .rdsend && j.st ≠ .waiting && j.redKey.isRoot c && (s.die (dieOf c)).badRed.contains j.redKey

/-- The roots on a core whose reductions were found mismatched while its jobs were away end them (R261, R333). -/
def State.redOverdue (s : State) (c : Nat) : State :=
  ((s.eng c).jobs.filter fun j => s.redBad c j.2).foldl (fun (a : State) j => a.redFail c j.1 j.2 3) s

/-- A reduction is found mismatched: its root ends it now, or when its job comes (R261). -/
def State.redMismatch (s : State) (die : Nat) (k : RedKey) : State :=
  let c := routerCore die k.rrow k.rcol
  match s.rootJob c k with
  | some j => s.redFail c j.1 j.2 3
  | none =>
    let d := s.die die
    s.setDie die { d with badRed := k :: d.badRed.filter (· ≠ k) }

/-- A contribution or partial reaches a router of a die (R260, R261). On a mismatch the root of either key ends its reduction
(log entry 116). -/
def State.redArrive (s : State) (die : Nat) (p : Partial) : State :=
  let d := s.die die
  let here := d.partials.filter fun q => q.router = p.router && q.key.tag = p.key.tag
  if here.any fun q => laterEpoch q.key.epoch p.key.epoch then s
  else
    let kept := d.partials.filter fun q =>
      !(q.router = p.router && q.key.tag = p.key.tag && laterEpoch p.key.epoch q.key.epoch)
    let s1 := s.setDie die { d with partials := kept }
    if p.router = p.key.root && d.deadRed.contains p.key then s1
    else match here.find? fun q => q.key.epoch = p.key.epoch && q.key ≠ p.key with
    | some q => (s1.redMismatch die q.key).redMismatch die p.key
    | none => s1.setDie die { d with partials := kept ++ [p] }

/-- The inputs of a stage at a router, in the order west, north, east, south, local. -/
def inputsAt (ps : List Partial) (k : RedKey) (stage r : Nat) : List Partial :=
  (List.range 5).filterMap fun dir => ps.find? fun p => p.router = r && p.stage = stage && p.key = k && p.dir = dir

/-- Remove the first partial equal to one. -/
def dropPartial (p : Partial) : List Partial → List Partial
  | [] => []
  | x :: r => if x = p then r else x :: dropPartial p r

/-- ROUTER_COMBINE (R256): a router whose expected inputs are all present forms its output and sends it on. -/
def execRouterCombine (d r : Nat) (s : State) : Out :=
  let ps := (s.die d).partials
  let ready := ps.find? fun p => p.router = r && p.stage < 3 &&
    (inputsAt ps p.key p.stage r).map Partial.dir = expected p.key p.stage (r / 16) (r % 16)
  match ready with
  | none => .next s
  | some p =>
    match inputsAt ps p.key p.stage r with
    | [] => .next s
    | a :: rest =>
      let acc := rest.foldl (combine2 p.key.op) a
      let go := outputTo p.key p.stage (r / 16) (r % 16)
      let x := s.die d
      let s1 := s.setDie d { x with partials := (a :: rest).foldl (fun l q => dropPartial q l) x.partials }
      .next (s1.redArrive d { acc with router := go.1, stage := go.2.1, dir := go.2.2 })

/-- REDUCTION_HANDOVER (R255): the job reads its contribution and hands it to its router. -/
def execReductionHandover (c slot : Nat) (s : State) : Out :=
  match s.running? c slot .rdsend with
  | none => .next s
  | some j =>
    if j.prog ≠ 0 then .next s
    else
      let k := j.redKey
      let die := dieOf c
      let vals := (List.range k.nelem).map fun i => BitVec.ofNat 32 (s.rd (spKey c (fld (j.p 0) 0 22 + 4 * i)) 4)
      let d := s.die die
      let s1 := s.setJob c slot { j with prog := 1 }
      let s2 := if k.isRoot c then s1.setDie die { d with deadRed := d.deadRed.filter (· ≠ k) } else s1
      if k.isRoot c && d.badRed.contains k then .next (s2.redFail c slot { j with prog := 1 } 3)
      else
        let s3 := s2.redArrive die { router := routerNo (routerRow c) (routerCol c), stage := 1, dir := 4, key := k,
                                     launch := (s.core c).launch, count := 1, fl := 0#7, vals := vals }
        .next (if k.isRoot c then s3 else s3.endJob c slot 1 0#6)

/-- The complete result of a reduction, at its root. -/
def State.redResult (s : State) (die : Nat) (k : RedKey) : Option Partial :=
  (s.die die).partials.find? fun p => p.router = k.root && p.stage = 3 && p.key = k

/-- The results of a reduction reach DEST, unless they did so before its job parked at STATUS. -/
def State.redDest (s : State) (c slot : Nat) (j : Job) (p : Partial) : State :=
  if j.made ≠ 0 then s
  else
    let bytes := p.vals.flatMap fun v => (List.range 4).map fun b => v.toNat / 256 ^ b % 256
    (s.jobWrites c ((List.zip (List.range bytes.length) bytes).map fun b => ((plainAddr (j.p 3)).add b.1, b.2))).setJob c slot
      { j with made := 1 }

/-- REDUCTION_DONE (R258): DEST, the status, the signal, the end; a translation fault at DEST or at a status word in device memory parks
the job before that write (log entry 51). -/
def execReductionDone (c slot : Nat) (s : State) : Out :=
  match s.running? c slot .rdsend with
  | none => .next s
  | some j =>
    let k := j.redKey
    let die := dieOf c
    match s.redResult die k with
    | none => .next s
    | some p =>
      if !k.isRoot c || 2 ≤ j.made then .next s
      else match (if j.made ≠ 0 then none else s.runFault c needW (plainAddr (j.p 3)) (4 * k.nelem)) with
      | some (cause, a) => .next (s.jobMeets c slot cause a)
      | none =>
        let s1 := s.redDest c slot j p
        match s1.redWordFault c j with
        | some (cause, a) => .next (s1.jobMeets c slot cause a)
        | none =>
          let s2 := s1.redWrite c j (redStatus [p] 1)
          let s3 := if j.p 5 = 0#64 then s2 else match s2.syncKey? c (j.p 5) with
            | some a => s2.jobSignal c false a 1
            | none => s2
          let d := s3.die die
          .next ((s3.setDie die { d with partials := dropPartial p d.partials }).endJob c slot 1 0#6)

/-- REDUCTION_TIMEOUT (R260): the timer of a running root job expires with the result not complete, or a job that parked while it wrote such
an end goes on with it (log entries 41 and 51). -/
def execReductionTimeout (c slot : Nat) (s : State) : Out :=
  match s.running? c slot .rdsend with
  | none => .next s
  | some j =>
    if 2 ≤ j.made then .next (s.redFail c slot j j.made)
    else if !j.redKey.isRoot c || fld (j.p 4) 0 32 = 0 || (s.redResult (dieOf c) j.redKey).isSome then .next s
    else .next (s.redFail c slot j 2)

end Sys2Proof.Machine
end

