-- ==== Sys2Proof/Machine/Sketch.lean ====
section
/-! DEFINITION. Count sketches (spec/13 R291 to R309): descriptors, hash and quantity, the vector instructions and the jobs. -/

namespace Sys2Proof.Machine

/-! ## Descriptors (R291, R292) -/

/-- The first address of the scratchpad window (R192). -/
def windowBase : Nat := 2 ^ 52 - 2 ^ 33

def skArea (d logw : Nat) : Nat := 4 * d * 2 ^ logw

/-- A descriptor from its two doublewords: none where it is invalid (REASON 1) or its counters are not device memory
(REASON 2). -/
def skDesc (addr : Word) (w0 w1 : Nat) : Sum Nat SkDesc :=
  let d := w1 % 8
  let logw := w1 / 2 ^ 8 % 32
  let f := w1 / 2 ^ 16 % 32
  let base := w0 % 2 ^ 52
  if 2 ^ 52 ≤ w0 || w1 % 2 ^ 32 &&& 0xFFE0E0F8 ≠ 0 || d % 2 = 0 || logw < 3 || 24 < logw || 24 < f || base % 64 ≠ 0 then .inl 1
  else if windowBase < base + skArea d logw then .inl 2
  else .inr { addr := addr, base := base, salt := BitVec.ofNat 32 (w1 / 2 ^ 32), f := f, logw := logw, d := d }

/-- Two descriptors of the same shape (R307). -/
def SkDesc.same (a b : SkDesc) : Bool := a.d = b.d && a.logw = b.logw && a.f = b.f && a.salt = b.salt

/-- Bytes that a core reads as it issues, with its own unperformed writes over them (R300). -/
def State.readNow (s : State) (c key n : Nat) : Nat := overlay (s.core c).outs key (s.seen (dieOf c) key n) n

/-- A relaxed read of the core at a key must wait for an earlier access (R229). -/
def State.readHeld (s : State) (c key n : Nat) : Bool :=
  let a : Access := { kind := .read .none, tgt := .mem key, n := n, ord := 1, scope := 1, ea := 0#64, space := 2,
                      whole := false, key := 0#32, jobs := 0, done := none }
  (s.core c).outs.any fun b => b.done.isNone && b.blocks a

/-! ## Hash and quantity (R293, R294) -/

def hashA : List Nat := [0x9E3779B1, 0x85EBCA77, 0xC2B2AE3D, 0x27D4EB2F, 0x165667B1, 0xD3A2646D, 0xFD7046C5]
def hashB : List Nat := [0xB55A4F09, 0x68E31DA5, 0x1B873593, 0xCC9E2D51, 0xE6546B65, 0x8F1BBCDD, 0xCA62C1D7]

/-- Bucket of an index in a row, and whether its sign is -1. -/
def SkDesc.hash (k : SkDesc) (i : Word) (j : Nat) : Nat × Bool :=
  let x := (i.setWidth 32 ^^^ (i >>> 32).setWidth 32 ^^^ k.salt).toNat
  (x * hashA.getD j 0 % 2 ^ 32 / 2 ^ (32 - k.logw), (x * hashB.getD j 0).testBit 31)

/-- The address of the counter of an index in a row, and its sign. -/
def SkDesc.counter (k : SkDesc) (i : Word) (j : Nat) : Nat × Bool :=
  let h := k.hash i j
  (k.base + 4 * (j * 2 ^ k.logw + h.1), h.2)

/-- The quantity of a value with its flags and its status bits; FTZ of FMT has no part in it (R294, R297) (log entry 118). -/
def quantity (f : Nf) (mode draw shift bits : Nat) : Int × Flags × Nat :=
  match f.decode bits with
  | .nan _ _ _ => (0, fNV, 2)
  | .inf s => (if s then -(2 ^ 31 - 1) else 2 ^ 31 - 1, fSATF, 1)
  | .num s m e =>
    let r := roundDyad (.sint 200) (Codes.engine mode 0) draw s m (e + shift)
    let y := toInt 200 r.bits
    if clampS y = y then (y, r.fl &&& fNX, 0) else (clampS y, fNX ||| fSATF, 1)

/-! ## SKUPDV and SKQRYV (R297 to R302) -/

/-- TRAPINFO of Table 13-4. -/
def skInfo (reason : Nat) (a : Word) : Word := BitVec.ofNat 64 (reason * 2 ^ 60 + a.toNat % 2 ^ 52)

/-- The descriptor of a vector sketch instruction: its home and its fields, the wait for its read, or the trap of R300. The accesses of its
own bundle that the read comes after are performed first (R229). The descriptor itself may lie in a scratchpad window (log entry 119). -/
def skSource (a : Word) (s0 : State) (k : Nat → SkDesc → State → Out) : Out :=
  let s := s0.ownFirst State.perform
  let c := s.cur
  if a.toNat % 32 ≠ 0 then trapOut cALIGN (skInfo 0 a) s
  else if s.space = 1 || s.space = 3 && a.extractLsb' 52 12 ≠ Config.devRank then trapOut cPROT (skInfo 3 a) s
  else match s.resolve c s.space needR false a with
  | .bad cause _ => trapOut cause (skInfo 0 a) s
  | .ok (.mem key) =>
    if s.readHeld c key 16 then stallOut s
    else match skDesc a (s.readNow c key 8) (s.readNow c (key + 8) 8) with
    | .inl r => trapOut cPROT (skInfo r a) s
    | .inr d => k key d s
  | .ok _ => trapOut cPROT (skInfo 1 a) s

/-- One lane of a sketch instruction: its position in the register, its counters' homes with their signs. -/
structure SkLane where
  pos  : Nat
  rows : List (Bool × Nat × Nat)
  deriving DecidableEq, Repr

/-- The homes of the counters of an index, or the first fault with its address. -/
def State.skRows (s : State) (need : Need) (k : SkDesc) (i : Word) : Nat → Sum (BitVec 6 × Word) (List (Bool × Nat × Nat))
  | 0 => .inr []
  | n + 1 =>
    match s.skRows need k i n with
    | .inl f => .inl f
    | .inr rs =>
      let x := k.counter i n
      match s.resolve s.cur 2 need false (BitVec.ofNat 64 x.1) with
      | .bad cause _ => .inl (cause, skInfo 0 (BitVec.ofNat 64 x.1))
      | .ok (.mem key) => .inr (rs ++ [(x.2, key, x.1)])
      | .ok _ => .inl (cPROT, skInfo 2 (BitVec.ofNat 64 x.1))

/-- The active lanes, lowest first, with every counter resolved (R300). -/
def State.skLanes (s : State) (need : Need) (o : Vec) (k : SkDesc) : Sum (BitVec 6 × Word) (List SkLane) :=
  let m := s.vMask o
  let ps := ((List.range (vWidth o.wd / 32)).map fun i => vBase o.lg + 32 * i).filter (laneOn m)
  ps.foldl (fun acc pos => match acc with
    | .inl f => .inl f
    | .inr ls =>
      match s.skRows need k (BitVec.ofNat 64 (opC o s pos 32 * 2 ^ 32 + opB o s pos 32)) k.d with
      | .inl f => .inl f
      | .inr rs => .inr (ls ++ [{ pos := pos, rows := rs }])) (.inr [])

/-- X8[6:0], the descriptor's source. -/
def skSrc (o : Vec) : BitVec 7 := (vx o).x8.setWidth 7

/-- One event of a sketch instruction at a home. -/
def State.skEvent (s : State) (kind : AccKind) (key addr n : Nat) : Access :=
  { (s.mkAccess kind (.mem key) n (BitVec.ofNat 64 addr) false) with space := 2 }

/-- SKUPDV (R298). -/
def execSkupdv (o : Vec) (s : State) : Out :=
  vecOp (.skupdv o) o (srcReg (skSrc o) ++ [.v o.va, .v o.vb, .v (vx o).vc]) s fun s =>
    let a := s.me.src (skSrc o)
    skSource a (s.noteLatches [skSrc o]) fun desc k s =>
      match s.skLanes needRW o k with
      | .inl (cause, info) => trapOut cause info s
      | .inr lanes =>
        let mode := s.codes.mode
        let r := lanes.foldl (fun (t : State × Flags) ln =>
          let dr := if mode = 6 then t.1.draw else (0, t.1)
          let q := quantity .f32 mode dr.1 k.f (opA o s ln.pos 32)
          let s1 := if q.2.2 ≠ 0 && q.1 = 0 then
              dr.2.issueOne State.perform (s.skEvent (.sketch 0 k.base desc q.2.2 (a.toNat % 2 ^ 52 + 16)) (desc + 16) (a.toNat % 2 ^ 52 + 16) 8)
            else dr.2
          let s2 := if q.1 = 0 then s1 else
            ln.rows.foldl (fun (u : State) x =>
              u.issueOne State.perform
                (s.skEvent (.sketch (if x.1 then -q.1 else q.1) k.base desc q.2.2 (a.toNat % 2 ^ 52 + 16)) x.2.1 x.2.2 4)) s1
          (s2, t.2 ||| q.2.1)) (s, (0#7 : Flags))
        .next (r.1.postFlags 1 r.2)

/-- SKQRYV (R299). -/
def execSkqryv (o : Vec) (s : State) : Out :=
  vecOp (.skqryv o) o (srcReg (skSrc o) ++ [.v o.vd, .v o.vb, .v (vx o).vc]) s fun s =>
    let a := s.me.src (skSrc o)
    skSource a (s.noteLatches [skSrc o]) fun _ k s =>
      match s.skLanes needR o k with
      | .inl (cause, info) => trapOut cause info s
      | .inr lanes =>
        let mode := s.codes.mode
        .next (lanes.foldl (fun (t : State) ln =>
          let dr := if mode = 6 then t.draw else (0, t)
          let first := ln.rows.headD (false, 0, 0)
          dr.2.issueOne State.perform
            (s.skEvent (.query o.vd ln.pos (ln.rows.map fun x => (x.1, x.2.1)) k.base k.f mode dr.1 []) first.2.1 first.2.2 4)) s)

/-! ## Jobs (R305 to R309) -/

/-- A device address or a flat address of this rank (log entry 97). -/
def devAddr (a : Word) : Option Nat :=
  if a.toNat < 2 ^ 52 then some a.toNat
  else if a.extractLsb' 52 12 = Config.devRank then some (a.toNat % 2 ^ 52) else none

/-- A descriptor as a submit reads it: whether it must wait, its trap, or its fields where it is valid. -/
structure SkRead where
  hold : Bool
  trap : Option (BitVec 6 × Word)
  desc : Option SkDesc
  deriving DecidableEq, Repr

def State.skRead (s : State) (a : Word) : SkRead :=
  let no : SkRead := { hold := false, trap := none, desc := none }
  match devAddr a with
  | none => no
  | some va =>
    if va % 32 ≠ 0 then no
    else match s.device (dieOf s.cur) (isSup s.cur) (s.launch? s.me.launch) needR false (BitVec.ofNat 64 va) with
    | .bad cause _ => { no with trap := some (cause, skInfo 0 a) }
    | .ok (.mem key) =>
      if s.readHeld s.cur key 16 then { no with hold := true }
      else match skDesc (BitVec.ofNat 64 va) (s.readNow s.cur key 8) (s.readNow s.cur (key + 8) 8) with
      | .inr d => { no with desc := some d }
      | .inl _ => no
    | .ok _ => no

def SkDesc.area (k : SkDesc) : Span := { sp := 2, lo := k.base, hi := k.base + skArea k.d k.logw - 1 }
def SkDesc.word (k : SkDesc) : Span := { sp := 2, lo := k.addr.toNat + 16, hi := k.addr.toNat + 23 }
def SkDesc.head (k : SkDesc) : Span := { sp := 2, lo := k.addr.toNat, hi := k.addr.toNat + 15 }

/-- The trap of the first read that faults, with its parameter. -/
def earlyOf (xs : List (Nat × SkRead)) : Option (Nat × BitVec 6 × Word) :=
  xs.findSome? fun x => x.2.trap.map fun t => (x.1, t)

/-- SKUPD's fields. -/
def suCount (ps : List Word) : Nat := fld (ps.getD 4 0#64) 0 32 + 1
def suFmt (ps : List Word) : Nat := fld (ps.getD 4 0#64) 36 4
def suBytes (ps : List Word) : Nat := fmtBits (suFmt ps) / 8
def suImpl (ps : List Word) : Bool := (ps.getD 4 0#64).getLsbD 35

def skupdSubmit (s : State) : Submit :=
  let ps := s.me.eng.all 3
  let p (n : Nat) : Word := ps.getD n 0#64
  let r := s.skRead (p 0)
  let vals := plainAddr (p 1)
  let idx := plainAddr (p 2)
  let fmtBad := !([0, 2, 3].contains (suFmt ps))
  let hullBad := !vals.fits (suCount ps * suBytes ps) || !suImpl ps && !idx.fits (suCount ps * 8)
  let bad := firstBad [(0, r.trap.isNone && r.desc.isNone), (1, !fmtBad && misaligned (p 1) (suBytes ps)),
    (2, !suImpl ps && misaligned (p 2) 8), (4, fld (p 4) 40 24 ≠ 0 || fmtBad || fld (p 4) 32 3 = 7 || hullBad),
    (5, fld (p 5) 32 32 ≠ 0), (6, misaligned (p 6) 16)]
  let ins := [vals.span s.cur (suCount ps * suBytes ps)] ++
    (if suImpl ps then [] else [idx.span s.cur (suCount ps * 8)])
  let ds := r.desc.toList
  { kind := .skupd, hold := r.hold, early := earlyOf [(0, r)], bad := bad, mode := false, locals := touchesOf ins, tiles := [],
    forms := [p 6], reads := ds.map SkDesc.head ++ ins, writes := ds.map SkDesc.area ++ ds.map SkDesc.word,
    fill := fun j => { j with desc := ds } }

def skaddSubmit (s : State) : Submit :=
  let ps := s.me.eng.all 3
  let p (n : Nat) : Word := ps.getD n 0#64
  let r0 := s.skRead (p 0)
  let r1 := s.skRead (p 1)
  let differ := match r0.desc, r1.desc with
    | some a, some b => !a.same b
    | _, _ => false
  let bad := firstBad [(0, r0.trap.isNone && r0.desc.isNone), (1, r1.trap.isNone && r1.desc.isNone || differ),
    (6, misaligned (p 6) 16)]
  let a := r0.desc.toList
  let b := r1.desc.toList
  { kind := .skadd, hold := r0.hold || r1.hold, early := earlyOf [(0, r0), (1, r1)], bad := bad, mode := false, locals := [],
    tiles := [], forms := [p 6], reads := b.map SkDesc.area ++ b.map SkDesc.word,
    writes := a.map SkDesc.area ++ a.map SkDesc.word, fill := fun j => { j with desc := a ++ b } }

def skclrSubmit (s : State) : Submit :=
  let ps := s.me.eng.all 3
  let p (n : Nat) : Word := ps.getD n 0#64
  let r := s.skRead (p 0)
  let a := r.desc.toList
  { kind := .skclr, hold := r.hold, early := earlyOf [(0, r)],
    bad := firstBad [(0, r.trap.isNone && r.desc.isNone), (6, misaligned (p 6) 16)], mode := false, locals := [], tiles := [],
    forms := [p 6], reads := [], writes := a.map SkDesc.area ++ a.map SkDesc.word, fill := fun j => { j with desc := a } }

/-- A guarded submit that reads memory, after the accesses of its own bundle that the read comes after (R229). -/
def readSubmit (o : En) (u : State → Submit) (s : State) : Out :=
  guarded o.gw [] s fun s => submit o o.eng.toNat u (s.ownFirst State.perform)

def execSkupd (o : En) (s : State) : Out := readSubmit o skupdSubmit s
def execSkadd (o : En) (s : State) : Out := readSubmit o skaddSubmit s
def execSkclr (o : En) (s : State) : Out := readSubmit o skclrSubmit s

/-- The groups of 256 values, or the 4 KiB granules, of a sketch job. -/
def skGroups (j : Job) : Nat :=
  if j.kind = .skupd then (suCount j.ps + 255) / 256
  else (j.desc.map fun k => (skArea k.d k.logw + 4095) / 4096).headD 0

/-- The key of a counter or a status word of a job, or its fault. -/
def State.skKey (s : State) (c : Nat) (need : Need) (va : Nat) : Sum (BitVec 6 × Word) Nat :=
  match s.meet c need (.dev va) with
  | .key k => .inr k
  | .fault cause a => .inl (cause, a)
  | .port _ _ => .inl (cPROT, BitVec.ofNat 64 va)

/-- Bytes that a job reads, as a number. -/
def State.jobNat (s : State) (c : Nat) (a : JobAddr) (n : Nat) : Nat :=
  leNat ((List.range n).map fun i => BitVec.ofNat 8 (s.jobRead c (a.add i)))

/-- Value `k` of a SKUPD and its index. -/
def State.suValue (s : State) (c : Nat) (j : Job) (k : Nat) : Nat × Word :=
  (s.jobNat c ((plainAddr (j.p 1)).add (k * suBytes j.ps)) (suBytes j.ps),
   if suImpl j.ps then j.p 3 + BitVec.ofNat 64 k else BitVec.ofNat 64 (s.jobNat c ((plainAddr (j.p 2)).add (8 * k)) 8))

/-- The first fault of a group of a SKUPD: values, indices, then counters. A group that meets one has performed none of its updates
(log entry 51). -/
def State.suFault (s : State) (c : Nat) (j : Job) (d : SkDesc) (lo n : Nat) : Option (BitVec 6 × Word) :=
  let run (a : JobAddr) (len : Nat) : Option (BitVec 6 × Word) := s.runFault c needR a len
  match run ((plainAddr (j.p 1)).add (lo * suBytes j.ps)) (n * suBytes j.ps) with
  | some f => some f
  | none =>
    match if suImpl j.ps then none else run ((plainAddr (j.p 2)).add (8 * lo)) (8 * n) with
    | some f => some f
    | none =>
      match s.skKey c needRW (d.addr.toNat + 16) with
      | .inl f => some f
      | .inr _ =>
        (List.range n).findSome? fun i => (List.range d.d).findSome? fun r =>
          match s.skKey c needRW (d.counter (s.suValue c j (lo + i)).2 r).1 with
          | .inl f => some f
          | .inr _ => none

/-- One value of a SKUPD with its updates. -/
def State.suOne (s : State) (c slot : Nat) (j : Job) (d : SkDesc) (k : Nat) : State :=
  match s.job? c slot with
  | none => s
  | some cur =>
    let v := s.suValue c j k
    let rnd := fld (j.p 4) 32 3
    let mode := if rnd = 0 then 1 else rnd
    let sd := if mode = 6 then xorshift cur.seed else cur.seed
    let q := quantity (Nf.ofCode (suFmt j.ps)) mode (if mode = 6 then (sd >>> 8).toNat else 0) d.f v.1
    let s1 := s.setJob c slot { cur with seed := sd, fl := cur.fl ||| q.2.1 }
    match s1.skKey c needRW d.addr.toNat with
    | .inl _ => s1
    | .inr dk =>
      let l := (s1.core c).launch
      let at' := d.addr.toNat + 16
      let s2 := s1.skStatusBy l at' (dieOf c) dk q.2.2
      (List.range d.d).foldl (fun (t : State) r =>
        let x := d.counter v.2 r
        match t.skKey c needRW x.1 with
        | .inl _ => t
        | .inr ck =>
          (t.skUpdateBy l at' (dieOf c) ck dk (if x.2 then -q.1 else q.1) 0).notePage l x.1) s2

/-- One counter of a SKADD; a destination counter in the overlap of areas that are not the same takes a free value in range (log entries 7 and 52). -/
def State.saOne (s : State) (c : Nat) (a b : SkDesc) (k dst src dk : Nat) : State :=
  let va := a.base + 4 * k
  if a.base ≠ b.base && b.base ≤ va && va < b.base + skArea b.d b.logw then
    let f := s.fresh
    (f.2.flushLine (dieOf c) (dst / 64)).store dst 4 (ofInt 32 (clampS (toInt 32 f.1.toNat)))
  else s.skUpdateBy (s.core c).launch (a.addr.toNat + 16) (dieOf c) dst dk (toInt 32 (s.seen (dieOf c) src 4)) 0

/-- SKETCH_JOB_GROUP (R306 to R309): the next group of 256 values or the next granule of counters. -/
def execSketchJobGroup (c slot : Nat) (s : State) : Out :=
  match s.job? c slot with
  | none => .next s
  | some j =>
    if j.st ≠ .running || skGroups j ≤ j.prog then .next s
    else
      let step (t : State) : State := match t.job? c slot with
        | some x => t.setJob c slot { x with prog := x.prog + 1 }
        | none => t
      match j.kind, j.desc with
      | .skupd, d :: _ =>
        let lo := 256 * j.prog
        let n := min 256 (suCount j.ps - lo)
        match s.suFault c j d lo n with
        | some (cause, a) => .next (s.jobMeets c slot cause a)
        | none => .next (step ((List.range n).foldl (fun (t : State) i => t.suOne c slot j d (lo + i)) s))
      | .skadd, [a, b] =>
        let lo := 1024 * j.prog
        let n := min 1024 (skArea a.d a.logw / 4 - lo)
        let keys := (List.range n).map fun i =>
          (s.skKey c needR (b.base + 4 * (lo + i)), s.skKey c needRW (a.base + 4 * (lo + i)))
        match keys.findSome? fun x => match x.1, x.2 with
            | .inl f, _ => some f | _, .inl f => some f | _, _ => none with
        | some (cause, x) => .next (s.jobMeets c slot cause x)
        | none =>
          match s.skKey c needRW a.addr.toNat with
          | .inl (cause, x) => .next (s.jobMeets c slot cause x)
          | .inr dk =>
            .next (step ((List.range n).foldl (fun (t : State) i =>
              match t.skKey c needR (b.base + 4 * (lo + i)), t.skKey c needRW (a.base + 4 * (lo + i)) with
              | .inr src, .inr dst => (t.saOne c a b (lo + i) dst src dk).notePage (t.core c).launch (a.base + 4 * (lo + i))
              | _, _ => t) s))
      | .skclr, d :: _ =>
        let at' : JobAddr := .dev (d.base + 4096 * j.prog)
        let n := min 4096 (skArea d.d d.logw - 4096 * j.prog)
        match s.runFault c needW at' n with
        | some (cause, a) => .next (s.jobMeets c slot cause a)
        | none => .next (step (s.jobWrites c ((List.range n).map fun i => (at'.add i, 0))))
      | _, _ => .next s

/-- The fault that a status word gives as a sketch job ends (R309). -/
def State.skEndFault (s : State) (c : Nat) (j : Job) : Option (BitVec 6 × Word) :=
  let at' (need : Need) (d : SkDesc) : Option (BitVec 6 × Word) :=
    match s.skKey c need (d.addr.toNat + 16) with
    | .inl f => some f
    | .inr _ => none
  match j.kind, j.desc with
  | .skadd, [a, b] => match at' needR b with | some f => some f | none => at' needRW a
  | .skclr, d :: _ => at' needRW d
  | _, _ => none

/-- What a sketch job does as it ends: SKADD passes on the source's status bits, SKCLR clears the status word. -/
def State.skEnd (s : State) (c : Nat) (j : Job) : State :=
  match j.kind, j.desc with
  | .skadd, [a, b] =>
    match s.skKey c needRW a.addr.toNat, s.skKey c needR b.addr.toNat with
    | .inr da, .inr db => s.skStatusBy (s.core c).launch (a.addr.toNat + 16) (dieOf c) da (s.seen (dieOf c) (db + 16) 8 % 4)
    | _, _ => s
  | .skclr, d :: _ =>
    match s.skKey c needRW d.addr.toNat with
    | .inr k => (s.atomic (dieOf c) (k + 16) 8 .and (2 ^ 64 - 4)).2.notePage (s.core c).launch (d.addr.toNat + 16)
    | .inl _ => s
  | _, _ => s

end Sys2Proof.Machine
end

