-- ==== Sys2Proof/Machine/Windows.lean ====
section
/-! DEFINITION. Receive windows (spec/16 R373 to R381): geometry, the arming, the placement of chunks, the completion of tiles
and its ring; and what the transport does to a job, which waits for the restore where the job is a victim's (R331, R381). -/

namespace Sys2Proof.Machine

/-! ## Geometry (R373) -/

/-- The four 16-bit fields of a shape. -/
def quad (x : Word) : List Nat := (List.range 4).map fun k => fld x (16 * k) 16
/-- The four fields of a shape stored as value - 1. -/
def quad1 (x : Word) : List Nat := (quad x).map (· + 1)

def prodOf (xs : List Nat) : Nat := xs.foldl (· * ·) 1
def dot (xs ys : List Nat) : Nat := (List.zipWith (· * ·) xs ys).sum
def ceilDivs (xs ys : List Nat) : List Nat := List.zipWith (fun x y => (x + y - 1) / y) xs ys

/-- The coordinates of a linear number, the first fastest. -/
def coordsOf (dims : List Nat) (n : Nat) : List Nat :=
  match dims with
  | [] => []
  | d :: r => n % d :: coordsOf r (n / d)

/-- The linear number of coordinates. -/
def linearOf (dims cs : List Nat) : Nat :=
  match dims, cs with
  | d :: r, c :: q => c + d * linearOf r q
  | _, _ => 0

/-- Elements, chunks, tiles and strides of a window, or of the source of a placement. -/
structure Grid where
  es  : Nat
  ext : List Nat
  chk : List Nat
  til : List Nat
  str : List Nat
  deriving DecidableEq, Repr

/-- Strides of the four dimensions: the element size, then the fields of two parameters. -/
def stridesOf (es : Nat) (a b : Word) : List Nat := [es, fld a 0 32, fld a 32 32, fld b 0 32]

/-- The window of XARM parameters. -/
def armGrid (ps : List Word) : Grid :=
  let p (n : Nat) : Word := ps.getD n 0#64
  { es := 2 ^ fld (p 2) 0 2, ext := quad1 (p 3), chk := quad1 (p 4), til := quad1 (p 5),
    str := stridesOf (2 ^ fld (p 2) 0 2) (p 8) (p 9) }

/-- The source grid of a placement XWR. -/
def placeGrid (ps : List Word) : Grid :=
  let p (n : Nat) : Word := ps.getD n 0#64
  { es := 2 ^ fld (p 2) 0 2, ext := quad1 (p 10), chk := quad1 (p 5), til := [1, 1, 1, 1],
    str := stridesOf (2 ^ fld (p 2) 0 2) (p 8) (p 9) }

/-- The chunk grid, and the tile grid. -/
def Grid.chunks (x : Grid) : List Nat := ceilDivs x.ext x.chk
def Grid.tiles (x : Grid) : List Nat := ceilDivs x.chunks x.til

/-- The offset of an element. -/
def Grid.off (x : Grid) (e : List Nat) : Nat := dot e x.str

/-- Numbers from `lo` up to `hi`, `hi` not included. -/
def span (lo hi : Nat) : List Nat := (List.range (hi - lo)).map (lo + ·)

/-- All coordinates in a box, the first coordinate fastest. -/
def boxOf (los his : List Nat) : List (List Nat) :=
  match los, his with
  | lo :: r, hi :: q => (boxOf r q).flatMap fun t => (span lo hi).map fun e => e :: t
  | _, _ => [[]]

/-- The elements of a chunk, e0 fastest (R376). -/
def Grid.elems (x : Grid) (c : List Nat) : List (List Nat) :=
  boxOf (List.zipWith (· * ·) c x.chk)
    (List.zipWith min x.ext (List.zipWith (fun c k => (c + 1) * k) c x.chk))

/-- The tile of a chunk. -/
def Grid.tileOf (x : Grid) (c : List Nat) : Nat := linearOf x.tiles (List.zipWith (· / ·) c x.til)

/-- The chunks of a tile, by linear number. -/
def Grid.chunksOf (x : Grid) (t : Nat) : List Nat :=
  let h := coordsOf x.tiles t
  (boxOf (List.zipWith (· * ·) h x.til)
    (List.zipWith min x.chunks (List.zipWith (fun c k => (c + 1) * k) h x.til))).map (linearOf x.chunks)

/-- The bytes of a chunk, and of a tile. -/
def Grid.chunkBytes (x : Grid) (c : List Nat) : Nat :=
  x.es * prodOf (List.zipWith (· - ·) (List.zipWith min x.ext (List.zipWith (fun c k => (c + 1) * k) c x.chk))
    (List.zipWith (· * ·) c x.chk))
def Grid.tileBytes (x : Grid) (t : Nat) : Nat :=
  ((x.chunksOf t).map fun n => x.chunkBytes (coordsOf x.chunks n)).sum

/-- The bytes of both bitmaps (R375). -/
def Grid.bitmapBytes (x : Grid) : Nat := 8 * ((prodOf x.chunks + 63) / 64) + 8 * ((prodOf x.tiles + 63) / 64)

/-! ## Jobs of cores and of victims -/

/-- The job of a core with a number: its slot, and whether it is a victim's. -/
def State.jobOf? (s : State) (c ord : Nat) : Option (Nat × Job × Bool) :=
  match (s.eng c).jobs.find? fun j => j.2.ord = ord with
  | some (k, j) => some (k, j, false)
  | none =>
    match (tabGet? s.victims (domeKey c)).bind fun v => tabGet? v.cores c with
    | none => none
    | some x => (x.eng.jobs.find? fun j => j.2.ord = ord).map fun j => (j.1, j.2, true)

/-- The launch of a core, or of the victim on it. -/
def State.launchOf (s : State) (c : Nat) (pre : Bool) : Option Nat :=
  if pre then ((tabGet? s.victims (domeKey c)).bind fun v => tabGet? v.cores c).bind fun x => x.launch
  else (s.core c).launch

/-- What a job of a core or of its victim meets at an address. -/
def State.meetAs (s : State) (c : Nat) (pre : Bool) (n : Need) (a : JobAddr) : Met :=
  match a with
  | .loc o => .key (s.winKey c pre o)
  | .dev v =>
    match s.device (dieOf c) (isSup c) (s.launch? (s.launchOf c pre)) n false (BitVec.ofNat 64 v) with
    | .ok (.mem k) => .key k
    | .ok (.port l off) => .port l off
    | .ok _ => .fault cPROT (BitVec.ofNat 64 v)
    | .bad cause x => .fault cause x

/-- Write one byte for such a job. -/
def State.writeAs (s : State) (c : Nat) (pre : Bool) (a : JobAddr) (x : Nat) : State :=
  match s.meetAs c pre needW a with
  | .key k =>
    let s1 := s.putBy (dieOf c) k 1 x
    match a with
    | .loc _ => s1
    | .dev v => s1.notePage (s.launchOf c pre) v
  | _ => s

/-- Write bytes for such a job as one access: a misuse of a port area counts once for it (R183) (log entry 83). -/
def State.writesAs (s : State) (c : Nat) (pre : Bool) (ws : List (JobAddr × Byte)) : State :=
  let s1 := ws.foldl (fun (t : State) w => t.writeAs c pre w.1 w.2.toNat) s
  let ports := ws.foldl (fun (ls : List Nat) w => match s.meetAs c pre needW w.1 with
    | .port l _ => if ls.contains l then ls else l :: ls
    | _ => ls) []
  ports.foldl (fun (t : State) l => match t.launch? (some l) with
    | some l => t.dropAt (dieOf c) l.root.toNat
    | none => t) s1

/-- What hardware does for a victim's job, with the victim's core in place of the newcomer's (R331). -/
def State.inVictim (s : State) (c : Nat) (f : State → State) : State :=
  match (tabGet? s.victims (domeKey c)).bind fun v => tabGet? v.cores c with
  | none => s
  | some y =>
    let t := f (s.setCore c y)
    let u := match tabGet? t.victims (domeKey c) with
      | some w => { t with victims := tabPut t.victims (domeKey c) { w with cores := tabPut w.cores c (t.core c) } }
      | none => t
    u.setCore c (s.core c)

/-- A job whose footprint touches its core's scratchpad (R331). -/
def Job.local (j : Job) : Bool := !(localsOf (j.reads ++ j.writes)).isEmpty

/-- PHASER of a transport job takes bytes (R369, R378). -/
def State.bytesSignal (s : State) (c : Nat) (j : Job) (n : Nat) : State :=
  if j.p 7 = 0#64 then s else match s.syncKey? c (j.p 7) with
    | some k => s.jobSignal c true k n
    | none => s

/-- Release unit `t` of job `ord` in the task table (R270). -/
def Engines.release (e : Engines) (ord t : Nat) : Engines :=
  { e with jobs := e.jobs.map fun (x : Nat × Job) =>
      (x.1, { x.2 with edges := x.2.edges.filterMap fun (g : Edge) =>
        match g.units with
        | some us =>
          if g.ord = ord then
            if (us.filter (· ≠ t)).isEmpty then none else some { g with units := some (us.filter (· ≠ t)) }
          else some g
        | none => some g }) }

/-- A tile is released, signalled and counted; the last one ends the job (R378). -/
def State.tileDone (s : State) (c slot t bytes : Nat) : State :=
  match s.job? c slot with
  | none => s
  | some j =>
    let s1 := s.setEng c ((s.eng c).release j.ord t)
    let s2 := (s1.setJob c slot { (s1.job? c slot).getD j with prog := j.prog + 1 }).bytesSignal c j bytes
    if j.prog + 1 = prodOf (armGrid j.ps).tiles then s2.endJob c slot 1 0#6 else s2

/-- A packet of a job is retired: PROGRESS and the phaser's bytes (R369, R394); a collective counts it (R412). -/
def State.retired (s : State) (c slot bytes : Nat) : State :=
  match s.job? c slot with
  | none => s
  | some j => match j.coll with
    | some k => s.setJob c slot { j with coll := some { k with acks := k.acks + 1 } }
    | none => (s.setJob c slot { j with prog := j.prog + 1 }).bytesSignal c j bytes

/-- The transport ends a job with CODE 3: a collective whose packet its peer rejects with EPEER (R405, R412). -/
def State.failedBy (s : State) (c slot : Nat) (cause : BitVec 6) (peer : BitVec 12) : State :=
  match s.job? c slot with
  | none => s
  | some j => if j.kind = .xcoll then s.collFail c slot j 5 peer.toNat cREMOTE else s.endJob c slot 3 cause

/-- What the transport does to a job of a core (log entry 68). -/
def State.applyHeld (s : State) (c ord : Nat) (h : Held) : State :=
  match (s.eng c).jobs.find? fun j => j.2.ord = ord with
  | none => s
  | some (slot, _) =>
    match h with
    | .retired bytes => s.retired c slot bytes
    | .failed cause peer => s.failedBy c slot cause peer
    | .tile t bytes => s.tileDone c slot t bytes

/-- What the transport does to a job, at once or, for a victim's, at the restore. A job that has ended is left alone (R395) (log entry 68). -/
def State.onJob (s : State) (c ord : Nat) (h : Held) : State :=
  match s.jobOf? c ord with
  | none => s
  | some (_, _, false) => s.applyHeld c ord h
  | some (_, _, true) =>
    match tabGet? s.victims (domeKey c) with
    | none => s
    | some v => { s with victims := tabPut s.victims (domeKey c) { v with held := v.held ++ [(c, ord, h)] } }

/-! ## Arming (R374, R375) -/

/-- Write zero to `n` bytes of a core's scratchpad. -/
def State.zeroLocal (s : State) (c off : Nat) : Nat → State
  | 0 => s
  | n + 1 => (s.zeroLocal c off n).store (spKey c (off + n)) 1 0

/-- The start of an XARM job. -/
def State.armStart (s : State) (c : Nat) (j : Job) : State :=
  let win := fld (j.p 1) 32 10
  let w := s.takeWindow c j win .armed
  let s1 := (s.setWindow win w).zeroLocal c (fld (j.p 10) 0 22) (armGrid j.ps).bitmapBytes
  match ringOf j.ps with
  | none => s1
  | some r => s1.store (spKey c r.1) 8 0

/-! ## Placement -/

/-- Set bit `n` of a bitmap from a local offset on, by an atomic OR. -/
def State.setBit (s : State) (c : Nat) (pre : Bool) (off n : Nat) : State :=
  let k := s.winKey c pre (off + 8 * (n / 64))
  s.store k 8 (s.rd k 8 ||| 2 ^ (n % 64))

/-- The addresses of a chunk's bytes with its data. -/
def Grid.bytesOf (x : Grid) (base : JobAddr) (c : List Nat) (data : List Byte) : List (JobAddr × Byte) :=
  let at' := (x.elems c).flatMap fun e => (List.range x.es).map fun b => base.add (x.off e + b)
  List.zip at' (data ++ List.replicate (at'.length - data.length) 0#8)

/-- A victim's window is held: its elements touch the scratchpad of its core (R331), or lie in a bank that a newcomer has claimed on another
core of its launch (R381) (log entry 67). -/
def State.windowClaimed (s : State) (c : Nat) (j : Job) : Bool :=
  !(localsOf j.writes).isEmpty || s.cores.any fun e =>
    e.2.smSpm ≠ 0#64 && s.launchOf e.1 true = s.launchOf c true &&
      (List.range 64).any fun b => e.2.smSpm.getLsbD b && j.writes.any fun p => p.reaches e.1 b

/-- Write a chunk and have it performed: bytes homed on other dies go home before its arrival bit is set (R377, R378). -/
def State.sendChunk (s : State) (c : Nat) (pre : Bool) (ws : List (JobAddr × Byte)) : State :=
  (ws.filterMap fun w => match s.meetAs c pre needW w.1 with | .key k => some (k / 64) | _ => none).dedup.foldl
    (fun (t : State) l => t.sendLine (dieOf c) l) (s.writesAs c pre ws)

/-- Write a chunk, set its bit, and complete its tile where it is the last of it (R377, R378). -/
def State.placeChunk (s : State) (win : Nat) (j : Job) (pre : Bool) (base : JobAddr) (coord : List Nat) (data : List Byte) :
    State :=
  let w := s.window win
  let c := w.core
  let x := armGrid w.ps
  let n := linearOf x.chunks coord
  let s1 := s.sendChunk c pre (x.bytesOf base coord data)
  let map := fld (w.ps.getD 10 0#64) 0 22
  let s2 := s1.setBit c pre map n
  let got := w.got ||| 2 ^ n
  let t := x.tileOf coord
  if (x.chunksOf t).all got.testBit then
    let w1 := { w with got := got, tiles := w.tiles ||| 2 ^ t }
    let s3 := ((s2.release (dieOf c)).setBit c pre (map + 8 * ((prodOf x.chunks + 63) / 64)) t).setWindow win w1
    let last := bitsOf w1.tiles (prodOf x.tiles) = prodOf x.tiles
    let r := s3.ringPut c pre w1 (ringWord 1 win w.arm) (BitVec.ofNat 64 (x.tileBytes t * 2 ^ 32 + t))
    let r2 := if last then r.1.ringPut c pre { r.2 with st := .complete } (ringWord 2 win w.arm) 0#64 else r
    (r2.1.setWindow win r2.2).onJob c j.ord (.tile t (x.tileBytes t))
  else s2.setWindow win { w with got := got }

/-- The first fault among the bytes of a chunk (log entry 67). -/
def State.chunkFault (s : State) (c : Nat) (pre : Bool) (n : Need) (at' : List JobAddr) : Option (BitVec 6 × Word) :=
  at'.findSome? fun a => match s.meetAs c pre n a with
    | .fault cause x => some (cause, x)
    | _ => none

/-- The key of a byte of the ring of an entry (R331) (log entry 78). -/
def State.entKey (s : State) (e : RingEnt) (off : Nat) : Nat := s.bankKey (s.launch? e.launch) e.core off

/-- The oldest waiting entry of a window is written where its ring has room, and its bytes return to QPOOL; then the next of
them that QPOOL had not taken charges it (R188, R380) (log entry 78). -/
def State.refillRing (s : State) (win : Nat) : State :=
  let w := s.window win
  match w.spill with
  | [] => s
  | e :: rest =>
    let hd := s.rd (s.entKey e (e.base + 8)) 8
    let tl := s.rd (s.entKey e e.base) 8
    let s1 :=
      if (tl + 2 ^ 64 - hd) % 2 ^ 64 = e.size then s
      else
        let k := e.base + 16 + 16 * (tl % e.size)
        let a := (s.store (s.entKey e k) 8 e.x.toNat).store (s.entKey e (k + 8)) 8 e.y.toNat
        let b := a.store (s.entKey e e.base) 8 ((tl + 1) % 2 ^ 64)
        let d := match e.paid with
          | some q => b.pool q.1 q.2 32
          | none => b
        d.setWindow win { w with spill := rest }
    let w1 := s1.window win
    match w1.spill.find? (fun x => x.paid.isNone), w1.pool with
    | some x, some q =>
      if 32 ≤ s1.dev q.1 q.2 8 then
        (s1.pool q.1 q.2 (-32)).setWindow win
          { w1 with spill := (w1.spill.takeWhile fun y => y.paid.isSome) ++ { x with paid := some q } ::
              (w1.spill.dropWhile fun y => y.paid.isSome).tail }
      else s1
    | _, _ => s1

/-- A launch has ended (R374): its armed windows are CANCELLED, and an entry that no running launch has armed returns to its
reset state. -/
def State.closeWindows (s : State) (l : Nat) (lid : BitVec 32) : State :=
  { s with windows := s.windows.filterMap fun (e : Nat × Window) =>
      let used := e.2.used.filter (· ≠ l)
      let st := if e.2.st = .armed && e.2.lid = lid then WinSt.cancelled else e.2.st
      if used.isEmpty && !e.2.pend then none else some (e.1, { e.2 with st := st, used := used }) }

end Sys2Proof.Machine
end

