-- ==== Sys2Proof/Machine/Preempt.lean ====
section
/-! DEFINITION. Pre-emption by bank claiming (spec/14 R328 to R334): the stop of the victim, the claims of its banks, and
its restore. -/

namespace Sys2Proof.Machine

/-! ## The stop of the victim (R329) -/

/-- A core of the victim issues nothing more: it has issued what its queue holds, or stands at a JOIN or a TWAIT, or at the
boundary of a core that is stopped, held, detached or exited. A remote answer that it waits for or has taken belongs to a bundle that
must issue first (R211), and what follows a fence of a bundle comes before the rest of the queue. -/
def Core.halting (x : Core) : Bool :=
  let stands := x.join ≠ .attached || x.run = .stopped || x.queue.isEmpty
  x.answer.isNone && match x.wait with
    | .none => stands || 0 < x.waited
    | .join _ _ _ => true
    | .fence _ _ _ => stands
    | .efence _ _ _ => stands
    | .exit => stands
    | _ => false

/-- It has come to its boundary and drained: no access of it is outstanding (R239). -/
def Core.atStop (x : Core) : Bool := x.halting && x.outs.isEmpty && x.posted.isEmpty

/-- A wait of a core of the victim ends, and what it has outstanding goes on (R25, R329). -/
def State.haltCore (s : State) (c : Nat) : State :=
  let s1 := (s.setCore c (s.core c).endWait).drainOutsBy State.perform c
  s1.phDrain c

/-- A core of the victim as it is set aside: drained, its latches invalid, its monitor disarmed (R216); a TWAIT begins anew. -/
def Core.asVictim (x : Core) : Core :=
  { x.settle.noLatches with waited := if x.wait = .none then 0 else x.waited,
                            monitor := { x.monitor with armed := false, conf := false, codes := [] } }

/-- The core as the newcomer finds it, with the banks of the victim to be claimed (R330); its tag table is invalid (R200). -/
def Core.forNewcomer (x : Core) (c : Nat) : Core :=
  { Core.reset (coreIdOf c) with cycle := x.cycle, bundles := x.bundles, cmdStat := x.cmdStat, arg := x.arg,
                                 eng := { Engines.reset with ordNext := x.eng.ordNext } }

/-- A record of a pre-emption (KIND 5 and 6). -/
def State.preRecord (s : State) (dm kind : Nat) (c : Nat) (x : Core) : State :=
  s.report (dm / 12) (supRecord kind 0 0 0 c x 0#64 0#64 0#64)

/-! ## Claims (R330) -/

/-- Write bytes of the victim's scratchpad: in the bank, or in its image once the bank is claimed. -/
def State.victimPut (s : State) (c off n x : Nat) : State :=
  let k := if (s.core c).smSpm.getLsbD (off / 2 ^ 16) then imgKey c off else spKey c off
  s.store k n x

def State.victimGet (s : State) (c off n : Nat) : Nat :=
  let k := if (s.core c).smSpm.getLsbD (off / 2 ^ 16) then imgKey c off else spKey c off
  s.rd k n

/-- The places of a register bank in the carve-out (Table 8-8): offset and length of each image of `bankImage`. -/
def bankPlaces (b : Nat) : List (Nat × Nat) :=
  if b < 4 then (List.range 16).map fun i => (0x400 + 8 * (16 * b + i), 8)
  else if b < 8 then (List.range 8).map fun i => (0x800 + 128 * (8 * (b - 4) + i), 128)
  else (0x600, 8) :: (List.range 8).map fun i => (0x610 + 16 * i, 16)

/-- The predicates of an image stand one bit lower in the carve-out, as p0 is not stored. -/
def predShift (b i : Nat) : Bool := b = 8 && i = 0

/-- Write a register bank of the victim to its carve-out. -/
def State.saveBank (s : State) (c b : Nat) (v : Core) : State :=
  let imgs := v.bankImage b
  (List.range imgs.length).foldl (fun a i =>
    let p := (bankPlaces b).getD i (0, 0)
    let x := (imgs.getD i 0#1024).toNat
    a.victimPut c (v.spillBase.toNat + p.1) p.2 (if predShift b i then x / 2 else x)) s

/-- The victim's register bank as its carve-out holds it. -/
def State.loadBank (s : State) (c b : Nat) (v : Core) : Core :=
  v.putBank b ((List.range (bankPlaces b).length).map fun i =>
    let p := (bankPlaces b).getD i (0, 0)
    let x := s.victimGet c (v.spillBase.toNat + p.1) p.2
    BitVec.ofNat 1024 (if predShift b i then 2 * x else x))

/-- The bytes from a key on move to another key, and their old place reads zero. -/
def State.moveBytes (s : State) (src dst n : Nat) : State :=
  let cells := s.mem.filter fun c => src ≤ c.1 && c.1 < src + n
  let rest := s.mem.filter fun c => !(src ≤ c.1 && c.1 < src + n) && !(dst ≤ c.1 && c.1 < dst + n)
  { s with mem := cells.foldl (fun m c => Memory.put m (c.1 - src + dst) c.2) rest }

/-- A key in one range of 64 KiB moves to another range. -/
def moveKey (src dst k : Nat) : Nat := if src ≤ k && k < src + 2 ^ 16 then k - src + dst else k

/-- An outstanding access to the bank follows it. -/
def Access.follow (src dst : Nat) (a : Access) : Access :=
  let kind := match a.kind with
    | .query r pos rows base f mode draw got => .query r pos (rows.map fun w => (w.1, moveKey src dst w.2)) base f mode draw got
    | k => k
  match a.tgt with
  | .mem k => { a with kind := kind, tgt := .mem (moveKey src dst k) }
  | _ => a

/-- Phaser commands and waits, and the monitor, follow the bank that holds their phaser or their line (R215, R331). -/
def Core.movePhasers (x : Core) (src dst : Nat) : Core :=
  { x with
    eng := { x.eng with phq := x.eng.phq.map fun p => { p with key := moveKey src dst p.key } },
    outs := x.outs.map (Access.follow src dst),
    monitor := { x.monitor with key := moveKey src dst x.monitor.key },
    wait := match x.wait with
      | .phwait k ph => .phwait (moveKey src dst k) ph
      | .phsw k => .phsw (moveKey src dst k)
      | .phdone k b => .phdone (moveKey src dst k) b
      | w => w }

/-- They follow it on every core, and on those of victims. -/
def State.movePhasers (s : State) (src dst : Nat) : State :=
  let move (e : Nat × Core) : Nat × Core := (e.1, e.2.movePhasers src dst)
  { s with cores := s.cores.map move,
           victims := s.victims.map fun (v : Nat × Victim) => (v.1, { v.2 with cores := v.2.cores.map move }) }

/-- The home applies the commands of a core queued for a bank, from the `i`th of its commands on, that may be applied (R251); `n` bounds
the steps. -/
def State.applyQueued (s : State) (c lo i : Nat) : Nat → State
  | 0 => s
  | n + 1 =>
    let x := s.core c
    match x.eng.phq[i]? with
    | none => s
    | some p =>
      let t := s.phArrive c i p.op.signals
      if lo ≤ p.key && p.key < lo + 2 ^ 16 && (t.core c).eng.phq.length < x.eng.phq.length then t.applyQueued c lo i n
      else s.applyQueued c lo (i + 1) n

/-- Claim scratchpad bank `b` of core `c` for the newcomer. -/
def State.claimSpm (s : State) (c b : Nat) (v : Core) : State :=
  let lo := spKey c (b * 2 ^ 16)
  let s1 := (s.cores.map Prod.fst).foldl (fun a x => a.applyQueued x lo 0 (a.core x).eng.phq.length) s
  let carve : Bool := v.spillBase.toNat < (b + 1) * 2 ^ 16
  let s2 := if carve then
      ((List.range 9).filter fun r => (s1.core c).owedReg.getLsbD r).foldl (fun a r => a.saveBank c r v) s1
    else s1
  let s4 := (s2.moveBytes lo (imgKey c (b * 2 ^ 16)) (2 ^ 16)).movePhasers lo (imgKey c (b * 2 ^ 16))
  let x := s4.core c
  let bit : Word := 1#64 <<< b
  s4.setCore c { x with smSpm := x.smSpm ||| bit, owedSpm := x.owedSpm &&& ~~~bit }

/-- The newcomer uses scratchpad bank `b` of core `c`, which neither continuation owns: it reads zero (R330, R334). -/
def State.freshBank (s : State) (c b : Nat) : State :=
  let lo := spKey c (b * 2 ^ 16)
  let x := s.core c
  ({ s with mem := s.mem.filter fun m => !(lo ≤ m.1 && m.1 < lo + 2 ^ 16) } : State).setCore c
    { x with freshSpm := x.freshSpm &&& ~~~(1#64 <<< b) }

/-- Claim a bank (R330): register banks 0 to 8, scratchpad bank b as 16 + b, tile t as 128 + t; a bank that neither continuation owns
is only taken into use (log entry 62). -/
def State.claim (s : State) (c b : Nat) : State :=
  let x := s.core c
  if 16 ≤ b && b < 80 && x.freshSpm.getLsbD (b - 16) then s.freshBank c (b - 16)
  else if 128 ≤ b && b < 160 && x.freshAcc.getLsbD (b - 128) then
    s.setCore c { x with freshAcc := x.freshAcc &&& ~~~(1#32 <<< (b - 128)) }
  else match (tabGet? s.victims (domeKey c)).bind fun v => tabGet? v.cores c with
  | none => s
  | some v =>
    if b < 9 then
      if x.owedReg.getLsbD b then
        let s1 := s.saveBank c b v
        let y := s1.core c
        let bit : BitVec 9 := 1#9 <<< b
        s1.setCore c { y with smReg := y.smReg ||| bit, owedReg := y.owedReg &&& ~~~bit }
      else s
    else if 16 ≤ b && b < 80 then
      if x.owedSpm.getLsbD (b - 16) then s.claimSpm c (b - 16) v else s
    else if 128 ≤ b && b < 160 then
      let bit : BitVec 32 := 1#32 <<< (b - 128)
      if x.owedAcc.getLsbD (b - 128) then s.setCore c { x with smAcc := x.smAcc ||| bit, owedAcc := x.owedAcc &&& ~~~bit } else s
    else s

/-- BANK_CLAIM. -/
def execBankClaim (c b : Nat) (s : State) : Out := .next (s.claim c b)

/-! ## The newcomer starts -/

/-- The save reserve of a victim's region (R328). -/
def reserveOf (spm : Word) (acc : BitVec 32) : Nat := 2 ^ 16 * bitsOf spm.toNat 64 + 2 ^ 14 * bitsOf acc.toNat 32 + 448 * 1024

/-- The victim has stopped and the newcomer starts (R329, R330), with every bank that the victim does not own to be cleared at its first
use (R181, R330), and with all its records where it is a launch's initial one (R425); the reserve came from the region of the core that
the command named (log entry 62). -/
def State.victimStop (s : State) (dm : Nat) (r : BitVec 52) (li c0 : Nat) : State :=
  let cs := domeCores dm
  let s1 := cs.foldl (fun a c => a.setCore c (a.core c).asVictim) s
  let d := s1.dome dm
  let x0 := s1.core (coreAt dm 0)
  let region := (s1.core c0).region
  let v : Victim :=
    { dome := { d with asked := none }, cores := cs.map fun c => (c, s1.core c),
      rcb := match region with | some g => g.pool | none => 0,
      bytes := match region with | some g => reserveOf g.spm g.acc | none => 0, held := [] }
  let s2 := s1.preRecord dm 5 (coreAt dm 0) x0
  let s3 := { s2 with victims := tabPut s2.victims dm v }
  let initial := d.pending.contains (li, r)
  let s4 := s3.setDome dm { Dome.reset with pending := d.pending.filter (· ≠ (li, r)), segs := d.segs, launch := d.launch, run := .ending }
  let s5 := cs.foldl (fun a c => a.setCore c ((a.core c).forNewcomer c)) s4
  let s6 := match s5.launch? (some li) with
    | some l => s5.startRecord dm li l r initial
    | none => s5
  cs.foldl (fun a c =>
    let y := a.core c
    let w := s1.core c
    let z := { y with run := if y.run = .running then .newcomer else .preempted, owedReg := w.regAllot, owedSpm := w.spmAllot,
                      owedAcc := w.accAllot, freshSpm := ~~~w.spmAllot, freshAcc := ~~~w.accAllot }
    [0, 3, 8].foldl (fun a b => a.claim c b) (a.setCore c z)) s6

/-- VICTIM_STOP: waits of a dome that a PREEMPT has asked for end and its cores drain (R329); when each has come to its boundary, the
newcomer starts. -/
def execVictimStop (dm : Nat) (s : State) : Out :=
  .next (match (s.dome dm).asked with
    | some (r, li, c) =>
      let t := (domeCores dm).foldl (fun a x => a.haltCore x) s
      if (domeCores dm).all (fun x => (t.core x).atStop) then t.victimStop dm r li c else t
    | none => s)

/-! ## The restore (R333) -/

/-- Put back scratchpad bank `b` of a core: the image where it was claimed, zero where the newcomer used a bank, one of `used`, that the
victim does not own. -/
def State.restoreSpm (s : State) (c b : Nat) (used : Word) : State :=
  let lo := spKey c (b * 2 ^ 16)
  if (s.core c).smSpm.getLsbD b then
    let s2 := (s.moveBytes (imgKey c (b * 2 ^ 16)) lo (2 ^ 16)).movePhasers (imgKey c (b * 2 ^ 16)) lo
    let x := s2.core c
    s2.setCore c { x with smSpm := x.smSpm &&& ~~~(1#64 <<< b) }
  else if used.getLsbD b then { s with mem := s.mem.filter fun m => !(lo ≤ m.1 && m.1 < lo + 2 ^ 16) }
  else s

/-- The scratchpad banks of a core of the victim are put back (R333). -/
def State.restoreBanks (s : State) (c : Nat) (v : Core) : State :=
  (List.range 64).foldl (fun a b => a.restoreSpm c b (~~~v.spmAllot &&& ~~~(s.core c).freshSpm)) s

/-- Restore one core of the victim (R333), whose scratchpad stands again: register banks, then engines and the place in the stream. The
counters of cycles and bundles are the core's own and go on, as do the newcomer's stores that are not performed, the phaser commands
that it has queued, and a parked job of it in a slot that the victim does not use; the victim's pending TDEP mask survives (R275)
(log entry 62). -/
def State.restoreCore (s : State) (c : Nat) (v : Core) : State :=
  let x := s.core c
  let acc := ~~~v.accAllot &&& ~~~x.freshAcc
  let claimed := (List.range 9).filter fun b => x.smReg.getLsbD b
  let y := claimed.foldl (fun a b => s.loadBank c b a) v
  s.setCore c { y with cycle := x.cycle, bundles := x.bundles, cmdStat := x.cmdStat, arg := x.arg,
                        outs := x.outs ++ y.outs, posted := x.posted ++ y.posted, fenced := x.fenced || y.fenced,
                        smReg := 0#9, smAcc := 0#32, smSpm := 0#64, owedReg := 0#9, owedSpm := 0#64, owedAcc := 0#32,
                        freshSpm := 0#64, freshAcc := 0#32,
                        eng := { y.eng with
                          ordNext := x.eng.ordNext, phq := y.eng.phq ++ x.eng.phq,
                          jobs := (x.eng.jobs.filter fun j => (tabGet? y.eng.jobs j.1).isNone).foldl
                            (fun t j => tabPut t j.1 j.2) y.eng.jobs,
                          acc := y.eng.acc.filter fun w => !acc.getLsbD (w.1 / 4096), lok := y.eng.lok &&& ~~~acc } }

/-- What the claims of a dome have used of the reserve, which counts each bank number once (R328). -/
def State.usedReserve (s : State) (dm : Nat) : Nat :=
  reserveOf ((domeCores dm).foldl (fun a c => a ||| (s.core c).smSpm) 0#64)
    ((domeCores dm).foldl (fun a c => a ||| (s.core c).smAcc) 0#32)

/-- The newcomer has ended and its jobs have ended or parked: the victim is restored and goes on, and a reduction found mismatched in the
meantime ends (R261) (log entry 62). -/
def State.victimRestore (s : State) (dm : Nat) (v : Victim) : State :=
  let used := s.usedReserve dm
  let s0 := v.cores.foldl (fun a e => (a.traceAll e.1 16).restoreBanks e.1 e.2) s
  let s1 := (((tabGet? s0.victims dm).map Victim.cores).getD []).foldl (fun a e => a.restoreCore e.1 e.2) s0
  let s2 := s1.setDome dm { v.dome with pending := (s1.dome dm).pending }
  let s3 := { s2 with victims := tabDel s2.victims dm }
  let s4 := if v.rcb = 0 then s3 else s3.pool (dm / 12) v.rcb (v.bytes - used : Nat)
  let s5 := v.held.foldl (fun a h => a.applyHeld h.1 h.2.1 h.2.2) s4
  let s6 := (domeCores dm).foldl (fun a c => a.redOverdue c) s5
  s6.preRecord dm 6 (coreAt dm 0) (s6.core (coreAt dm 0))

/-- VICTIM_RESTORE. -/
def execVictimRestore (dm : Nat) (s : State) : Out :=
  .next (match tabGet? s.victims dm with
    | some v =>
      if (s.dome dm).run = .ending && s.domeQuiet dm then s.victimRestore dm v else s
    | none => s)

end Sys2Proof.Machine
end

