-- ==== Sys2Proof/Machine/Transport.lean ====
section
/-! DEFINITION. The transport engine (spec/16 R366 to R372), packet delivery contexts (spec/17 R385 to R388, R394), registered
regions (R362, R363) and what the port dies do with packets as they arrive. -/

namespace Sys2Proof.Machine

/-! ## Submits (R366 to R368) -/

/-- LSPACE of CTL. -/
def xSpace (ps : List Word) : Nat := fld (ps.getD 6 0#64) 2 2

/-- A reserved bit of CTL is set, or LSPACE is 0 or 3. -/
def xCtlBad (ps : List Word) : Bool := fld (ps.getD 6 0#64) 5 3 ≠ 0 || !(xSpace ps = 1 || xSpace ps = 2)

def xMode (ps : List Word) : Nat := fld (ps.getD 6 0#64) 0 2

/-- The local address, where it fits its space. -/
def xBase (ps : List Word) : Option JobAddr := if xCtlBad ps then none else jobAddr (xSpace ps) (ps.getD 0 0#64)

/-- A local hull of `len` bytes lies beyond its space. -/
def xUnfit (ps : List Word) (len : Nat) : Bool :=
  !xCtlBad ps && match xBase ps with
    | none => true
    | some a => !a.fits len

def xSpan (c : Nat) (ps : List Word) (len : Nat) : List Span := ((xBase ps).map fun a => a.span c len).toList

/-- The local bytes that a command touches: runs of `len` bytes along dimensions of a count and a stride. -/
def xTouch (c : Nat) (ps : List Word) (len : Nat) (dims : List (Nat × Nat)) : List Touch :=
  ((xBase ps).map fun a => a.touch c len dims).getD []

/-- The dimensions of a grid beyond the first, over given extents. -/
def gridDims (x : Grid) (ext : List Nat) : List (Nat × Nat) := (List.zip ext x.str).drop 1

/-- The rank of a remote address is this device's (log entry 97). -/
def ownRank (a : Word) : Bool := a.extractLsb' 52 12 = Config.devRank

def xLen (ps : List Word) : Nat := fld (ps.getD 2 0#64) 0 32 + 1

/-- A submit with its parameters' checks and footprints. -/
def xSubmit (kind : JobKind) (ps : List Word) (bad : List (Nat × Bool)) (reads writes : List Span) (locals : List Touch) : Submit :=
  { kind := kind, hold := false, early := none, bad := firstBad bad, mode := false,
    locals := locals, tiles := [], forms := [ps.getD 7 0#64],
    reads := reads, writes := writes, fill := id }

/-- XWR of bytes (RMA); fields that Table 16-7 does not list are ignored (R367) (log entry 65). -/
def rmaSubmit (s : State) (ps : List Word) : Submit :=
  let p (n : Nat) : Word := ps.getD n 0#64
  xSubmit .xwr ps [(1, ownRank (p 1)), (6, xCtlBad ps || xUnfit ps (xLen ps)), (7, misaligned (p 7) 16)]
    (xSpan s.cur ps (xLen ps)) [] (xTouch s.cur ps (xLen ps) [])

/-- First chunk and counts of a placement. -/
def placeFirst (ps : List Word) : List Nat := quad (ps.getD 3 0#64)
def placeCount (ps : List Word) : List Nat := quad1 (ps.getD 4 0#64)

/-- The first element of the box, and the bytes of its source hull. -/
def placeOrigin (ps : List Word) : List Nat := List.zipWith (· * ·) (placeFirst ps) (placeGrid ps).chk
/-- The extents of the box, in elements. -/
def placeExtents (ps : List Word) : List Nat :=
  let x := placeGrid ps
  List.zipWith (· - ·)
    (List.zipWith min x.ext (List.zipWith (· * ·) (List.zipWith (· + ·) (placeFirst ps) (placeCount ps)) x.chk)) (placeOrigin ps)

def placeHull (ps : List Word) : Nat :=
  let x := placeGrid ps
  x.off ((placeExtents ps).map (· - 1)) + x.es

/-- Some element of one list is above that of another. -/
def someAbove (xs ys : List Nat) : Bool := (List.zip xs ys).any fun p => p.2 < p.1

/-- XWR of a box of chunks (log entry 65). -/
def placeSubmit (s : State) (ps : List Word) : Submit :=
  let p (n : Nat) : Word := ps.getD n 0#64
  let x := placeGrid ps
  xSubmit .xwrPlace ps [(1, fld (p 1) 42 10 ≠ 0 || fld (p 1) 16 16 ≠ 0), (5, 4096 < prodOf x.chk * x.es), (6, xCtlBad ps),
    (7, misaligned (p 7) 16), (9, xUnfit ps (placeHull ps)),
    (10, someAbove x.chk x.ext || someAbove (List.zipWith (· + ·) (placeFirst ps) (placeCount ps)) x.chunks)]
    (xSpan s.cur ps (placeHull ps)) [] (xTouch s.cur ps (((placeExtents ps).getD 0 1) * x.es) (gridDims x (placeExtents ps)))

/-- XWR: PLACE of P2 tells the two commands apart. -/
def xwrSubmit (s : State) : Submit :=
  let ps := s.me.eng.all 6
  if (ps.getD 2 0#64).getLsbD 63 then placeSubmit s ps else rmaSubmit s ps

def xrdSubmit (s : State) : Submit :=
  let ps := s.me.eng.all 6
  let p (n : Nat) : Word := ps.getD n 0#64
  xSubmit .xrd ps [(1, ownRank (p 1)), (6, xCtlBad ps || xMode ps = 3 || xUnfit ps (xLen ps)), (7, misaligned (p 7) 16)]
    [] (xSpan s.cur ps (xLen ps)) (xTouch s.cur ps (xLen ps) [])

def xamoRet (ps : List Word) : Bool := (ps.getD 2 0#64).getLsbD 5
def xamoSize (ps : List Word) : Nat := if (ps.getD 2 0#64).getLsbD 4 then 4 else 8

def xamoSubmit (s : State) : Submit :=
  let ps := s.me.eng.all 6
  let p (n : Nat) : Word := ps.getD n 0#64
  xSubmit .xamo ps [(0, misaligned (p 0) 8), (2, 8 < fld (p 2) 0 4 || misaligned (p 1) (xamoSize ps)),
    (6, xCtlBad ps || 2 ≤ xMode ps || xamoRet ps && xUnfit ps 8), (7, misaligned (p 7) 16)]
    [] (if xamoRet ps then xSpan s.cur ps 8 else []) (if xamoRet ps then xTouch s.cur ps 8 [] else [])

/-- The bytes of the hull of a window (R373). -/
def windowHull (ps : List Word) : Nat :=
  let x := armGrid ps
  x.off (x.ext.map (· - 1)) + x.es

/-- The local bytes of bitmaps and ring. -/
def armLocals (ps : List Word) : List Touch :=
  { base := fld (ps.getD 10 0#64) 0 22, len := (armGrid ps).bitmapBytes, dims := [] } ::
    match ringOf ps with
    | none => []
    | some r => [{ base := r.1, len := 16 + 16 * r.2, dims := [] }]

def xarmSubmit (s : State) : Submit :=
  let ps := s.me.eng.all 6
  let p (n : Nat) : Word := ps.getD n 0#64
  let x := armGrid ps
  let w := s.window (fld (p 1) 32 10)
  let cq := p 12
  xSubmit .xarm ps
    [(1, fld (p 1) 42 22 ≠ 0 || fld (p 1) 1 31 ≠ 0 || w.st = .armed || w.pend), (2, misaligned (p 0) x.es),
     (4, 4096 < prodOf x.chk * x.es || someAbove x.chk x.ext || 65536 < prodOf x.chunks), (5, someAbove x.til x.chunks),
     (6, xCtlBad ps), (7, misaligned (p 7) 16), (9, xUnfit ps (windowHull ps)),
     (10, misaligned (p 10) 8 || 2 ^ 22 < fld (p 10) 0 22 + x.bitmapBytes),
     (12, (ringOf ps).isSome && (fld cq 24 4 < 4 || 12 < fld cq 24 4 || misaligned cq 16 ||
       2 ^ 22 < fld cq 0 22 + 16 + 16 * 2 ^ fld cq 24 4))]
    [] (xSpan s.cur ps (windowHull ps))
    (xTouch s.cur ps (x.ext.getD 0 1 * x.es) (gridDims x x.ext) ++ armLocals ps)

def execXwr (o : En) (s : State) : Out := submitOp o xwrSubmit s
def execXwrPlace (o : En) (s : State) : Out := submitOp o xwrSubmit s
def execXrd (o : En) (s : State) : Out := submitOp o xrdSubmit s
def execXamo (o : En) (s : State) : Out := submitOp o xamoSubmit s

/-- XARM: a submit that is taken sets PEND of its window (R374). -/
def execXarm (o : En) (s : State) : Out :=
  match submitOp o xarmSubmit s with
  | .next t =>
    if t.me.eng.ordNext = s.me.eng.ordNext then .next t
    else
      let win := fld (s.me.eng.param 6 1) 32 10
      .next (t.setWindow win { t.window win with pend := true })
  | r => r

/-! ## Packet delivery contexts (R385, R386) -/

/-- A PSN comes after another (R385). -/
def psnAfter (p q : BitVec 32) : Bool := 1 ≤ (p - q).toNat && (p - q).toNat < 2 ^ 31
/-- A PSN is another or comes before it. -/
def psnUpTo (p q : BitVec 32) : Bool := (q - p).toNat < 2 ^ 31

def State.pdc? (s : State) (k i : Nat) : Option Pdc := tabGet? s.pdcs (4095 * k + i)
def State.setPdc (s : State) (k i : Nat) (x : Pdc) : State := { s with pdcs := tabPut s.pdcs (4095 * k + i) x }

def Pdc.word (x : Pdc) (n : Nat) : Half := (x.words[n]?).getD 0#32
def Pdc.setWord (x : Pdc) (n : Nat) (v : Half) : Pdc := { x with words := x.words.setIfInBounds n v }
def Pdc.state (x : Pdc) : Nat := (x.word 0 >>> 28).toNat
def Pdc.isOpen (x : Pdc) : Bool := x.state = 1
def Pdc.isTarget (x : Pdc) : Bool := x.key.target

/-- An open context on the side asked for. -/
def State.openPdc? (s : State) (target : Bool) (k i : Nat) : Option Pdc :=
  if i < 4095 then
    match s.pdc? k i with
    | some x => if x.isOpen && x.isTarget = target then some x else none
    | none => none
  else none

def State.portDie (s : State) (d : Nat) : PortDie := (tabGet? s.ports d).getD PortDie.reset
def State.setPort (s : State) (d : Nat) (x : PortDie) : State := { s with ports := tabPut s.ports d x }

/-- Add to a statistic of the port die of a link core (Table 17-9). -/
def State.statAdd (s : State) (k n d : Nat) : State :=
  let x := s.portDie (k / 2)
  s.setPort (k / 2) { x with stats := x.stats.setIfInBounds n (((x.stats[n]?).getD 0#32) + BitVec.ofNat 32 d) }

/-- Move QPOOL of the region of the link cores by `d` bytes (R387) (log entry 78). -/
def State.fwPool (s : State) (d : Int) : State :=
  match s.root.fwPool? with
  | some a => s.store a 8 (ofInt 64 ((s.rd a 8 : Int) + d))
  | none => s

/-- The oldest uncharged spilled event of a link core is charged where QPOOL holds its 32 bytes; else it waits (R188). -/
def State.chargeLink (s : State) (k : Nat) : State :=
  let x := s.linkCore k
  match s.root.fwPool? with
  | some a => if x.paid < x.spill.length && 32 ≤ s.rd a 8 then (s.fwPool (-32)).setLink k { x with paid := x.paid + 1 } else s
  | none => s

/-- The `n` oldest spilled events of a link core leave the spill ring, and what they were charged returns to QPOOL. -/
def State.unspillLink (s : State) (k n : Nat) : State :=
  let x := s.linkCore k
  let t := s.setLink k { x with spill := x.spill.drop n, paid := x.paid - n }
  if x.paid = 0 then t else t.fwPool (32 * min n x.paid)

/-- Queue an event entry (R387): on chip, or spilled where 512 stand there or earlier ones are spilled (log entry 78). -/
def State.linkPut (s : State) (k : Nat) (w0 w1 w2 : Half) : State :=
  let e : LinkEv := { w0 := w0, w1 := w1, w2 := w2, w3 := (s.portDie (k / 2)).cycle.setWidth 32 }
  let x := s.linkCore k
  if x.events.length < 512 && x.spill.isEmpty then s.setLink k { x with events := x.events ++ [e] }
  else
    let t := (s.setLink k { x with spill := x.spill ++ [e] }).statAdd k 9 1
    if x.paid = x.spill.length then t.chargeLink k else t

/-- An event of a context (Table 17-4). -/
def State.pdcEvent (s : State) (k i kind : Nat) (psn data : BitVec 32) : State :=
  s.linkPut k (BitVec.ofNat 32 (kind * 2 ^ 24 + i)) psn data

/-- An event of a port, queued to all four link cores (R387). -/
def State.portEvent (s : State) (kind port : Nat) : State :=
  (List.range 4).foldl (fun a k => a.linkPut k (BitVec.ofNat 32 (kind * 2 ^ 24 + 2 ^ 23)) 0#32 (BitVec.ofNat 32 port)) s

/-- The contexts of a link core that are not closed. -/
def State.openCount (s : State) (k : Nat) : Nat :=
  s.pdcs.countP fun e => e.1 / 4095 = k && e.2.state ≠ 0

/-- The link core that takes a new context: among the candidates the one with the fewest, the lowest on a tie; none where
every one has 4,095 (log entry 69). -/
def State.pdcHost (s : State) (p : PdcKey) : Option Nat :=
  let ks := if p.target then [2 * p.pd, 2 * p.pd + 1] else [0, 1, 2, 3]
  (ks.filter fun k => k < 4 && s.openCount k < 4095).foldl (fun a k => match a with
    | none => some k
    | some b => if s.openCount k < s.openCount b then some k else some b) none

/-- The lowest index free on a link core: never used, or closed with its CLOSE event taken (R386) (log entry 69). -/
def State.pdcFree (s : State) (k : Nat) : Option Nat :=
  (List.range 4095).find? fun i => match s.pdc? k i with
    | none => true
    | some x => x.state = 0 && x.free

/-- Word 0 of a record that opens (Table 17-2). -/
def pdcWord0 (p : PdcKey) : Half :=
  1#4 ++ BitVec.ofBool p.target ++ p.mode ++ BitVec.ofBool p.sec ++ p.sdi ++ p.peer

def Pdc.fresh (p : PdcKey) : Pdc :=
  { key := p, words := ((Vector.replicate 16 0#32).set 0 (pdcWord0 p)).set 4 65536#32, pkts := [], got := [], timer := none,
    results := [], unacked := 0, free := false }

/-- The combination of a transport job (R386). -/
def Job.pdcKey (j : Job) : PdcKey :=
  { target := false, peer := (j.p 1).extractLsb' 52 12, mode := (j.p 6).setWidth 2, sec := (j.p 6).getLsbD 4,
    sdi := (j.p 6).extractLsb' 8 12, pd := 0 }

/-- A job that sends packets of its own. -/
def Job.sends (j : Job) : Bool := [JobKind.xwr, .xwrPlace, .xrd, .xamo].contains j.kind

/-- A context is needed: by a running job, by a packet that waits for it (a collective's, a core's), or, at a target, by the
packet that arrives (R386) (log entry 69). -/
def State.pdcNeeded (s : State) (p : PdcKey) : Bool :=
  let sends (j : Nat × Job) : Bool := j.2.st = .running && j.2.sends && j.2.pdcKey = p
  p.target || (s.outq.any fun q => q.key = p) || (s.cores.any fun e => e.2.eng.jobs.any sends) ||
    s.victims.any fun v => v.2.cores.any fun e => e.2.eng.jobs.any fun j => sends j && !j.2.local

/-- The open context of a combination: link core and index. -/
def State.pdcOf (s : State) (p : PdcKey) : Option (Nat × Nat) :=
  (s.pdcs.find? fun e => e.2.isOpen && { e.2.key with pd := 0 } = { p with pd := 0 }).map fun e => (e.1 / 4095, e.1 % 4095)

/-- Hardware opens a context for a combination that has none open, where a link core has room; else the opening waits (R386). -/
def State.openPdc (s : State) (p : PdcKey) : State :=
  if (s.pdcOf p).isSome then s
  else match (s.pdcHost p).bind fun k => (s.pdcFree k).map fun i => (k, i) with
  | none => s
  | some (k, i) => (s.setPdc k i (Pdc.fresh p)).pdcEvent k i 13 0#32 0#32

/-- PDC_OPEN (log entry 69). -/
def execPdcOpen (p : PdcKey) (s : State) : Out := .next (if s.pdcNeeded p then s.openPdc p else s)

/-- A context closes (R386): STATE passes through 2, in an eager state at once, to 0, and a CLOSE event is queued (log entry 69). -/
def State.closePdc (s : State) (k i : Nat) (x : Pdc) (data : BitVec 32) : State :=
  (s.setPdc k i { x.setWord 0 (x.word 0 &&& 0x0FFFFFFF#32 ||| (if s.eager then 0#32 else 0x20000000#32)) with
    pkts := [], got := [], timer := none, results := [], unacked := 0, free := false }).pdcEvent k i 14 0#32 data

/-- PDC_IDLE_CLOSE: nothing is in flight and nothing expected; a context whose STATE is 2 reaches 0. -/
def execPdcIdleClose (k i : Nat) (s : State) : Out :=
  match s.pdc? k i with
  | none => .next s
  | some x =>
    if x.state = 2 then .next (s.setPdc k i (x.setWord 0 (x.word 0 &&& 0x0FFFFFFF#32)))
    else if x.isOpen && x.pkts.isEmpty && x.got.isEmpty && x.unacked = 0 && (x.isTarget || !s.pdcNeeded x.key) then
      .next (s.closePdc k i x 0#32)
    else .next s

/-! ## The packets of a job (R369) -/

/-- The chunk of packet `k` of a placement. -/
def placeCoord (ps : List Word) (k : Nat) : List Nat :=
  List.zipWith (· + ·) (placeFirst ps) (coordsOf (placeCount ps) k)

/-- The packets of a job. -/
def Job.packets (j : Job) : Nat :=
  match j.kind with
  | .xwr => (xLen j.ps + 4095) / 4096
  | .xrd => (xLen j.ps + 4095) / 4096
  | .xwrPlace => prodOf (placeCount j.ps)
  | .xamo => 1
  | _ => 0

/-- The payload bytes of packet `k`. -/
def Job.payload (j : Job) (k : Nat) : Nat :=
  match j.kind with
  | .xwrPlace => (placeGrid j.ps).chunkBytes (placeCoord j.ps k)
  | .xamo => xamoSize j.ps
  | _ => min 4096 (xLen j.ps - 4096 * k)

/-- The local bytes that packet `k` of a write reads. -/
def Job.source (j : Job) (k : Nat) : List JobAddr :=
  match xBase j.ps, j.kind with
  | some a, .xwr => (List.range (j.payload k)).map fun b => a.add (4096 * k + b)
  | some a, .xwrPlace =>
    let x := placeGrid j.ps
    (x.elems (placeCoord j.ps k)).flatMap fun e =>
      (List.range x.es).map fun b => a.add (x.off (List.zipWith (· - ·) e (placeOrigin j.ps)) + b)
  | _, _ => []

/-- Only a response acknowledges the packet (R394). -/
def Job.responds (j : Job) : Bool := j.kind = .xrd || j.kind = .xamo && xamoRet j.ps

/-- What packet `k` carries, with its payload read now (log entry 70). -/
def State.pktBody (s : State) (c : Nat) (j : Job) (k : Nat) : PacketBody :=
  let key := (j.p 11).setWidth 32
  let data := (j.source k).map fun a => BitVec.ofNat 8 (s.jobRead c a)
  match j.kind with
  | .xrd => .rma 0 (j.p 1 + BitVec.ofNat 64 (4096 * k)) (j.payload k) key [] 0 false 0#64
  | .xamo =>
    .rma 2 (j.p 1) (xamoSize j.ps) key ((List.range (xamoSize j.ps)).map fun b => (j.p 3 >>> (8 * b)).setWidth 8)
      (fld (j.p 2) 0 4) (xamoSize j.ps = 4) (j.p 4)
  | .xwrPlace =>
    .place ((j.p 1).extractLsb' 32 10) ((j.p 1).setWidth 16) (placeCoord j.ps k) (placeGrid j.ps).chk ((j.p 2).setWidth 2) key data
  | _ => .rma 1 (j.p 1 + BitVec.ofNat 64 (4096 * k)) (j.payload k) key data 0 false 0#64

/-- The ports that a path word enables (R393). -/
def pathPorts (w : Half) : List Nat :=
  ((List.range 8).filter w.getLsbD).map fun b => 8 * (w.extractLsb' 8 3).toNat + b

/-- The entropy value of packet `n` of a job. -/
def Job.entropy (j : Job) (n : Nat) : Nat := (fld (j.p 6) 24 16 + n % (fld (j.p 6) 20 4 + 1)) % 2 ^ 16

/-! ## Answers at the initiator (R387, R388, R394) -/

/-- The local writes of a response: the bytes of its packet (XRD), or the old value as a doubleword (XAMO). -/
def Job.result (j : Job) (p : Pkt) (data : List Byte) : List (JobAddr × Byte) :=
  let n := if j.kind = .xamo then 8 else p.bytes
  match xBase j.ps with
  | none => []
  | some a => List.zip ((List.range n).map fun b => a.add (4096 * p.ix + b)) (data.take n ++ List.replicate (n - data.length) 0#8)

def Pdc.markAcked (x : Pdc) (psn : BitVec 32) : Pdc :=
  { x with pkts := x.pkts.map fun p => if p.psn = psn then { p with acked := true } else p }

/-- The data of a response are written, and its packet counts as acknowledged. A parked job takes them later, as does a
victim's job with data for its scratchpad (R331). -/
def State.takeResponse (s : State) (k i : Nat) (x : Pdc) (psn : BitVec 32) (data : List Byte) : State :=
  match x.pkts.find? fun p => p.psn = psn && p.resp && !p.acked with
  | none => s
  | some p =>
    match s.jobOf? p.core p.ord with
    | none => s.setPdc k i (x.markAcked psn)
    | some (slot, j, pre) =>
      let ws := j.result p data
      let take (s : State) : State := match s.chunkFault p.core false needW (ws.map Prod.fst) with
        | some (cause, a) => s.jobMeets p.core slot cause a
        | none => (s.jobWrites p.core (ws.map fun w => (w.1, w.2.toNat))).setPdc k i (x.markAcked psn)
      if j.st ≠ .running || pre && j.local then s else if pre then s.inVictim p.core take else take s

/-- A PSN lies in what an acknowledgement covers. -/
def ackCovers (a : AckInfo) (psn : BitVec 32) : Bool :=
  psnUpTo psn a.cum || match a.sack with
    | none => false
    | some (base, bits) => let d := (psn - base).toNat; 1 ≤ d && d ≤ 32 && bits.getLsbD (d - 1)

/-- Bytes that are acknowledged. -/
def Pdc.ackedBytes (x : Pdc) : Nat := ((x.pkts.filter fun p => p.acked).map fun p => p.bytes).sum

/-- An acknowledgement at its initiator: the packets that it covers, then its events in the order of R388. -/
def State.takeAck (s : State) (k i : Nat) (x : Pdc) (a : AckInfo) : State :=
  let s1 := match a.resp with
    | none => s
    | some (psn, data) => s.takeResponse k i x psn data
  match s1.pdc? k i with
  | none => s1
  | some y =>
    let z := { y with pkts := y.pkts.map fun p => if ackCovers a p.psn && !p.resp then { p with acked := true } else p }
    let newly := z.ackedBytes - x.ackedBytes
    let s2 := s1.setPdc k i z
    let s3 := if newly = 0 then s2 else s2.pdcEvent k i 1 a.cum (BitVec.ofNat 32 newly)
    let s4 := match a.sack with | none => s3 | some (base, bits) => s3.pdcEvent k i 2 base bits
    let s5 := if a.ecn = 0#32 then s4 else (s4.pdcEvent k i 3 a.cum a.ecn).statAdd k 10 a.ecn.toNat
    match a.rtt with | none => s5 | some (psn, t) => s5.pdcEvent k i 4 psn t

/-- ACK_RECEIVED. At a target it acknowledges responses, whose kept results are then dropped (R371) (log entries 71 and 91). -/
def execAckReceived (k i : Nat) (a : AckInfo) (s : State) : Out :=
  match s.openPdc? false k i, s.openPdc? true k i with
  | some x, _ => .next (s.takeAck k i x a)
  | none, some x =>
    .next (s.setPdc k i { x with results := x.results.filter fun r => !ackCovers a (BitVec.ofNat 32 r.1) })
  | none, none => .next s

def execTrimNakReceived (k i : Nat) (psn : BitVec 32) (s : State) : Out :=
  .next (if (s.openPdc? false k i).isSome then s.pdcEvent k i 5 psn 0#32 else s)

def execNotReadyNakReceived (k i : Nat) (psn : BitVec 32) (s : State) : Out :=
  .next (if (s.openPdc? false k i).isSome then s.pdcEvent k i 6 psn 0#32 else s)

/-- A rejecting NAK at its initiator: the job of the packet ends, and the packet needs no other answer (R372, R405). -/
def State.takeReject (s : State) (k i : Nat) (x : Pdc) (psn : BitVec 32) (reason : Nat) : State :=
  let s1 := (s.setPdc k i (x.markAcked psn)).pdcEvent k i 7 psn (BitVec.ofNat 32 reason)
  match x.pkts.find? fun p => p.psn = psn && !p.acked with
  | none => s1
  | some p => s1.onJob p.core p.ord (.failed cREMOTE x.key.peer)

/-- REJECTING_NAK_RECEIVED. -/
def execRejectingNakReceived (k i : Nat) (psn : BitVec 32) (reason : Nat) (s : State) : Out :=
  .next (match s.openPdc? false k i with
    | none => s
    | some x => s.takeReject k i x psn reason)

/-- TRANSPORT_TIMEOUT (R372): TMO of a running job has passed with a packet not acknowledged (log entry 41). -/
def execTransportTimeout (c slot : Nat) (s : State) : Out :=
  match s.job? c slot with
  | none => .next s
  | some j => .next (if j.sends && j.st = .running && j.prog < j.packets then s.endJob c slot 3 cTIMEOUT else s)

/-! ## Packets at a target -/

/-- The packet has been received before, inside the window of its context (R369). -/
def Pdc.seenPsn (x : Pdc) (psn : BitVec 32) : Bool := psnAfter (x.word 1) psn || x.got.contains psn

/-- SNDNXT passes over what has been received. -/
def Pdc.advance (x : Pdc) : Nat → Pdc
  | 0 => x
  | n + 1 =>
    if x.got.contains (x.word 1) then
      ({ x.setWord 1 (x.word 1 + 1#32) with got := x.got.filter (· ≠ x.word 1) } : Pdc).advance n
    else x

/-- A packet is received. -/
def Pdc.receive (x : Pdc) (psn : BitVec 32) : Pdc :=
  let y := { x with got := if x.seenPsn psn then x.got else x.got ++ [psn] }
  y.advance (y.got.length + 1)

/-- What an acknowledgement or answer for this device's own rank says at the initiator context of its combination (R376). -/
def State.takeAnswer (s : State) (x : Pdc) (body : PacketBody) : State :=
  match s.pdcOf { x.key with target := false } with
  | none => s
  | some (k, i) => match s.openPdc? false k i with
    | none => s
    | some y => match body with
      | .ack cum got =>
        let bits := got.foldl (fun (b : BitVec 32) p =>
          b ||| (if psnAfter p cum && (p - cum).toNat ≤ 32 then BitVec.ofNat 32 (2 ^ ((p - cum).toNat - 1)) else 0#32)) 0#32
        s.takeAck k i y { cum := cum, sack := if got.isEmpty then none else some (cum, bits), ecn := 0#32, rtt := none, resp := none }
      | .answer psn data => s.takeAck k i y { cum := y.word 2 - 1#32, sack := none, ecn := 0#32, rtt := none, resp := some (psn, data) }
      | .nak psn .trim => s.pdcEvent k i 5 psn 0#32
      | .nak psn .notReady => s.pdcEvent k i 6 psn 0#32
      | .nak psn (.reject reason) => s.takeReject k i y psn (reason.getD 0)
      | _ => s

/-- An answer leaves a target; one for this device itself loops through the port die (R376) (log entry 74). -/
def State.answer (s : State) (k i : Nat) (x : Pdc) (psn : BitVec 32) (body : PacketBody) : State :=
  if x.key.peer = Config.devRank then s.takeAnswer x body
  else { s with wire := s.wire ++ [{ peer := x.key.peer, port := none, k := k, i := i, psn := psn, body := body }] }

/-- An acknowledgement with its selective part. -/
def State.sendAck (s : State) (k i : Nat) (x : Pdc) : State :=
  (s.setPdc k i { x with unacked := 0 }).answer k i x (x.word 1) (.ack (x.word 1 - 1#32) x.got)

/-- A packet has been performed or dropped with an acknowledgement: at the latest the sixteenth is acknowledged (R394) (log entry 71). -/
def State.acceptPkt (s : State) (k i : Nat) (psn : BitVec 32) : State :=
  match s.openPdc? true k i with
  | none => s
  | some x =>
    let y := { x.receive psn with unacked := if x.key.mode = 3#2 then 0 else x.unacked + 1 }
    if 16 ≤ y.unacked then s.sendAck k i y else s.setPdc k i y

/-- A rejecting NAK (log entry 71). -/
def State.rejectPkt (s : State) (k i : Nat) (psn : BitVec 32) (reason : Option Nat) : State :=
  match s.openPdc? true k i with
  | none => s
  | some x => ((s.setPdc k i (x.receive psn)).answer k i x psn (.nak psn (.reject reason))).statAdd k 6 1

/-- A not-ready NAK; the packet will come again. -/
def State.notReady (s : State) (k i : Nat) (psn : BitVec 32) : State :=
  match s.openPdc? true k i with
  | none => s
  | some x => (s.answer k i x psn (.nak psn .notReady)).statAdd k 7 1

/-- The link cores of the port die of link core `k` have room for a target context (R386). -/
def State.roomFor (s : State) (k : Nat) : Bool :=
  ((s.pdcHost { target := true, peer := 0#12, mode := 0#2, sec := false, sdi := 0#12, pd := k / 2 }).bind s.pdcFree).isSome

/-- A packet that finds no room for its context gets a not-ready NAK (R386). -/
def State.noRoom (s : State) (k i : Nat) (src : BitVec 12) (psn : BitVec 32) : State :=
  ({ s with wire := s.wire ++ [{ peer := src, port := none, k := k, i := i, psn := psn, body := .nak psn .notReady }] } : State).statAdd k 7 1

/-- What every packet at a target meets first (R369, R382): a closed context drops it, a failed authentication is reported,
a duplicate is acknowledged again, and in ROD a packet out of order is dropped. A packet that has no context, its index past all of them,
and finds no room for one is not ready (R386) (log entries 69, 71 and 94). -/
def State.arrives (s : State) (k i : Nat) (src : BitVec 12) (psn : BitVec 32) (auth : Bool) (port : Nat) (f : Pdc → State) : State :=
  match s.openPdc? true k i with
  | none => if i < 4095 || s.roomFor k then s else s.noRoom k i src psn
  | some x =>
    if !auth then (s.portEvent 12 port).statAdd k 5 1
    else if x.seenPsn psn then
      let s1 := (s.pdcEvent k i 11 psn 0#32).statAdd k 4 1
      match x.results.find? fun r => r.1 = psn.toNat with
      | some r => s1.answer k i x psn (.answer psn ((List.range 8).map fun b => (r.2 >>> (8 * b)).setWidth 8))
      | none => s1.sendAck k i x
    else if x.key.mode = 1#2 && psn ≠ x.word 1 then s
    else f x

/-- Word `i` of the entry of a key in the region table, whose base the capability block gives (R362). -/
def State.regionWord (s : State) (key : BitVec 32) (i : Nat) : Nat :=
  s.rd (s.root.regtab + 32 * (key.toNat / 2 ^ 16) + 8 * i) 8

/-- What a request meets at an address: translation is that of die 0, with the rights of the owning launch (log entry 72). -/
def State.regionMeet (s : State) (l : Option Launch) (n : Need) (va : Nat) : Resolved :=
  s.device 0 false l n false (BitVec.ofNat 64 va)

/-- The launch that owns an entry (log entry 72). -/
def State.regionOwner (s : State) (r : RmaReq) : Option Launch :=
  let owner := s.regionWord r.key 3 % 2 ^ 32
  (s.launches.find? fun e => e.2.id.toNat = owner).map Prod.snd

/-- The target checks (Table 16-5): the reason code of the first that fails (log entry 72). -/
def State.regionBad (s : State) (r : RmaReq) (kind : Nat) : Option Nat :=
  let w0 := s.regionWord r.key 0
  let owner := s.regionWord r.key 3 % 2 ^ 32
  let base := w0 % 2 ^ 52
  let va := r.flat.toNat % 2 ^ 52
  let need : Need := if kind = 0 then needR else if kind = 1 then needW else needRW
  if !s.root.released || !w0.testBit 63 || s.regionWord r.key 2 % 2 ^ 32 ≠ r.key.toNat then some 1
  else if owner ≠ 0 && (s.regionOwner r).isNone then some 2
  else if va < base || base + s.regionWord r.key 1 % 2 ^ 52 < va + r.len then some 3
  else if !w0.testBit (if kind = 0 then 62 else if kind = 1 then 61 else 60) then some 4
  else if w0.testBit 59 && !r.e2e then some 5
  else
    let l := if owner = 0 then none else s.regionOwner r
    let lines := (va + r.len - 1) / 64 - va / 64 + 1
    let ok := (List.range lines).all fun n =>
      match s.regionMeet l need (if n = 0 then va else (va / 64 + n) * 64) with
      | .ok (.mem _) => true
      | .ok (.port _ _) => r.len = 8 && kind < 2
      | _ => false
    if ok then none else some 6

/-- The launch whose rights a checked request has. -/
def State.regionLaunch (s : State) (r : RmaReq) : Option Launch :=
  if s.regionWord r.key 3 % 2 ^ 32 = 0 then none else s.regionOwner r

/-- The key of a byte of a checked request (log entry 72). -/
def State.regionKey (s : State) (r : RmaReq) (need : Need) (b : Nat) : Option Nat :=
  match s.regionMeet (s.regionLaunch r) need (r.flat.toNat % 2 ^ 52 + b) with
  | .ok (.mem k) => some k
  | _ => none

/-- The port area that a checked request names, if it does (log entry 72). -/
def State.regionPort (s : State) (r : RmaReq) (need : Need) : Option (Nat × Nat) :=
  match s.regionMeet (s.regionLaunch r) need (r.flat.toNat % 2 ^ 52) with
  | .ok (.port l off) => some (l, off)
  | _ => none

/-- A remote write (R363, R365): performed at the home, then acknowledged; a store to a wake port wakes. -/
def State.rmaWrite (s : State) (r : RmaReq) : State :=
  s.arrives r.k r.i r.src r.psn r.auth r.port fun _ =>
    match s.regionBad r 1 with
    | some n => s.rejectPkt r.k r.i r.psn (some n)
    | none =>
      match s.regionPort r needW with
      | some (l, off) =>
        match s.portWrite? l off 8 true (BitVec.ofNat 64 (leNat r.data)) with
        | some t => t.acceptPkt r.k r.i r.psn
        | none => s.notReady r.k r.i r.psn
      | none =>
        ((List.range r.len).foldl (fun (a : State) b =>
          match s.regionKey r needW b with
          | some k => a.storeBy k 1 (r.data.getD b 0#8).toNat
          | none => a) s).acceptPkt r.k r.i r.psn

def execRmaWriteRequest (r : RmaReq) (s : State) : Out := .next (s.rmaWrite r)

/-- A remote read: answered with the bytes. -/
def State.rmaRead (s : State) (r : RmaReq) : State :=
  s.arrives r.k r.i r.src r.psn r.auth r.port fun x =>
    match s.regionBad r 0 with
    | some n => s.rejectPkt r.k r.i r.psn (some n)
    | none =>
      let data := match s.regionPort r needR with
        | some (l, off) => (List.range 8).map fun b => BitVec.ofNat 8 (s.portRead l off 8 true / 256 ^ b)
        | none => (List.range r.len).map fun b => match s.regionKey r needR b with
          | some k => BitVec.ofNat 8 (s.rd k 1)
          | none => 0#8
      (s.answer r.k r.i x r.psn (.answer r.psn data)).acceptPkt r.k r.i r.psn

def execRmaReadRequest (r : RmaReq) (s : State) : Out := .next (s.rmaRead r)

/-- The read-modify-write of a FN code (R371); 8 compares with one value and stores the other. -/
def rmwOf (fn : Nat) (data cmp : Word) : Rmw × Word :=
  match fn with
  | 0 => (.add, data) | 1 => (.smin, data) | 2 => (.smax, data) | 3 => (.and, data) | 4 => (.or, data) | 5 => (.xor, data)
  | 6 => (.xchg, data) | 7 => (.fadd, data) | _ => (.cas data, cmp)

/-- Results that targets keep for repeated atomics (R371) (log entry 71). -/
def State.keptResults (s : State) : Nat := (s.pdcs.map fun e => e.2.results.length).sum

/-- A remote atomic: executed once; its result is kept. -/
def State.rmaAtomic (s : State) (r : RmaReq) : State :=
  s.arrives r.k r.i r.src r.psn r.auth r.port fun x =>
    match s.regionBad r 2 with
    | some n => s.rejectPkt r.k r.i r.psn (some n)
    | none =>
      if 4096 ≤ s.keptResults then s.notReady r.k r.i r.psn
      else match s.regionKey r needRW 0 with
      | none => s.rejectPkt r.k r.i r.psn (some 6)
      | some key =>
        let n := if r.half then 4 else 8
        let op := rmwOf r.op.toNat (BitVec.ofNat 64 (leNat r.data)) r.cmp
        let (old, s1) := s.atomic ((homeDie key).getD 0) key n op.1 op.2.toNat
        let s2 := (s.keepFixed s1 key n).setPdc r.k r.i { x with results := x.results ++ [(r.psn.toNat, BitVec.ofNat 64 old)] }
        (s2.answer r.k r.i x r.psn (.answer r.psn ((List.range 8).map fun b => BitVec.ofNat 8 (old / 256 ^ b)))).acceptPkt
          r.k r.i r.psn

def execRmaAtomicRequest (r : RmaReq) (s : State) : Out := .next (s.rmaAtomic r)

/-- INCOMING_SEND: send operations are refused (R360, R361) (log entry 72). -/
def execIncomingSend (r : RmaReq) (s : State) : Out :=
  .next (s.arrives r.k r.i r.src r.psn r.auth r.port fun _ => s.rejectPkt r.k r.i r.psn none)

/-- The reason for which an arming rejects a packet (Table 16-9, fifth row). -/
def placeReason (ps : List Word) (p : PlacePkt) : Option Nat :=
  let x := armGrid ps
  let ctl := ps.getD 6 0#64
  if p.key ≠ (ps.getD 11 0#64).setWidth 32 then some 1
  else if p.sec ≠ ctl.getLsbD 4 || p.sdi ≠ ctl.extractLsb' 8 12 then some 5
  else if p.shape ≠ x.chk || p.loges ≠ (ps.getD 2 0#64).setWidth 2 || p.coord.length ≠ 4 ||
    (List.zip p.coord x.chunks).any (fun c => c.2 ≤ c.1) then some 3
  else none

/-- A packet of an armed window is placed (last row of Table 16-9). A window that a newcomer has claimed, or whose job is
parked, is not ready; a local fault is the XARM job's (R372, R381) (log entry 67). -/
def State.place' (s : State) (p : PlacePkt) : State :=
  let win := p.win.toNat
  let w := s.window win
  match s.jobOf? w.core w.ord with
  | none => s.rejectPkt p.k p.i p.psn (some 7)
  | some (slot, j, pre) =>
    match xBase w.ps with
    | none => s.rejectPkt p.k p.i p.psn (some 7)
    | some base =>
      let parked := match j.st with | .running => false | _ => true
      if parked || pre && s.windowClaimed w.core j then s.notReady p.k p.i p.psn
      else match s.chunkFault w.core pre needW (((armGrid w.ps).bytesOf base p.coord p.data).map Prod.fst) with
      | some (cause, a) =>
        if pre then s.notReady p.k p.i p.psn
        else if cause = cXLATE then (s.jobMeets w.core slot cause a).notReady p.k p.i p.psn
        else (s.jobMeets w.core slot cause a).rejectPkt p.k p.i p.psn (some 7)
      | none => (s.placeChunk win j pre base p.coord p.data).acceptPkt p.k p.i p.psn

/-- A placement packet (Table 16-9). -/
def State.placePacket (s : State) (p : PlacePkt) : State :=
  s.arrives p.k p.i p.src p.psn p.auth p.port fun _ =>
    let w := s.window p.win.toNat
    if p.arm = w.arm + 1#16 && w.st ≠ .armed then s.notReady p.k p.i p.psn
    else if p.arm ≠ w.arm then (s.statAdd p.k 2 1).acceptPkt p.k p.i p.psn
    else if w.st = .cancelled || w.st = .idle then s.rejectPkt p.k p.i p.psn (some 7)
    else match placeReason w.ps p with
    | some n => s.rejectPkt p.k p.i p.psn (some n)
    | none =>
      if w.got.testBit (linearOf (armGrid w.ps).chunks p.coord) then (s.statAdd p.k 3 1).acceptPkt p.k p.i p.psn
      else s.place' p

def execPlacementPacket (p : PlacePkt) (s : State) : Out := .next (s.placePacket p)

/-- TARGET_AUTO_ACK (R394). -/
def execTargetAutoAck (k i : Nat) (s : State) : Out :=
  match s.openPdc? true k i with
  | none => .next s
  | some x => .next (if x.unacked = 0 then s else s.sendAck k i x)

/-- A trimmed packet is counted and reported (Table 17-4); the NAK is the program's (log entry 74). -/
def execTrimmedPacketReceived (k i : Nat) (psn : BitVec 32) (s : State) : Out :=
  .next (if (s.openPdc? true k i).isSome then (s.pdcEvent k i 10 psn 0#32).statAdd k 8 1 else s)

/-! ## Sending (R369, R393) -/

/-- A packet for this device's own rank arrives at the target context of its combination, which opens where it is not open (R376, R386). -/
def State.loopBack (s : State) (k i : Nat) (x : Pdc) (psn : BitVec 32) (port : Nat) (body : PacketBody) : State :=
  let key : PdcKey := { x.key with target := true, pd := k / 2 }
  let s1 := s.openPdc key
  match s1.pdcOf key with
  | none => (s1.pdcEvent k i 6 psn 0#32).statAdd k 7 1
  | some (tk, ti) => match body with
    | .place win arm coord shape loges key data =>
      s1.placePacket
        { k := tk, i := ti, psn := psn, src := Config.devRank, win := win, arm := arm, coord := coord, shape := shape,
          loges := loges, key := key, sec := x.key.sec, sdi := x.key.sdi, auth := true, port := port, data := data }
    | .rma kind flat len key data fn half cmp =>
      let r : RmaReq :=
        { k := tk, i := ti, psn := psn, src := Config.devRank, port := port, flat := flat, len := len, key := key,
          e2e := x.key.sec, auth := true, data := data, op := BitVec.ofNat 4 fn, half := half, cmp := cmp }
      if kind = 0 then s1.rmaRead r else if kind = 1 then s1.rmaWrite r else s1.rmaAtomic r
    | _ => s1

/-- A packet leaves on a port; one that is down loses it, and one for this device itself loops through the port die (R376)
(log entry 74). -/
def State.transmit (s : State) (k i : Nat) (x : Pdc) (psn : BitVec 32) (entropy : Nat) (body : PacketBody) : State :=
  let ps := pathPorts (x.word 5)
  match ps[entropy % ps.length]? with
  | none => s
  | some port =>
    if s.down.contains port then s
    else if x.key.peer = Config.devRank then s.loopBack k i x psn port body
    else { s with wire := s.wire ++ [{ peer := x.key.peer, port := some port, k := k, i := i, psn := psn, body := body }] }

/-- The next job of some cores with a packet to send on a context: the lowest core, then the oldest job. -/
def nextJob (cores : List (Nat × Core)) (x : Pdc) (ok : Job → Bool) : Option (Nat × Nat × Job) :=
  cores.findSome? fun e =>
    ((e.2.eng.jobs.filter fun (j : Nat × Job) =>
      j.2.sends && j.2.st = .running && j.2.pdcKey = x.key && j.2.made < j.2.packets && ok j.2).foldl
        (fun (a : Option (Nat × Job)) j => match a with
          | none => some j
          | some b => if j.2.ord < b.2.ord then some j else some b) none).map fun j => (e.1, j.1, j.2)

/-- The next job with a packet to send on a context, and whether it is a victim's: those of victims send on where their footprints
lie in device memory (R331). -/
def State.nextSender (s : State) (x : Pdc) : Option ((Nat × Nat × Job) × Bool) :=
  match nextJob s.cores x fun _ => true with
  | some j => some (j, false)
  | none => (nextJob (s.victims.flatMap fun v => v.2.cores) x fun j => !j.local).map fun j => (j, true)

/-- Send the next new packet of a job (R369, R385): within the window, after its source has been read without a fault (log entry 70). -/
def State.sendNew (s : State) (k i : Nat) (x : Pdc) (c slot : Nat) (j : Job) : State :=
  let n := j.made
  let bytes := j.payload n
  let uud := x.key.mode = 3#2
  if (x.word 4).toNat < (x.word 3).toNat + bytes then s
  else match s.chunkFault c false needR (j.source n) with
  | some (cause, a) => s.jobMeets c slot cause a
  | none =>
    let psn := x.word 1
    let body := s.pktBody c j n
    let s1 := s.setJob c slot { j with made := n + 1, prog := if uud then j.prog + 1 else j.prog }
    let x1 := x.setWord 1 (psn + 1#32)
    let x2 := if uud then x1.setWord 2 (psn + 1#32)
      else { x1.setWord 3 (x.word 3 + BitVec.ofNat 32 bytes) with
             pkts := x1.pkts ++ [{ psn := psn, core := c, ord := j.ord, ix := n, entropy := j.entropy n, bytes := bytes,
                                   acked := false, again := false, resp := j.responds, body := body, job := some j }] }
    (s1.setPdc k i x2).transmit k i x psn (j.entropy n) body

/-- Send again a packet marked for resending, its payload read again (R369, R393); where its job has ended and its source is out of reach
it goes as it last was (log entry 70). -/
def State.sendOld (s : State) (k i : Nat) (x : Pdc) (p : Pkt) : State :=
  let go (t : State) (body : PacketBody) : State :=
    (t.setPdc k i { x with pkts := x.pkts.map fun r => if r.psn = p.psn then { p with again := false, body := body } else r }).transmit
      k i x p.psn p.entropy body
  match p.job with
  | none => go s p.body
  | some i0 => match s.jobOf? p.core p.ord with
    | none => go s (if (s.chunkFault p.core false needR (i0.source p.ix)).isSome then p.body else s.pktBody p.core i0 p.ix)
    | some (slot, j, pre) =>
      let send (s : State) : State := match s.chunkFault p.core false needR (j.source p.ix) with
        | some (cause, a) => s.jobMeets p.core slot cause a
        | none => go s (s.pktBody p.core j p.ix)
      if j.st ≠ .running || pre && j.local then s else if pre then s.inVictim p.core send else send s

/-- The oldest packet that waits for this context leaves within its window (R369, R386) (log entries 39 and 75). -/
def State.sendQueued (s : State) (k i : Nat) (x : Pdc) : State :=
  match s.outq.find? fun q => q.key = x.key with
  | none => s
  | some q =>
    if (x.word 4).toNat < (x.word 3).toNat + q.bytes then s
    else
      let psn := x.word 1
      let y := (x.setWord 1 (psn + 1#32)).setWord 3 (x.word 3 + BitVec.ofNat 32 q.bytes)
      let z := { y with pkts := y.pkts ++ [{ psn := psn, core := q.core, ord := q.ord, ix := 0, entropy := q.entropy, bytes := q.bytes,
                                             acked := false, again := false, resp := q.resp, body := q.body, job := none }] }
      (({ s with outq := s.outq.erase q } : State).setPdc k i z).transmit k i x psn q.entropy q.body

/-- PACKET_SEND: resent packets go first, whatever the window, then jobs' packets, then those of collectives and cores; nothing
leaves while PORTMASK is 0 (R386, R393) (log entry 69). -/
def execPacketSend (k i : Nat) (s : State) : Out :=
  match s.openPdc? false k i with
  | none => .next s
  | some x =>
    if (pathPorts (x.word 5)).isEmpty then .next s
    else match x.pkts.find? fun p => p.again with
    | some p => .next (s.sendOld k i x p)
    | none => match s.nextSender x with
      | some ((c, slot, j), pre) => .next (if pre then s.inVictim c fun t => t.sendNew k i x c slot j else s.sendNew k i x c slot j)
      | none => .next (s.sendQueued k i x)

/-! ## Accesses of cores (R195, R364) -/

/-- The requests of a core that have yet to leave (R386), those answered with data or the posted ones. -/
def State.unsent (s : State) (c : Nat) (resp : Bool) : Nat := (s.outq.filter fun q => q.core = 4096 + c && q.resp = resp).length

/-- The flat address of a remote access. -/
def PacketBody.flat? (b : PacketBody) : Option Word := match b with | .rma _ a _ _ _ _ _ _ => some a | _ => none

/-- The posted requests of a core to an address that wait for their context or are not retired there (R394). -/
def State.standing (s : State) (c : Nat) (a : Word) : Nat :=
  (s.outq.countP fun q => q.core = 4096 + c && !q.resp && q.body.flat? = some a) +
    (s.pdcs.map fun e => e.2.pkts.countP fun p => p.core = 4096 + c && !p.resp && p.body.flat? = some a).sum

/-- What a core has posted, less one that is answered; nothing is fenced once all are (R232). -/
def Core.unpost (x : Core) (posted : List Word) : Core :=
  { x with posted := posted, fenced := x.fenced && !posted.isEmpty }

/-- A posted access is answered; as the last one is behind a seq access, the second fence of it takes effect (R232). -/
def State.unposted (s : State) (c : Nat) (posted : List Word) : State :=
  let x := s.core c
  let t := s.setCore c (x.unpost posted)
  if x.fenced && posted.isEmpty then (t.release (dieOf c)).acquire (dieOf c) else t

/-- The rejection of a posted access is held by its core (R195). -/
def State.rejected (s : State) (c : Nat) (a : Word) : State :=
  let x := s.core c
  if x.posted.contains a then
    let t := s.unposted c (x.posted.erase a)
    t.setCore c { t.core c with rejects := x.rejects ++ [a] }
  else s

/-! ## Ports and timers -/

def execPathfail (port : Nat) (s : State) : Out :=
  .next (if s.down.contains port || 52 ≤ port then s else ({ s with down := port :: s.down } : State).portEvent 9 port)

/-- LINKUP: links start from stage 2 on (R431). -/
def execLinkup (port : Nat) (s : State) : Out :=
  .next (if s.root.power && 2 ≤ s.root.stage.toNat && s.down.contains port then ({ s with down := s.down.filter (· ≠ port) } : State).portEvent 15 port else s)

/-- LC_TIMER_EXPIRY (R393): one TIMER event, and the timer is no longer armed (log entry 41). -/
def execLcTimerExpiry (k i : Nat) (s : State) : Out :=
  match s.pdc? k i with
  | none => .next s
  | some x =>
    match x.timer with
    | none => .next s
    | some _ => .next ((s.setPdc k i { x with timer := none }).pdcEvent k i 8 0#32 0#32)

end Sys2Proof.Machine
end

