-- ==== Sys2Proof/Machine/LinkCore.lean ====
section
/-! DEFINITION. The link cores (spec/17): the Dolelm instructions, whose link core is number `cur` of the state, stops and restarts, and one turn of a link core. -/

namespace Sys2Proof.Machine

/-! ## Registers, stops -/

/-- The link core whose turn it is. -/
def State.lk (s : State) : LinkCore := s.linkCore s.cur
def State.setLk (s : State) (x : LinkCore) : State := s.setLink s.cur x

/-- A register; l0 reads 0 (Table 17-1). -/
def LinkCore.get (x : LinkCore) (r : BitVec 4) : Half := if r = 0#4 then 0#32 else x.l[r.toNat]'(r.isLt)
/-- Write a register; writes of l0 are discarded. -/
def LinkCore.set (x : LinkCore) (r : BitVec 4) (v : Half) : LinkCore :=
  if r = 0#4 then x else { x with l := x.l.set r.toNat v r.isLt }

/-- The word at an address of local memory. -/
def LinkCore.load (x : LinkCore) (a : Nat) : Half := BitVec.ofNat 32 (Memory.read x.mem a 4)

/-- PC advances by 4; it has 18 bits. -/
def LinkCore.next (x : LinkCore) : LinkCore := { x with pc := x.pc + 4#18 }

/-- An instruction that writes `d` and goes on. -/
def State.lkPut (s : State) (d : BitVec 4) (v : Half) : State := s.setLk (s.lk.set d v).next
/-- An instruction that writes no register and goes on. -/
def State.lkNext (s : State) : State := s.setLk s.lk.next

/-- Causes of Table 17-10. -/
def lcHALT : BitVec 6 := 0#6
def lcILLOP : BitVec 6 := 1#6
def lcILLRSV : BitVec 6 := 2#6
def lcALIGN : BitVec 6 := 3#6
def lcRANGE : BitVec 6 := 4#6
def lcBADPDC : BitVec 6 := 5#6
def lcBADREC : BitVec 6 := 6#6
def lcBADOPND : BitVec 6 := 7#6
def lcTRAP : BitVec 6 := 8#6
def lcSOFTERR : BitVec 6 := 9#6

/-- A link core whose status changes: LCSTAT of the capability block follows (R437). -/
def State.setLinkStat (s : State) (k : Nat) (x : LinkCore) : State :=
  (s.setLink k x).updateBlock

/-- A link core stops (R396): the instruction has no effect; after HALT, or after the eighth stop within 2^30 cycles, for
good. -/
def State.linkStop (s : State) (k : Nat) (cause : BitVec 6) (info : Half) : State :=
  let x := s.linkCore k
  let now := (s.portDie (k / 2)).cycle
  let ts := (now :: x.times).take 8
  let last := ts.length = 8 && (now - ts.getLastD now).toNat ≤ 2 ^ 30
  s.setLinkStat k { x with state := if cause = lcHALT || last then 3#2 else 2#2, cause := cause,
                           stops := if x.stops = 15#4 then 15#4 else x.stops + 1#4, spc := x.pc, info := info, times := ts }

/-- The link core in turn stops with its instruction word as INFO. -/
def lkStop (cause : BitVec 6) (s : State) : Out := .next (s.linkStop s.cur cause (s.lk.load s.lk.pc.toNat))
/-- BADOPND, with the operand as INFO. -/
def lkBadOpnd (x : Half) (s : State) : Out := .next (s.linkStop s.cur lcBADOPND x)

/-! ## General instructions (Table 17-7) -/

/-- A Register-layout operation on a and b. -/
def dolOp (f : Half → Half → Half) (o : DReg) (s : State) : Out := .next (s.lkPut o.d (f (s.lk.get o.a) (s.lk.get o.b)))

def execDolAdd (o : DReg) (s : State) : Out := dolOp (· + ·) o s
def execDolSub (o : DReg) (s : State) : Out := dolOp (· - ·) o s
def execDolAnd (o : DReg) (s : State) : Out := dolOp (· &&& ·) o s
def execDolOr (o : DReg) (s : State) : Out := dolOp (· ||| ·) o s
def execDolXor (o : DReg) (s : State) : Out := dolOp (· ^^^ ·) o s
def execDolSll (o : DReg) (s : State) : Out := dolOp (fun a b => a <<< (b.toNat % 32)) o s
def execDolSrl (o : DReg) (s : State) : Out := dolOp (fun a b => a >>> (b.toNat % 32)) o s

/-- An Immediate-layout operation on a and sext(I18). -/
def dolOpI (f : Half → Half → Half) (o : DImm) (s : State) : Out := .next (s.lkPut o.d (f (s.lk.get o.a) (o.i.signExtend 32)))

def execDolAddi (o : DImm) (s : State) : Out := dolOpI (· + ·) o s
def execDolAndi (o : DImm) (s : State) : Out := dolOpI (· &&& ·) o s
def execDolOri (o : DImm) (s : State) : Out := dolOpI (· ||| ·) o s

/-- A shift by I18[4:0], with I18[17:5] zero. -/
def dolShiftI (f : Half → Nat → Half) (o : DImm) (s : State) : Out :=
  if 32 ≤ o.i.toNat then lkStop lcILLRSV s else .next (s.lkPut o.d (f (s.lk.get o.a) o.i.toNat))

def execDolSlli (o : DImm) (s : State) : Out := dolShiftI (fun a n => a <<< n) o s
def execDolSrli (o : DImm) (s : State) : Out := dolShiftI (fun a n => a >>> n) o s

def execDolLui (o : DImm) (s : State) : Out :=
  if o.a ≠ 0#4 then lkStop lcILLRSV s else .next (s.lkPut o.d (o.i.setWidth 32 <<< 14))

/-- The address of LW and SW, with its checks. -/
def dolMem (o : DImm) (s : State) (f : Nat → State) : Out :=
  let e := (s.lk.get o.a + o.i.signExtend 32).toNat
  if e % 4 ≠ 0 then lkStop lcALIGN s else if 2 ^ 18 ≤ e then lkStop lcRANGE s else .next (f e)

def execDolLw (o : DImm) (s : State) : Out := dolMem o s fun e => s.lkPut o.d (s.lk.load e)

def execDolSw (o : DImm) (s : State) : Out :=
  dolMem o s fun e => s.setLk ({ s.lk with mem := Memory.write s.lk.mem e 4 (s.lk.get o.d).toNat } : LinkCore).next

/-- The record of a context, as it stands; zero words where none has ever opened (log entry 73). -/
def Pdc.blank : Pdc :=
  { key := { target := false, peer := 0#12, mode := 0#2, sec := false, sdi := 0#12, pd := 0 }, words := Vector.replicate 16 0#32,
    pkts := [], got := [], timer := none, results := [], unacked := 0, free := true }

def State.record (s : State) (i : Nat) : Pdc := (s.pdc? s.cur i).getD Pdc.blank

/-- The word and the context of LDC and STC, with their checks (log entry 73). -/
def dolRecord (o : DImm) (s : State) (f : Nat → Nat → Out) : Out :=
  let a := (s.lk.get o.a).toNat
  if 16 ≤ o.i.toNat then lkStop lcILLRSV s else if 4094 < a then lkStop lcBADPDC s else f a o.i.toNat

def execDolLdc (o : DImm) (s : State) : Out := dolRecord o s fun a w => .next (s.lkPut o.d ((s.record a).word w))

def execDolStc (o : DImm) (s : State) : Out :=
  dolRecord o s fun a w =>
    if w ≤ 5 then lkStop lcBADREC s else .next (s.setPdc s.cur a ((s.record a).setWord w (s.lk.get o.d))).lkNext

/-- A branch: taken within the local memory. -/
def dolBranch (c : Half → Half → Bool) (o : DBr) (s : State) : Out :=
  let x := s.lk
  if c (x.get o.a) (x.get o.b) then
    let t : Half := x.pc.setWidth 32 + (o.off.signExtend 32 <<< 2)
    if 2 ^ 18 ≤ t.toNat then lkStop lcRANGE s else .next (s.setLk { x with pc := t.setWidth 18 })
  else .next s.lkNext

def execDolBeq (o : DBr) (s : State) : Out := dolBranch (fun a b => a == b) o s
def execDolBne (o : DBr) (s : State) : Out := dolBranch (fun a b => a != b) o s
def execDolBlt (o : DBr) (s : State) : Out := dolBranch (fun a b => a.slt b) o s
def execDolBltu (o : DBr) (s : State) : Out := dolBranch (fun a b => a.ult b) o s

/-- JALR: the target is computed before d is written. -/
def execDolJalr (o : DImm) (s : State) : Out :=
  let x := s.lk
  let t : Half := x.get o.a + (o.i.signExtend 32 <<< 2)
  if t.toNat % 4 ≠ 0 then lkStop lcALIGN s
  else if 2 ^ 18 ≤ t.toNat then lkStop lcRANGE s
  else .next (s.setLk { x.set o.d (x.pc.setWidth 32 + 4#32) with pc := t.setWidth 18 })

/-! ## EWAIT (R392) -/

/-- The oldest event leaves the queue; a CLOSE that is taken frees its index (R386) (log entry 79). -/
def State.takeEvent (s : State) : Option (LinkEv × State) :=
  let x := s.lk
  match x.events, x.spill with
  | e :: r, _ => some (e, s.setLk { x with events := r })
  | [], e :: _ => some (e, s.unspillLink s.cur 1)
  | [], [] => none

def State.freeClosed (s : State) (e : LinkEv) : State :=
  if e.w0 >>> 24 = 14#32 then
    let i := (e.w0.setWidth 12).toNat
    match s.pdc? s.cur i with
    | some p => s.setPdc s.cur i { p with free := true }
    | none => s
  else s

/-- Write the four words of an entry from register `d` on. -/
def LinkCore.putEvent (x : LinkCore) (d : BitVec 4) (e : LinkEv) : LinkCore :=
  (((x.set d e.w0).set (d + 1#4) e.w1).set (d + 2#4) e.w2).set (d + 3#4) e.w3

def execDolEwait (o : DImm) (s : State) : Out :=
  if o.d = 0#4 || 12 < o.d.toNat then lkStop lcILLRSV s
  else match s.takeEvent with
  | some (e, t) =>
    let u := t.freeClosed e
    .next (u.setLk { (u.lk.putEvent o.d e).next with state := 0#2 })
  | none =>
    if o.i.getLsbD 0 then
      .next (s.setLk { (s.lk.putEvent o.d { w0 := 0#32, w1 := 0#32, w2 := 0#32, w3 := 0#32 }).next with state := 0#2 })
    else .next (if s.lk.state = 1#2 then s else s.setLinkStat s.cur { s.lk with state := 1#2 })

/-- EWAIT_WAKE: an entry has come for a link core that waits; its EWAIT takes it (log entry 73). -/
def State.ewaitWake (s : State) (k : Nat) : State :=
  let x := s.linkCore k
  if x.state = 1#2 && !(x.events.isEmpty && x.spill.isEmpty) then s.setLinkStat k { x with state := 0#2 } else s

def execEwaitWake (k : Nat) (s : State) : Out := .next (s.ewaitWake k)

/-! ## Transport control (Table 17-8) -/

/-- The context that register a names. -/
def dolPdc (a : BitVec 4) (s : State) (f : Nat → Pdc → Out) : Out :=
  let i := (s.lk.get a).toNat
  if 4094 < i then lkStop lcBADPDC s else f i (s.record i)

/-- An instruction of one side: on a closed context it does nothing, on one of the other side it stops. -/
def dolSide (target : Bool) (a : BitVec 4) (s : State) (closed : Out) (f : Nat → Pdc → Out) : Out :=
  dolPdc a s fun i x =>
    if !x.isOpen then closed else if x.isTarget ≠ target then lkBadOpnd (s.lk.get a) s else f i x

/-- A PSN of a context that has been sent, is not retired and not acknowledged. -/
def Pdc.unanswered (x : Pdc) (psn : BitVec 32) : Bool := x.pkts.any fun p => p.psn = psn && !p.acked

def execDolRetx (o : DReg) (s : State) : Out :=
  let b := s.lk.get o.b
  dolSide false o.a s (.next (s.lkPut o.d 0#32)) fun i x =>
    if x.unanswered b then
      .next ((s.setPdc s.cur i { x with pkts := x.pkts.map fun p => if p.psn = b then { p with again := true } else p }).lkPut
        o.d 1#32)
    else .next (s.lkPut o.d 0#32)

/-- The window that SETWIN sets. -/
def windowOf (b : Half) : Half := if b.toNat < 4096 then 4096#32 else if 2 ^ 24 < b.toNat then 0x1000000#32 else b

def execDolSetwin (o : DReg) (s : State) : Out :=
  let w := windowOf (s.lk.get o.b)
  dolSide false o.a s (.next s.lkNext) fun i x => .next ((s.setPdc s.cur i (x.setWord 4 w)).lkPut o.d w)

def execDolSetpath (o : DReg) (s : State) : Out :=
  let b := s.lk.get o.b
  dolPdc o.a s fun i x =>
    if 2 ^ 11 ≤ b.toNat || 5 < b.toNat / 2 ^ 8 then lkBadOpnd b s
    else if !x.isOpen then .next s.lkNext
    else .next (s.setPdc s.cur i (x.setWord 5 b)).lkNext

def execDolArmtmr (o : DReg) (s : State) : Out :=
  let b := s.lk.get o.b
  dolPdc o.a s fun i x =>
    if 2 ^ 20 ≤ b.toNat then lkBadOpnd b s
    else if !x.isOpen then .next s.lkNext
    else .next (s.setPdc s.cur i { x with timer := if b = 0#32 then none else some b.toNat }).lkNext

def execDolSack (o : DReg) (s : State) : Out :=
  dolSide true o.a s (.next s.lkNext) fun i x => .next (s.sendAck s.cur i x).lkNext

/-- NAKSEND: a trim NAK, unless the PSN has been received. -/
def execDolNaksend (o : DReg) (s : State) : Out :=
  let b := s.lk.get o.b
  dolSide true o.a s (.next s.lkNext) fun i x =>
    .next (if x.seenPsn b then s else s.answer s.cur i x b (.nak b .trim)).lkNext

/-- The packets that POSTC retires: from SNDUNA on, acknowledged, up to PSN b. -/
def Pdc.retirable (x : Pdc) (b : BitVec 32) : List Pkt := x.pkts.takeWhile fun p => p.acked && psnUpTo p.psn b

/-- Retire packets (R394): INFLIGHT, SNDUNA and each packet's job. -/
def State.retirePkts (s : State) (i : Nat) (x : Pdc) (ps : List Pkt) : State :=
  let y := (x.setWord 2 (x.word 2 + BitVec.ofNat 32 ps.length)).setWord 3
    (x.word 3 - BitVec.ofNat 32 (ps.map fun p => p.bytes).sum)
  ps.foldl (fun a p => a.onJob p.core p.ord (.retired p.bytes)) (s.setPdc s.cur i { y with pkts := x.pkts.drop ps.length })

def execDolPostc (o : DReg) (s : State) : Out :=
  let b := s.lk.get o.b
  dolSide false o.a s (.next (s.lkPut o.d 0#32)) fun i x =>
    let ps := x.retirable b
    .next ((s.retirePkts i x ps).lkPut o.d (BitVec.ofNat 32 ps.length))

/-- The packet is a collective's. -/
def Pkt.ofColl (p : Pkt) : Bool := match p.body with | .coll .. => true | _ => false

/-- The transport jobs with an unretired packet, other than collectives. -/
def Pdc.jobs (x : Pdc) : List (Nat × Nat) := ((x.pkts.filter fun p => !p.ofColl).map fun p => (p.core, p.ord)).dedup

/-- What becomes of a packet of a collective or a core in a context that fails: a collective's is sent again on a new one (R411), unless it was
acknowledged, and a posted access that was not is rejected (R195, R372) (log entries 39 and 75). -/
def State.requeue1 (s : State) (x : Pdc) (p : Pkt) : State :=
  if p.ofColl then
    if p.acked then s.onJob p.core p.ord (.retired p.bytes)
    else { s with outq := s.outq ++ [{ core := p.core, ord := p.ord, entropy := p.entropy, key := x.key, body := p.body, bytes := p.bytes,
                                       resp := p.resp }] }
  else if 4096 ≤ p.core && !p.resp && !p.acked then match p.body.flat? with
    | some a => s.rejected (p.core - 4096) a
    | none => s
  else s

/-- What the packets of a context that fails come to, beside those of jobs. -/
def State.requeue (s : State) (x : Pdc) : State := x.pkts.foldl (fun (t : State) p => t.requeue1 x p) s

def execDolFailc (o : DReg) (s : State) : Out :=
  let b := s.lk.get o.b
  dolPdc o.a s fun i x =>
    if b ≠ 13#32 && b ≠ 14#32 then lkBadOpnd b s
    else if !x.isOpen then .next s.lkNext
    else
      let s1 := x.jobs.foldl (fun a j => a.onJob j.1 j.2 (.failed (b.setWidth 6) x.key.peer)) s
      .next ((s1.closePdc s.cur i x b).requeue x).lkNext

/-- A statistic, and what reading it changes (Table 17-9). -/
def State.readStat (s : State) (n : Nat) : Half × State :=
  let d := s.cur / 2
  let x := s.portDie d
  match n with
  | 0 => (x.cycle.setWidth 32, s.setPort d { x with latch := (x.cycle >>> 32).setWidth 32 })
  | 1 => (x.latch, s)
  | 11 => (BitVec.ofNat 32 (s.openCount s.cur), s)
  | n => ((x.stats[n]?).getD 0#32, s)

def execDolRdstat (o : DReg) (s : State) : Out :=
  let a := s.lk.get o.a
  if 11 < a.toNat then lkBadOpnd a s
  else
    let r := s.readStat a.toNat
    .next (r.2.lkPut o.d r.1)

def execDolWrstat (o : DReg) (s : State) : Out :=
  let a := s.lk.get o.a
  if a.toNat < 2 || 10 < a.toNat then lkBadOpnd a s
  else
    let d := s.cur / 2
    let x := s.portDie d
    .next (s.setPort d { x with stats := x.stats.setIfInBounds a.toNat (s.lk.get o.b) }).lkNext

/-! ## Stops and restarts (R396) -/

def execDolHalt (_ : DReg) (s : State) : Out := lkStop lcHALT s

def execDolTrap (o : DImm) (s : State) : Out := .next (s.linkStop s.cur lcTRAP (o.i.setWidth 32))

/-- Local memory as an image leaves it. -/
def imageCells (img : List (Nat × Byte)) : List Host.Cell :=
  img.foldl (fun m c => if c.1 < 2 ^ 18 then Memory.put m c.1 c.2 else m) []

/-- The image of link core `k` in the firmware that runs (log entry 1). -/
def Root.linkImage (r : Root) (k : Nat) : List Host.Cell :=
  match r.image with
  | none => []
  | some f => imageCells (f.code.getD k [])

/-- LC_RESTART: the image is loaded again, the registers and PC are 0; records, events and statistics stay. -/
def execLcRestart (k : Nat) (s : State) : Out :=
  let x := s.linkCore k
  .next (if x.state = 2#2 then
    s.setLinkStat k { x with l := Vector.replicate 16 0#32, pc := 0#18, mem := s.root.linkImage k, state := 0#2 } else s)

/-! ## A turn -/

/-- One turn of a link core: an instruction, where it neither waits nor stands stopped. CYCLE of its port die goes on (log entry 73). -/
noncomputable def linkTurn (ex : Instr → State → Out) (k : Nat) (s : State) : Out :=
  if 4 ≤ k then .next s
  else
    let d := s.portDie (k / 2)
    let s1 := (s.setPort (k / 2) { d with cycle := d.cycle + 1#64 }).ewaitWake k
    let x := s1.linkCore k
    if x.state ≠ 0#2 then .next s1
    else
      let s2 := { s1 with cur := k }
      match decodeDol (x.load x.pc.toNat) with
      | .ok i => ex i s2
      | .bad .illop => lkStop lcILLOP s2
      | .bad _ => lkStop lcILLRSV s2

end Sys2Proof.Machine
end

