-- ==== Sys2Proof/Machine/Collectives.lean ====
section
/-! DEFINITION. Collectives (spec/18): the parameter block and its checks, the fixed order of reductions, and the progress and end of
a member's job. Members exchange their operands; each forms its own result in the order of R407 to R409. -/

namespace Sys2Proof.Machine

/-! ## The block (R399 to R403) -/

/-- Bytes read at a submit: whether they must wait, the first fault, and the bytes. -/
structure EarlyRead where
  hold  : Bool
  trap  : Option (BitVec 6 × Word)
  bytes : List Byte
  deriving DecidableEq, Repr

def EarlyRead.none' : EarlyRead := { hold := false, trap := none, bytes := [] }

/-- Read `n` bytes at a device address for the core in turn, as it submits. -/
def State.earlyRead (s : State) (va n : Nat) : EarlyRead :=
  let c := s.cur
  let at' (i : Nat) : Resolved :=
    s.device (dieOf c) (isSup c) (s.launch? s.me.launch) needR false (BitVec.ofNat 64 (va + i))
  let firsts := (List.range n).filter fun i => i = 0 || (va + i) % 64 = 0
  { hold := firsts.any fun i => match at' i with
      | .ok (.mem k) => s.readHeld c k (min 64 (n - i))
      | _ => false,
    trap := firsts.findSome? fun i => match at' i with
      | .ok (.mem _) => none
      | .ok _ => some (cPROT, BitVec.ofNat 64 (va + i))
      | .bad cause x => some (cause, x),
    bytes := (List.range n).map fun i => match at' i with
      | .ok (.mem k) => BitVec.ofNat 8 (s.readNow c k 1)
      | _ => 0#8 }

/-- The fields of a block, as doublewords. -/
structure Block where
  w : List Word
  deriving DecidableEq, Repr

def Block.at (b : Block) (n : Nat) : Word := b.w.getD n 0#64
def Block.op (b : Block) : Nat := fld (b.at 0) 0 8
def Block.dtype (b : Block) : Nat := fld (b.at 0) 8 8
def Block.redop (b : Block) : Nat := fld (b.at 0) 16 8
def Block.sec (b : Block) : Bool := (b.at 0).getLsbD 24
def Block.flags (b : Block) : Nat := fld (b.at 0) 32 32
def Block.rnd (b : Block) : Nat := fld (b.at 0) 36 3
def Block.inplace (b : Block) : Bool := (b.at 0).getLsbD 34
def Block.isList (b : Block) : Bool := fld (b.at 1) 62 2 = 1
def Block.root (b : Block) : Nat := fld (b.at 6) 48 16
def Block.count (b : Block) : Nat := fld (b.at 6) 0 48
def Block.isSketch (b : Block) : Bool := b.op = 7

/-- Bytes of an element (Table 18-2); 0 for a code that is none. -/
def dtypeBytes (d : Nat) : Nat :=
  match d with
  | 0 => 4 | 1 => 8 | 2 => 2 | 3 => 2 | 5 => 1 | 6 => 1 | 16 => 4 | 17 => 1 | _ => 0

def Block.es (b : Block) : Nat := if b.isSketch then 4 else dtypeBytes b.dtype

/-- Extents of a box. -/
def boxDims (g0 : Word) : List Nat := [fld g0 16 4 + 1, fld g0 20 4 + 1, fld g0 24 4 + 1]

/-- The members of a box, by member index (R401). -/
def boxRanks (g0 : Word) : List (BitVec 12) :=
  (List.range (prodOf (boxDims g0))).map fun g =>
    let c := coordsOf (boxDims g0) g
    BitVec.ofNat 12 ((fld g0 0 4 + c.getD 0 0) % 16 + 16 * ((fld g0 4 4 + c.getD 1 0) % 16) + 256 * ((fld g0 8 4 + c.getD 2 0) % 16))

/-- The number of entries of a list that can be read. -/
def Block.listLen (b : Block) : Nat :=
  let n := fld (b.at 1) 0 13
  if b.isList && 1 ≤ n && n ≤ 4096 && (b.at 2).toNat % 8 = 0 && (b.at 2).toNat < 2 ^ 52 then n else 0

/-- The entries of a list. -/
def listEntries (bs : List Byte) (n : Nat) : List Nat := (List.range n).map fun i => leNat ((bs.drop (2 * i)).take 2)

/-- What breaks the group, with its field (R401) (log entry 76). -/
def Block.groupBad (b : Block) (entries : List Nat) : Option Nat :=
  let g0 := b.at 1
  let n := fld g0 0 13
  match fld g0 62 2 with
  | 0 =>
    if fld g0 12 4 ≠ 0 || fld g0 28 34 ≠ 0 then some 0x08
    else if !(boxRanks g0).contains Config.devRank then some 0x08
    else if b.at 2 ≠ 0#64 then some 0x10
    else none
  | 1 =>
    if fld g0 13 49 ≠ 0 || n = 0 || 4096 < n then some 0x08
    else if b.listLen = 0 then some 0x10
    else if entries.any (4096 ≤ ·) || !entries.Nodup || !(entries.map (BitVec.ofNat 12)).contains Config.devRank then some 0x10
    else none
  | _ => some 0x08

/-- The members, where the group is valid. -/
def Block.ranks (b : Block) (entries : List Nat) : List (BitVec 12) :=
  if (b.groupBad entries).isSome then [] else if b.isList then entries.map (BitVec.ofNat 12) else boxRanks (b.at 1)

/-- A power of two. -/
def isPow2 (n : Nat) : Bool := n ≠ 0 && 2 ^ Nat.log2 n = n

/-- The bytes of PERMTAB form a permutation of `n` bits (R413). -/
def permOk (tab : List Nat) (n : Nat) : Bool :=
  n ≤ 64 && (tab.take n).all (· < n) && (tab.take n).Nodup && (tab.drop n).all (· = 255)

/-- Elements of SEND and of RECV (Table 18-5). -/
def Block.sendLen (b : Block) (p : Nat) : Nat := if b.op = 2 || b.op = 5 then p * b.count else b.count
def Block.recvLen (b : Block) (p : Nat) : Nat := if b.op = 3 || b.op = 5 then p * b.count else b.count

/-- The hulls of SEND and RECV break R403; a member of a BCAST that is not its root has no SEND (Table 18-5). -/
def Block.hullBad (b : Block) (p self : Nat) : Bool :=
  let s := (b.at 4).toNat
  let r := (b.at 5).toNat
  let n := if b.op = 4 && b.root ≠ self then 0 else b.sendLen p * b.es
  let m := b.recvLen p * b.es
  n ≠ 0 && 2 ^ 52 < s + n || 2 ^ 52 < r + m || n ≠ 0 && !(b.inplace && s = r) && s < r + m && r < s + n

/-- The first failure of validation, in the order of offsets: CODE and FIELD (R403) (log entry 76). -/
def Block.refusal (b : Block) (entries tab : List Nat) (src dst : Option SkDesc) : Option (Nat × Nat) :=
  let sk := b.isSketch
  let p := (b.ranks entries).length
  let self := (b.ranks entries).findIdx (· = Config.devRank)
  let l := Nat.log2 b.count
  let aligned (x : Word) : Bool := x.toNat < 2 ^ 52 && x.toNat % b.es = 0
  let differ := match src, dst with
    | some a, some c => !a.same c
    | _, _ => false
  let checks : List (Bool × Nat × Nat) :=
    [(b.op = 0 || 7 < b.op, 16, 0x00),
     (if sk then b.dtype ≠ 0 else dtypeBytes b.dtype = 0 || b.op < 3 && 16 ≤ b.dtype, 16, 0x01),
     (if sk then b.redop ≠ 0 else b.op < 3 && (2 < b.redop || b.dtype = 1 && b.redop ≠ 0), 16, 0x02),
     (fld (b.at 0) 25 7 ≠ 0, 16, 0x03),
     (fld (b.at 0) 41 7 ≠ 0 || (b.at 0).getLsbD 35 || 6 ≤ b.rnd || b.inplace && b.op ≠ 1 && b.op ≠ 4, 16, 0x04),
     ((b.at 0).getLsbD 32 && b.sec && (b.op = 1 || b.op = 2 || sk), 17, 0x04),
     ((b.groupBad entries).isSome, 18, (b.groupBad entries).getD 0),
     (b.at 3 ≠ 0#64, 16, 0x18),
     (!sk && !aligned (b.at 4), 16, 0x20), (sk && src.isNone, 19, 0x20),
     (!sk && (!aligned (b.at 5) || b.inplace && b.at 4 ≠ b.at 5), 16, 0x28), (sk && (dst.isNone || differ), 19, 0x28),
     ((if b.op = 4 then p ≤ b.root else b.root ≠ 0) || (if sk then b.count ≠ 0 else b.count = 0) ||
       !sk && b.hullBad p self || b.op = 6 && (!isPow2 p || !isPow2 b.count || 64 < l + Nat.log2 p), 16, 0x30),
     (if b.op = 6 then !(b.at 7).toNat % 8 = 0 || 2 ^ 52 ≤ (b.at 7).toNat || !permOk tab (l + Nat.log2 p) else b.at 7 ≠ 0#64,
       16, 0x38),
     (fld (b.at 9) 48 16 ≠ 0 || b.at 9 = 0#64, 16, 0x48),
     ((List.range 5).any fun i => b.at (11 + i) ≠ 0#64, 16, 0x58)]
  (checks.find? Prod.fst).map Prod.snd

/-- The compared fields (R405). -/
def Block.hdr (b : Block) (entries tab : List Nat) (src : Option SkDesc) : CollHdr :=
  { op := (b.at 0).setWidth 8, dtype := (b.at 0).extractLsb' 8 8, redop := (b.at 0).extractLsb' 16 8, sec := b.sec,
    sdi := (b.at 0).extractLsb' 48 12, flags := (b.at 0).extractLsb' 32 9, g0 := b.at 1, g1 := b.at 2, g2 := b.at 3,
    root := (b.at 6).extractLsb' 48 16, count := (b.at 6).setWidth 48,
    digest := if b.isList then Config.digest entries else 0#64, perm := if b.op = 6 then Config.digest tab else 0#64,
    sk := match src with
      | none => 0#64
      | some k => if b.isSketch then BitVec.ofNat 64 (k.d + 2 ^ 8 * k.logw + 2 ^ 16 * k.f + 2 ^ 32 * k.salt.toNat) else 0#64 }

/-- A sketch descriptor as a submit reads it (R399); the place is given by its address. -/
def State.collDesc (s : State) (b : Block) (a : Word) : SkRead :=
  if b.isSketch && a.toNat < 2 ^ 52 then s.skRead a else { hold := false, trap := none, desc := none }

/-- PHASER or STATUS of a block is malformed (R399). -/
def State.collFormBad (s : State) (c : Nat) (b : Block) : Bool :=
  let bad (a : Word) (n : Nat) : Bool := a ≠ 0#64 && (misaligned a n || match s.syncAddr c a with | .ok _ => false | .bad _ _ => true)
  bad (b.at 8) 16 || bad (b.at 10) 8

/-- Footprints (Table 18-5). -/
def Block.spans (b : Block) (c : Nat) (p self : Nat) (src dst : Option SkDesc) : List Span × List Span :=
  if b.isSketch then
    (src.toList.map SkDesc.area, dst.toList.map SkDesc.area ++ dst.toList.map SkDesc.word)
  else
    let r : List Span := if b.op = 4 && b.root ≠ self then []
      else [(JobAddr.dev (b.at 4).toNat).span c (b.sendLen p * b.es)]
    (r, [(JobAddr.dev (b.at 5).toNat).span c (b.recvLen p * b.es)])

/-- What a submit reads and checks (R399, R403) (log entry 76). -/
def xcollSubmit (s : State) : Submit :=
  let c := s.cur
  let p0 := s.me.eng.param 6 0
  let none' : Submit := { kind := .xcoll, hold := false, early := none, bad := none, mode := false, locals := [], tiles := [],
                          forms := [], reads := [], writes := [], fill := id }
  if misaligned p0 128 then { none' with bad := some 0 }
  else match s.syncAddr c p0 with
  | .bad cause info => { none' with early := some (0, cause, info) }
  | .ok (.mem key) =>
    if s.readHeld c key 128 then { none' with hold := true }
    else
      let b : Block := { w := (List.range 16).map fun i => BitVec.ofNat 64 (s.readNow c (key + 8 * i) 8) }
      let list := if b.listLen = 0 then EarlyRead.none' else s.earlyRead (b.at 2).toNat (2 * b.listLen)
      let tab := if b.op = 6 && (b.at 7).toNat % 8 = 0 && (b.at 7).toNat < 2 ^ 52 then s.earlyRead (b.at 7).toNat 64
        else EarlyRead.none'
      let sr := s.collDesc b (b.at 4)
      let dr := s.collDesc b (b.at 5)
      let entries := listEntries list.bytes b.listLen
      let perm := tab.bytes.map BitVec.toNat
      let ranks := b.ranks entries
      let self := ranks.findIdx (· = Config.devRank)
      let refuse := b.refusal entries perm sr.desc dr.desc
      let sp := if refuse.isSome then ([], []) else b.spans c ranks.length self sr.desc dr.desc
      let k : Coll :=
        { num := 0, hdr := b.hdr entries perm sr.desc, ranks := ranks, self := self, send := b.at 4, recv := b.at 5, perm := perm,
          tmo := fld (b.at 9) 0 48, src := sr.desc, dst := dr.desc, data := [], sk := 0#2, acks := 0, paths := fld (b.at 0) 60 4, placed := false,
          refuse := refuse.map fun r => (BitVec.ofNat 8 r.1, BitVec.ofNat 8 r.2) }
      { none' with
        hold := list.hold || tab.hold || sr.hold || dr.hold,
        early := ([list.trap, tab.trap, sr.trap, dr.trap].findSome? id).map fun t => (0, t.1, t.2),
        bad := if s.collFormBad c b then some 0 else none, locals := touchesOf (sp.1 ++ sp.2), reads := sp.1, writes := sp.2,
        fill := fun j => { j with ps := b.w, coll := some k } }
  | .ok _ => none'

/-- The key of a group in the count of its collectives (R404): a list group goes by its members. -/
def groupKey (lid : BitVec 32) (k : Coll) : List Word :=
  [lid.setWidth 64, k.hdr.g0, k.hdr.gBox, k.hdr.g2] ++ (if k.hdr.isList then k.ranks.map (BitVec.setWidth 64) else [])

def State.groupCount (s : State) (g : List Word) : Nat := ((s.groups.find? fun e => e.1 = g).map Prod.snd).getD 0

/-- A collective of a valid group takes the next number of its group (R404) (log entry 76). -/
def State.collNumber (s : State) (c slot : Nat) : State :=
  match s.job? c slot with
  | none => s
  | some j => match j.coll with
    | none => s
    | some k =>
      if k.ranks.isEmpty then s
      else
        let g := groupKey j.lid k
        let n := s.groupCount g
        ({ s with groups := (g, n + 1) :: s.groups.filter fun e => e.1 ≠ g } : State).setJob c slot
          { j with coll := some { k with num := n } }

/-- A collective that fails validation ends at once and sends nothing from then on, no answer either (R403) (log entry 76). -/
def State.collRefuse (s : State) (c slot : Nat) : State :=
  match s.job? c slot with
  | none => s
  | some j => match j.coll.bind Coll.refuse with
    | none => s
    | some (code, field) =>
      let t := match j.coll with
        | some k => if k.ranks.isEmpty then s else { s with collMute := (collGroup j.lid k.hdr, k.num) :: s.collMute }
        | none => s
      (t.collStatus c j code.toNat 0 field.toNat 0#7).endJob c slot 3 cENGFAULT

/-- XCOLL (R399). -/
def execXcoll (o : En) (s : State) : Out :=
  match readSubmit o xcollSubmit s with
  | .next t =>
    if t.me.eng.ordNext = s.me.eng.ordNext then .next t
    else .next ((t.collNumber t.cur o.sa.toNat).collRefuse t.cur o.sa.toNat)
  | r => r

/-! ## Values and orders (R406 to R409, R413, R414) -/

/-- An operand or partial result: one FP32 code, a pair of them (CF32), or a counter, with the flags raised so far. -/
abbrev Operand := List Nat × Flags

/-- One op application. -/
def collOp (sk : Bool) (redop : Nat) (a b : Operand) : Operand :=
  if sk then
    let s := toInt 32 (a.1.headD 0) + toInt 32 (b.1.headD 0)
    ([ofInt 32 (clampS s)], a.2 ||| b.2 ||| flagIf (decide (clampS s ≠ s)) fSATF)
  else
    let op := match redop with | 0 => 0 | 1 => 2 | _ => 3
    let r := (List.zip a.1 b.1).map fun v => redOp op v.1 v.2
    (r.map Prod.fst, r.foldl (fun f x => f ||| x.2) (a.2 ||| b.2))

/-- An element widened to FP32 (R406) (log entry 75). -/
def collWiden (sk : Bool) (dtype : Nat) (x : Nat) : Operand :=
  if sk || dtype = 0 then ([x % 2 ^ 32], 0#7)
  else if dtype = 1 then ([x % 2 ^ 32, x / 2 ^ 32 % 2 ^ 32], 0#7)
  else let r := convert (Nf.ofCode dtype) .f32 rne 0 x; ([r.bits], r.fl)

/-- The final write of an element (R406): its code and the flags of its conversion. -/
def collNarrow (sk : Bool) (dtype rnd sat : Nat) (v : Operand) : Nat × Flags :=
  if sk || dtype = 0 then (v.1.headD 0, v.2)
  else if dtype = 1 then (v.1.headD 0 + 2 ^ 32 * v.1.getD 1 0, v.2)
  else let r := convert .f32 (Nf.ofCode dtype) (Codes.engine (if rnd = 0 then 1 else rnd) sat) 0 (v.1.headD 0); (r.bits, v.2 ||| r.fl)

/-- Block number of an element of a segment of `m` elements cut into `n` (R408), with its bounds. -/
def blockOf (m n ix : Nat) : Nat × Nat × Nat :=
  let b := ((List.range n).find? fun b => b * m / n ≤ ix && ix < (b + 1) * m / n).getD 0
  (b, b * m / n, (b + 1) * m / n)

/-- The stages of the reduce-scatter of an element of a segment: dimension, extent and the position that holds it. -/
def stagesOf (dims : List (Nat × Nat)) (m ix : Nat) : List (Nat × Nat × Nat) :=
  match dims with
  | [] => []
  | (e, n) :: r =>
    let b := blockOf m n ix
    (e, n, b.1) :: stagesOf r (b.2.2 - b.2.1) (ix - b.2.1)

/-- The value after the stages, last one first: a ring sum of the values before it (R407). -/
def ringValue (op : Operand → Operand → Operand) (leaf : List Nat → Operand) : List (Nat × Nat × Nat) → List Nat → Operand
  | [], c => leaf c
  | (e, n, b) :: r, c =>
    (List.range (n - 1)).foldl (fun a t => op a (ringValue op leaf r (c.set e ((b + (t + 2)) % n))))
      (ringValue op leaf r (c.set e ((b + 1) % n)))

/-- The dimensions of a group with extent above 1, and those of a list (R408). -/
def collDims (k : Coll) : List Nat × List (Nat × Nat) :=
  if k.hdr.g0.extractLsb' 62 2 = 1#2 then ([k.ranks.length], [(0, k.ranks.length)])
  else
    let d := boxDims k.hdr.g0
    (d, (List.zip (List.range 3) d).filter fun x => 1 < x.2)

/-- The value of element `ix` of `total` in the all-reduce (R408), from the members' operands (log entry 75). -/
def allReduce (k : Coll) (op : Operand → Operand → Operand) (leaf : Nat → Operand) (total ix : Nat) : Operand :=
  let (exts, dims) := collDims k
  let d := dims.length
  if d = 0 then leaf k.self
  else
    let i := ((List.range d).find? fun i => i * total / d ≤ ix && ix < (i + 1) * total / d).getD 0
    let lo := i * total / d
    let hi := (i + 1) * total / d
    let order := dims.drop i ++ dims.take i
    ringValue op (fun c => leaf (linearOf exts c)) (stagesOf order (hi - lo) (ix - lo)).reverse (exts.map fun _ => 0)

/-- The element sizes and counts of a collective. -/
def Coll.sk? (k : Coll) : Bool := k.hdr.op = 7#8
def Coll.es (k : Coll) : Nat := if k.sk? then 4 else dtypeBytes k.hdr.dtype.toNat
def Coll.count (k : Coll) : Nat :=
  if k.sk? then match k.src with | some a => a.d * 2 ^ a.logw | none => 0 else k.hdr.count.toNat

/-- The elements of member `g`'s operand that member `h` takes: the first, and how many. -/
def Coll.part (k : Coll) (g h : Nat) : Nat × Nat :=
  match k.hdr.op.toNat with
  | 2 => (h * k.count, k.count)
  | 5 => (h * k.count, k.count)
  | 4 => if g = k.hdr.root.toNat then (0, k.count) else (0, 0)
  | _ => (0, k.count)

/-- Element `ix` of member `g`'s operand, where it has arrived. -/
def Coll.elem? (k : Coll) (g ix : Nat) : Option (BitVec 64) :=
  k.data.findSome? fun d => if d.1 = g && d.2.1 ≤ ix then d.2.2[ix - d.2.1]? else none

/-- Everything that this member takes from member `g` has arrived. -/
def Coll.hasAll (k : Coll) (g : Nat) : Bool :=
  let r := k.part g k.self
  (List.range r.2).all fun i => (k.elem? g (r.1 + i)).isSome

/-- The lowest member whose data are still missing (log entry 77). -/
def Coll.lacks (k : Coll) : Option Nat := (List.range k.ranks.length).find? fun g => !k.hasAll g

/-- The element of the permutation's source that goes to index `J` (R413). -/
def permSource (perm : List Nat) (n j : Nat) : Nat :=
  (List.range n).foldl (fun a b => if j.testBit (perm.getD b 0) then a + 2 ^ b else a) 0

/-- The value that this member writes to element `ix` of RECV, with its flags (log entry 75). -/
def Coll.result (k : Coll) (ix : Nat) : Nat × Flags :=
  let get (g i : Nat) : Nat := ((k.elem? g i).getD 0#64).toNat
  let dt := k.hdr.dtype.toNat
  let p := k.ranks.length
  let red (total i : Nat) : Nat × Flags :=
    collNarrow k.sk? dt (k.hdr.flags.extractLsb' 4 3).toNat (k.hdr.flags.extractLsb' 7 2).toNat
      (allReduce k (collOp k.sk? k.hdr.redop.toNat) (fun g => collWiden k.sk? dt (get g i)) total i)
  match k.hdr.op.toNat with
  | 1 => red k.count ix
  | 7 => red k.count ix
  | 2 => red (p * k.count) (k.self * k.count + ix)
  | 3 => (get (ix / k.count) (ix % k.count), 0#7)
  | 4 => (get k.hdr.root.toNat ix, 0#7)
  | 5 => (get (ix / k.count) (k.self * k.count + ix % k.count), 0#7)
  | _ =>
    let i := permSource k.perm (Nat.log2 k.count + Nat.log2 p) (k.self * k.count + ix)
    (get (i / k.count) (i % k.count), 0#7)

/-- The elements that this member writes. -/
def Coll.outCount (k : Coll) : Nat :=
  match k.hdr.op.toNat with
  | 3 => k.ranks.length * k.count
  | 5 => k.ranks.length * k.count
  | 4 => if k.hdr.flags.getLsbD 2 && k.self = k.hdr.root.toNat then 0 else k.count
  | _ => k.count

/-- Where the elements of SEND and RECV begin. -/
def Coll.sendAt (k : Coll) : Nat := if k.sk? then match k.src with | some a => a.base | none => 0 else k.send.toNat
def Coll.recvAt (k : Coll) : Nat := if k.sk? then match k.dst with | some a => a.base | none => 0 else k.recv.toNat

/-- The elements of SEND that this member reads. -/
def Coll.inCount (k : Coll) : Nat :=
  match k.hdr.op.toNat with
  | 2 => k.ranks.length * k.count
  | 5 => k.ranks.length * k.count
  | 4 => if k.self = k.hdr.root.toNat then k.count else 0
  | _ => k.count

/-! ## Traffic and progress (R404, R405, R411, R412) -/

/-- Elements that fit one packet of 4 KiB. -/
def Coll.perPacket (k : Coll) : Nat := 4096 / k.es

/-- The packets that this member sends to member `h`: first element and elements of each. -/
def Coll.packetsTo (k : Coll) (h : Nat) : List (Nat × Nat) :=
  let r := k.part k.self h
  (List.range ((r.2 + k.perPacket - 1) / k.perPacket)).map fun n =>
    (r.1 + n * k.perPacket, min k.perPacket (r.2 - n * k.perPacket))

/-- Packet `n` of a collective to a peer, with its elements from `off` on; it takes its entropy value as R369 says (R400, R411)
(log entry 75). -/
def State.collSend (s : State) (c : Nat) (j : Job) (k : Coll) (rank : BitVec 12) (n off : Nat) (xs : List (BitVec 64)) (sk : BitVec 2) :
    State :=
  { s with outq := s.outq ++ [{ core := c, ord := j.ord, entropy := n % (k.paths + 1),
                                key := { target := false, peer := rank, mode := 0#2, sec := k.hdr.sec, sdi := k.hdr.sdi, pd := 0 },
                                body := .coll j.lid k.num k.hdr off xs sk, bytes := xs.length * k.es, resp := false }] }

/-- Member indexes of the peers. -/
def Coll.peers (k : Coll) : List Nat := (List.range k.ranks.length).filter (· ≠ k.self)

/-- The job reads its operand and sends it to its peers, once (R370's and R415's reads; a local XLATE parks it) (log entry 75). -/
def State.collGo (s : State) (c slot : Nat) : State :=
  match s.job? c slot with
  | none => s
  | some j => match j.coll with
    | none => s
    | some k =>
      if j.st ≠ .running || j.made ≠ 0 then s
      else
        let a : JobAddr := .dev k.sendAt
        let n := k.inCount
        let fault := if n = 0 then none else match s.runFault c needR a (n * k.es) with
          | some f => some f
          | none => if k.sk? then match k.src with
              | some d => s.runFault c needR (.dev (d.addr.toNat + 16)) 8
              | none => none
            else none
        match fault with
        | some (cause, x) => s.jobMeets c slot cause x
        | none =>
          let mine := (List.range n).map fun i => BitVec.ofNat 64 (s.jobNat c (a.add (i * k.es)) k.es)
          let own : BitVec 2 := match k.sk?, k.src with
            | true, some d => BitVec.ofNat 2 (s.jobNat c (.dev (d.addr.toNat + 16)) 8)
            | _, _ => 0#2
          let k1 := { k with data := (k.self, 0, mine) :: k.data, sk := k.sk ||| own }
          let s1 := s.setJob c slot { j with made := 1, coll := some k1 }
          k.peers.foldl (fun (t : State) h =>
            (List.zip (List.range (k.packetsTo h).length) (k.packetsTo h)).foldl (fun (u : State) p =>
              u.collSend c j k (k.ranks.getD h 0#12) p.1 p.2.1 ((mine.drop p.2.1).take p.2.2) own) t) s1

/-- Write the result where every operand is here: elements, and for a sketch its status word (R412, R414). -/
def State.collPlace (s : State) (c slot : Nat) : State :=
  match s.job? c slot with
  | none => s
  | some j => match j.coll with
    | none => s
    | some k =>
      if j.st ≠ .running || j.made = 0 || k.placed || k.lacks.isSome then s
      else
        let a : JobAddr := .dev k.recvAt
        let n := k.outCount
        let fault := if n = 0 then none else match s.runFault c needW a (n * k.es) with
          | some f => some f
          | none => if k.sk? then match k.dst with
              | some d => s.runFault c needRW (.dev (d.addr.toNat + 16)) 8
              | none => none
            else none
        match fault with
        | some (cause, x) => s.jobMeets c slot cause x
        | none =>
          let r := (List.range n).map k.result
          let fl := r.foldl (fun f x => f ||| x.2) (0#7 : Flags)
          let bytes := r.flatMap fun x => (List.range k.es).map fun b => x.1 / 256 ^ b % 256
          let s1 := s.jobWrites c ((List.zip (List.range bytes.length) bytes).map fun b => (a.add b.1, b.2))
          let s2 := match k.sk?, k.dst with
            | true, some d => match s1.skKey c needRW d.addr.toNat with
              | .inr dk => s1.skStatusBy (s1.core c).launch (d.addr.toNat + 16) (dieOf c) dk (k.sk.toNat ||| (if fl &&& fSATF = 0#7 then 0 else 1))
              | .inl _ => s1
            | _, _ => s1
          s2.setJob c slot { j with fl := fl, coll := some { k with placed := true } }

/-- A packet belongs to this collective: its group, number and LAUNCHID (R404); a list group is known by the digest of its list
(log entry 66). -/
def Coll.meets (k : Coll) (lid : BitVec 32) (p : CollPkt) : Bool := collGroup lid k.hdr = collGroup p.launch p.hdr && k.num = p.num && k.ranks.contains p.src

/-- A collective in the task tables of some cores to which a packet belongs. -/
def collAmong (cores : List (Nat × Core)) (p : CollPkt) : Option (Nat × Nat × Job × Coll) :=
  cores.findSome? fun e => e.2.eng.jobs.findSome? fun (j : Nat × Job) =>
    match j.2.coll with
    | some k => if k.meets j.2.lid p then some (e.1, j.1, j.2, k) else none
    | none => none

/-- The job of a collective to which a packet belongs. -/
def State.collJob (s : State) (p : CollPkt) : Option (Nat × Nat × Job × Coll) := collAmong s.cores p

/-- The collective of a pre-empted victim to which a packet belongs. -/
def State.collVictim (s : State) (p : CollPkt) : Option (Nat × Nat × Job × Coll) := s.victims.findSome? fun v => collAmong v.2.cores p

/-- A packet meets the job of its collective: its elements are taken and acknowledged, or differing fields end the job, and the packets of
that collective are rejected from this one on (R405) (log entry 66). -/
def State.collTake (s : State) (c slot : Nat) (j : Job) (k : Coll) (p : CollPkt) : State :=
  if p.hdr.compared ≠ k.hdr.compared then
    let s1 := s.collFail c slot j 3 p.src.toNat cREMOTE
    ({ s1 with collBad := (collGroup j.lid k.hdr, k.num) :: s1.collBad } : State).rejectPkt p.k p.i p.psn none
  else
    let g := k.ranks.findIdx (· = p.src)
    let k1 := { k with data := k.data ++ [(g, p.off, p.elems)], sk := k.sk ||| p.sk }
    ((s.setJob c slot { j with coll := some k1 }).collPlace c slot).acceptPkt p.k p.i p.psn

/-- A started collective goes on: its traffic and its result. -/
def State.collPump (s : State) (c slot : Nat) : State := (s.collGo c slot).collPlace c slot

/-- A victim's collective goes on taking data where its buffers lie outside the scratchpad; what would end it waits for the restore
(R331, R412) (log entry 68). -/
def Job.victimTakes (j : Job) (k : Coll) (p : CollPkt) : Bool := j.st = .running && !j.local && decide (p.hdr.compared = k.hdr.compared)

/-- The number of a packet's collective is past in its group on this device. -/
def State.collPast (s : State) (p : CollPkt) : Bool :=
  s.groups.any fun g => g.1.take 4 = [p.launch.setWidth 64, p.hdr.g0, p.hdr.gBox, p.hdr.g2] && p.num < g.2 &&
    (!p.hdr.isList || p.hdr.digest = Config.digest ((g.1.drop 4).map BitVec.toNat))

/-- A packet of a collective at its target: dropped where the collective was refused; rejected after a mismatch or a cancel; taken by its
running job; acknowledged again where its collective has ended; and not ready while its job has yet to come or to start, is parked, or is a
victim's with a buffer in its scratchpad (R403 to R405, R412) (log entries 66 and 77). -/
def State.collArrive (s : State) (p : CollPkt) : State :=
  if s.collMute.contains (collGroup p.launch p.hdr, p.num) then s
  else if s.collBad.contains (collGroup p.launch p.hdr, p.num) then s.rejectPkt p.k p.i p.psn none
  else match s.collJob p with
  | some (c, slot, j, k) =>
    if j.st = .running then (s.collTake c slot j k p).collPump c slot else s.notReady p.k p.i p.psn
  | none => match s.collVictim p with
    | some (c, slot, j, k) =>
      if j.victimTakes k p then s.inVictim c fun t => t.collTake c slot j k p else s.notReady p.k p.i p.psn
    | none => if s.collPast p then s.acceptPkt p.k p.i p.psn else s.notReady p.k p.i p.psn

/-- COLLECTIVE_PACKET (R404, R405): what arrives on a target context, from the peer of that context. -/
def execCollectivePacket (p : CollPkt) (s : State) : Out :=
  .next (s.arrives p.k p.i p.src p.psn p.auth p.port fun x => s.collArrive { p with src := x.key.peer })

/-- Every packet sent to a peer has been acknowledged and retired (R394, R412). -/
def Coll.allAcked (k : Coll) : Bool := (k.peers.map fun h => (k.packetsTo h).length).sum ≤ k.acks

/-- COLLECTIVE_DONE (R412): the result is written and every packet acknowledged. -/
def execCollectiveDone (c slot : Nat) (s : State) : Out :=
  let s1 := s.collPump c slot
  match s1.job? c slot with
  | none => .next s1
  | some j => match j.coll with
    | none => .next s1
    | some k =>
      if j.st = .running && k.placed && k.allAcked then .next ((s1.collStatus c j 1 0 0 j.fl).endJob c slot 1 0#6)
      else .next s1

/-- COLLECTIVE_TIMEOUT (R412): EUNREACH, where data are missing (log entries 41 and 77). -/
def execCollectiveTimeout (c slot : Nat) (s : State) : Out :=
  match s.job? c slot with
  | none => .next s
  | some j => match j.coll with
    | none => .next s
    | some k =>
      match k.lacks with
      | none => .next s
      | some g =>
        if j.st = .running then .next (s.collFail c slot j 2 (k.ranks.getD g 0#12).toNat cTIMEOUT) else .next s

end Sys2Proof.Machine
end

