-- ==== Sys2Proof/Machine/Digest.lean ====
section
/-! DEFINITION. SHA-256, by which spec/15 R351 digests what a launch wrote; its definition is that of FIPS 180-4 (log entry 21). -/

namespace Sys2Proof.Machine

/-- The 64 round constants. -/
def shaK : List Half :=
  [0x428A2F98#32, 0x71374491#32, 0xB5C0FBCF#32, 0xE9B5DBA5#32, 0x3956C25B#32, 0x59F111F1#32, 0x923F82A4#32, 0xAB1C5ED5#32] ++
  [0xD807AA98#32, 0x12835B01#32, 0x243185BE#32, 0x550C7DC3#32, 0x72BE5D74#32, 0x80DEB1FE#32, 0x9BDC06A7#32, 0xC19BF174#32] ++
  [0xE49B69C1#32, 0xEFBE4786#32, 0x0FC19DC6#32, 0x240CA1CC#32, 0x2DE92C6F#32, 0x4A7484AA#32, 0x5CB0A9DC#32, 0x76F988DA#32] ++
  [0x983E5152#32, 0xA831C66D#32, 0xB00327C8#32, 0xBF597FC7#32, 0xC6E00BF3#32, 0xD5A79147#32, 0x06CA6351#32, 0x14292967#32] ++
  [0x27B70A85#32, 0x2E1B2138#32, 0x4D2C6DFC#32, 0x53380D13#32, 0x650A7354#32, 0x766A0ABB#32, 0x81C2C92E#32, 0x92722C85#32] ++
  [0xA2BFE8A1#32, 0xA81A664B#32, 0xC24B8B70#32, 0xC76C51A3#32, 0xD192E819#32, 0xD6990624#32, 0xF40E3585#32, 0x106AA070#32] ++
  [0x19A4C116#32, 0x1E376C08#32, 0x2748774C#32, 0x34B0BCB5#32, 0x391C0CB3#32, 0x4ED8AA4A#32, 0x5B9CCA4F#32, 0x682E6FF3#32] ++
  [0x748F82EE#32, 0x78A5636F#32, 0x84C87814#32, 0x8CC70208#32, 0x90BEFFFA#32, 0xA4506CEB#32, 0xBEF9A3F7#32, 0xC67178F2#32]

/-- The initial hash value. -/
def shaH : List Half :=
  [0x6A09E667#32, 0xBB67AE85#32, 0x3C6EF372#32, 0xA54FF53A#32, 0x510E527F#32, 0x9B05688C#32, 0x1F83D9AB#32, 0x5BE0CD19#32]

/-- The message schedule, latest word first, lengthened by `n` words. -/
def shaSched (r : List Half) : Nat → List Half
  | 0 => r
  | n + 1 =>
    let q := shaSched r n
    let w (i : Nat) := q.getD i 0#32
    let s0 := (w 14).rotateRight 7 ^^^ (w 14).rotateRight 18 ^^^ (w 14) >>> 3
    let s1 := (w 1).rotateRight 17 ^^^ (w 1).rotateRight 19 ^^^ (w 1) >>> 10
    (w 15 + s0 + w 6 + s1) :: q

/-- One round on the eight working variables. -/
def shaRound (h : List Half) (kw : Half) : List Half :=
  match h with
  | [a, b, c, d, e, f, g, x] =>
    let t1 := x + (e.rotateRight 6 ^^^ e.rotateRight 11 ^^^ e.rotateRight 25) + ((e &&& f) ^^^ (~~~e &&& g)) + kw
    let t2 := (a.rotateRight 2 ^^^ a.rotateRight 13 ^^^ a.rotateRight 22) + ((a &&& b) ^^^ (a &&& c) ^^^ (b &&& c))
    [t1 + t2, a, b, c, d + t1, e, f, g]
  | h => h

/-- One block of sixteen words. -/
def shaBlock (h blk : List Half) : List Half :=
  let ws := (shaSched blk.reverse 48).reverse
  List.zipWith (· + ·) h ((List.zipWith (· + ·) shaK ws).foldl shaRound h)

/-- Big-endian words of a list of bytes. -/
def shaWords : List Byte → List Half
  | a :: b :: c :: d :: r => (a ++ b ++ c ++ d) :: shaWords r
  | _ => []

/-- Padding: a one bit, zeros, and the length in bits. -/
def shaPad (m : List Byte) : List Byte :=
  let n := m.length
  m ++ 0x80#8 :: List.replicate ((119 - n % 64) % 64) 0#8 ++
    (List.range 8).map fun i => BitVec.ofNat 8 (8 * n / 256 ^ (7 - i))

/-- The blocks of a list of words, at most `n`. -/
def shaBlocks (ws : List Half) : Nat → List (List Half)
  | 0 => []
  | n + 1 => if ws.isEmpty then [] else ws.take 16 :: shaBlocks (ws.drop 16) n

/-- SHA-256 of a list of bytes: the 32 bytes of the digest (log entry 21). -/
def sha256 (m : List Byte) : List Byte :=
  let p := shaPad m
  ((shaBlocks (shaWords p) (p.length / 64)).foldl shaBlock shaH).flatMap fun (h : Half) =>
    [(h >>> 24).setWidth 8, (h >>> 16).setWidth 8, (h >>> 8).setWidth 8, h.setWidth 8]

end Sys2Proof.Machine
end

