-- ==== Sys2Proof/Machine/Launches.lean ====
section
/-! DEFINITION. The memory of the queue processor, the recording of queues (spec/15 R348 to R351), and the start and the
completion of launches (spec/07 R175, R176, R181, spec/20 R424, R425). -/

namespace Sys2Proof.Machine

/-! ## Accesses of the queue processor (R418) -/

def State.cmdq (s : State) (q : Nat) : CmdQ := (tabGet? s.queues q).getD CmdQ.reset
def State.setCmdq (s : State) (q : Nat) (x : CmdQ) : State := { s with queues := tabPut s.queues q x }

/-- What an address of a queue or packet meets: the page tables of die 0, without supervisor rights. -/
def State.qMeet (s : State) (n : Need) (a : Word) : Met :=
  match s.device 0 false none n false a with
  | .ok (.mem k) => .key k
  | .ok (.port l off) => .port l off
  | .ok _ => .fault cPROT a
  | .bad cause x => .fault cause x

/-- Read an aligned word of `n` bytes; none where it faults. -/
def State.qRead? (s : State) (a : Word) (n : Nat) : Option Nat :=
  match s.qMeet needR a with
  | .key k => some (s.rd k n)
  | .port l off => some (s.portRead l off n true)
  | .fault _ _ => none

/-- How a write of a packet goes: made, held back by a full ready queue (R188), or a fault. -/
inductive Wrote where
  | made (s : State)
  | held
  | fault
  deriving DecidableEq, Repr

/-- Write an aligned word of `n` bytes for a packet. -/
def State.qWrite (s : State) (a : Word) (n x : Nat) : Wrote :=
  match s.qMeet needW a with
  | .key k => .made (s.storeBy k n x)
  | .port l off => match s.portWrite? l off n true (BitVec.ofNat 64 x) with
    | some t => .made t
    | none => .held
  | .fault _ _ => .fault

/-- Write an aligned doubleword of memory; none where it faults. -/
def State.qPut? (s : State) (a : Word) (x : Nat) : Option State :=
  match s.qMeet needW a with
  | .key k => some (s.store k 8 x)
  | _ => none

/-- The address of field `off` of queue entry `q` (R418). -/
def State.qField (s : State) (q off : Nat) : Word := BitVec.ofNat 64 (s.root.qtbase + 64 * q + off)

/-- A doubleword of a queue entry; an entry that does not translate reads zero, so that its queue is not served (log entry 80). -/
def State.qEnt (s : State) (q off : Nat) : Word := BitVec.ofNat 64 ((s.qRead? (s.qField q off) 8).getD 0)

def State.qEntPut (s : State) (q off : Nat) (x : Nat) : State := (s.qPut? (s.qField q off) x).getD s

/-! ## Recording (R348 to R350, R430) -/

/-- How the recording of an entry goes. -/
inductive Logged where
  | ok (s : State)
  | full
  | fault
  deriving DecidableEq, Repr

/-- The address of a field of the recording block of a queue. -/
def State.recField (s : State) (q off : Nat) : Word := BitVec.ofNat 64 (fld (s.qEnt q 0x28) 6 46 * 64 + off)

/-- The fields of the recording block: LOGBASE, LOGSIZE, LOGHEAD, LOGTAIL and the flags at 0x20. -/
structure RecBlock where
  base  : Nat
  size  : Nat
  head  : Nat
  tail  : Nat
  flags : Nat
  deriving DecidableEq, Repr

def State.recBlock? (s : State) (q : Nat) : Option RecBlock := do
  let b ← s.qRead? (s.recField q 0) 8
  let z ← s.qRead? (s.recField q 8) 8
  let h ← s.qRead? (s.recField q 0x10) 8
  let t ← s.qRead? (s.recField q 0x18) 8
  let f ← s.qRead? (s.recField q 0x20) 8
  return { base := b % 2 ^ 52, size := z % 2 ^ 32, head := h, tail := t, flags := f }

/-- `n` doublewords fit (R350). -/
def RecBlock.room (b : RecBlock) (n : Nat) : Bool := (b.tail + 8 * n + 2 ^ 64 - b.head) % 2 ^ 64 ≤ b.size

/-- Write an entry at LOGTAIL, wrapping, and advance LOGTAIL. -/
def State.logWrite (s : State) (q : Nat) (b : RecBlock) (ws : List Word) : Option State := do
  let s1 ← (List.range ws.length).foldlM (fun (a : State) i =>
    a.qPut? (BitVec.ofNat 64 (b.base + (b.tail + 8 * i) % b.size)) (ws.getD i 0#64).toNat) s
  s1.qPut? (s.recField q 0x18) ((b.tail + 8 * ws.length) % 2 ^ 64)

/-- The header doubleword of an entry (R349). -/
def logHead (type len : Nat) (seq : BitVec 32) : Word := BitVec.ofNat 64 (type * 2 ^ 56 + len * 2 ^ 32 + seq.toNat)

/-- The TYPE 3 entry that a break still owes, written once there is room (R350). -/
def State.logGap (s : State) (q : Nat) : Option State :=
  let x := s.cmdq q
  if !x.gap then some s
  else do
    let b ← s.recBlock? q
    if b.room 1 then
      let t ← s.logWrite q b [logHead 3 1 x.seq]
      return t.setCmdq q { t.cmdq q with gap := false }
    else return s

/-- Whether the queue records: REC of its entry and EN of its block. -/
def State.recording (s : State) (q : Nat) : Bool := (s.qEnt q 8).getLsbD 61

/-- Record an entry (R350): written where it fits; else MARK drops it and breaks the log, and STALL holds it. A TYPE 2 entry
counts a kernel (log entry 82). -/
def State.logEntry (s : State) (q : Nat) (kernel : Bool) (ws : List Word) : Logged :=
  if !s.recording q then .ok s
  else match s.logGap q with
  | none => .fault
  | some s =>
    match s.recBlock? q with
    | none => .fault
    | some b =>
      let x := s.cmdq q
      if !b.flags.testBit 0 || b.flags.testBit 8 then .ok s
      else if b.room ws.length && !x.gap then
        match s.logWrite q b ws with
        | none => .fault
        | some t => .ok (if kernel then t.setCmdq q { t.cmdq q with kern := x.kern + 1#32 } else t)
      else if b.flags.testBit 1 then .full
      else
        match s.qPut? (s.recField q 0x20) (b.flags ||| 2 ^ 8) with
        | none => .fault
        | some t =>
          match t.qRead? (t.recField q 0x28) 8 with
          | none => .fault
          | some k => match t.qPut? (t.recField q 0x28) (k / 2 ^ 32 * 2 ^ 32 + x.kern.toNat) with
            | none => .fault
            | some u => .ok (u.setCmdq q { u.cmdq q with gap := true })

/-- The completion entries that STALL holds back are written in order while there is room; a fault counts as met by background
work (log entry 82). -/
def State.logFlush (s : State) (q : Nat) : Nat → State
  | 0 => s
  | n + 1 =>
    let s := (s.logGap q).getD s
    match (s.cmdq q).owed with
    | [] => s
    | e :: rest =>
      match s.logEntry q true e with
      | .ok t => (t.setCmdq q { t.cmdq q with owed := rest }).logFlush q n
      | .full => s
      | .fault => s.setCmdq q { s.cmdq q with owed := rest }

/-! ## The start of a launch (R175, R176, R181) -/

/-- The launch that the eight doublewords of a start vector describe, before its allotments are known (log entry 95). -/
def Launch.ofVector (ws : List Word) (sup pre : Bool) (cw : Word) : Launch :=
  let w (n : Nat) := ws.getD n 0#64
  { row := fld (w 0) 4 3, col := fld (w 0) 0 4, height := fld (w 0) 13 3, width := fld (w 0) 8 5,
    priv := (w 0).getLsbD 16, id := (w 1).setWidth 32, root := (w 2).setWidth 52, regions := fld (w 3) 0 16,
    segTab := (w 4).setWidth 52, entries := (w 5).setWidth 52, wake := (w 6).setWidth 52, sup := sup, pre := pre,
    spm := 0#64, reg := 0#9, acc := 0#32, done := cw, dirty := [] }

/-- A breach of the start vector's own rules (ESTART). -/
def startBad (ws : List Word) : Bool :=
  let w (n : Nat) := ws.getD n 0#64
  fld (w 0) 17 47 ≠ 0 || (w 0).getLsbD 7 || fld (w 1) 32 32 ≠ 0 || fld (w 2) 52 12 ≠ 0 || fld (w 3) 16 48 ≠ 0 ||
    fld (w 4) 52 12 ≠ 0 || fld (w 5) 52 12 ≠ 0 || fld (w 6) 52 12 ≠ 0 || w 7 ≠ 0#64 || fld (w 2) 0 8 ≠ 0 ||
    fld (w 4) 0 6 ≠ 0 || fld (w 5) 0 6 ≠ 0 || fld (w 6) 0 12 ≠ 0

/-- The rectangle lies in the grid. -/
def Launch.inGrid (l : Launch) : Bool :=
  1 ≤ l.height && l.height ≤ 6 && 1 ≤ l.width && l.width ≤ 16 && l.row + l.height ≤ 6 && l.col + l.width ≤ 16

/-- A dome of the rectangle is held by a running launch. -/
def State.overlaps (s : State) (l : Launch) : Bool := s.launches.any fun m => l.domes.any m.2.holds

/-- The check that refuses a launch (Table 20-3), in the order of R176; none where it may start. The routing tables of a
rectangle fail where the device holds them so for one of its domes (log entry 80). -/
def State.launchBad (s : State) (ws : List Word) (l : Launch) : Option Nat :=
  if startBad ws then some 38
  else if !l.inGrid then some 32
  else if l.domes.any (fun d => !s.domeMask.getLsbD d) then some 33
  else if !l.pre && s.overlaps l then some 34
  else if (s.region? 0 l 0).isNone then some 35
  else if l.domes.any s.root.badRoutes.contains then some 36
  else none

/-- The number of records a launch takes, and the initial record of its `n`th dome (R176). -/
def Launch.records (l : Launch) : Nat := l.height * l.width * (if l.priv then 16 else 1)
def Launch.initial (l : Launch) (n : Nat) : BitVec 52 := l.entries + BitVec.ofNat 52 (64 * (if l.priv then 16 * n else n))

/-- The launch starts: allotments reserved and cleared, LIVE set, and each dome's initial records set out for it. On a dome that
another launch occupies the banks are cleared as the record starts there (R425). The number of the launch is `nextLaunch` before (log entry 84). -/
def State.startLaunch (s : State) (l : Launch) : State :=
  match s.region? 0 l 0 with
  | none => s
  | some g =>
    let li := s.nextLaunch
    let busy := l.domes.filter fun d => (s.dome d).run ≠ .idle
    let m := { l with spm := g.spm, reg := g.reg, acc := g.acc, dirty := busy }
    let s1 := (l.domes.filter fun d => !busy.contains d).foldl (fun (a : State) d => a.clearBanks d m) s
    let s2 := s1.devPut 0 (l.rcb 0 + 0x58) 4 l.records
    let s3 := { s2 with launches := tabPut s2.launches li m, nextLaunch := li + 1 }
    (List.range l.domes.length).foldl (fun (a : State) n =>
      let d := l.domes.getD n 0
      a.setDome d { a.dome d with pending := (a.dome d).pending ++ [(li, l.initial n)] }) s3

/-! ## The completion of a launch (R181, R351, R424) -/

/-- The bytes of a page of a launch as it stands, by its number (log entry 85). -/
def State.pageBytes (s : State) (n : Nat) : List Byte :=
  match s.devKey? 0 true needR (4096 * n) with
  | some k => (List.range 4096).map fun i => BitVec.ofNat 8 (s.rd (k + i) 1)
  | none => List.replicate 4096 0#8

/-- Insertion of a number into a rising list. -/
def insertUp (x : Nat) : List Nat → List Nat
  | [] => [x]
  | y :: r => if x ≤ y then x :: y :: r else y :: insertUp x r

/-- The digest of what a launch wrote (log entry 85). -/
def State.digestOf (s : State) (l : Nat) : List Byte :=
  sha256 ((((tabGet? s.pages l).getD []).foldr insertUp []).flatMap fun n =>
    (List.range 8).map (fun i => BitVec.ofNat 8 (4096 * n / 256 ^ i)) ++ s.pageBytes n)

/-- Bytes as little-endian doublewords. -/
def leWords : List Byte → Nat → List Word
  | _, 0 => []
  | bs, n + 1 => BitVec.ofNat 64 (leNat (bs.take 8)) :: leWords (bs.drop 8) n

/-- The TYPE 2 entry of a log with a LAUNCHID: its number among the TYPE 2 entries and its digest. The log ends at a doubleword
that heads no entry (log entry 85). -/
def State.refEntry (s : State) (a : Nat) (id : Word) (kern : Nat) : Nat → Option (Nat × List Word)
  | 0 => none
  | n + 1 =>
    match s.qRead? (BitVec.ofNat 64 a) 8 with
    | none => none
    | some h =>
      let type := h / 2 ^ 56
      let len := h / 2 ^ 32 % 2 ^ 16
      if type = 0 || 3 < type || len = 0 then none
      else if type = 2 && s.qRead? (BitVec.ofNat 64 (a + 8)) 8 = some id.toNat then
        some (kern + 1, (List.range 4).map fun i => BitVec.ofNat 64 ((s.qRead? (BitVec.ofNat 64 (a + 16 + 8 * i)) 8).getD 0))
      else s.refEntry (a + 8 * len) id (if type = 2 then kern + 1 else kern) n

/-- Replay (R351): the first difference from the recorded run sets MISMATCH and FIRSTBAD (log entry 85). -/
def State.replayCheck (s : State) (q : Nat) (id : Word) (dig : List Word) : State :=
  match s.recording q, s.recBlock? q, s.qRead? (s.recField q 0x30) 8, s.qRead? (s.recField q 0x28) 8 with
  | true, some b, some ref, some k =>
    if !b.flags.testBit 2 || b.flags.testBit 9 then s
    else match s.refEntry (ref % 2 ^ 52) id 0 (2 ^ 20) with
    | some (n, d) =>
      if d = dig then s
      else ((s.qPut? (s.recField q 0x20) (b.flags ||| 2 ^ 9)).bind fun t =>
        t.qPut? (t.recField q 0x28) (n % 2 ^ 32 * 2 ^ 32 + k % 2 ^ 32)).getD s
    | none => s
  | _, _, _, _ => s

/-- The completion entry of a launch in the log of its queue, and the comparison of a replay. -/
def State.logLaunch (s : State) (q : Nat) (l : Nat) (id : BitVec 32) (seq : BitVec 32) (pkt : Word) : State :=
  if !s.recording q then s
  else
    let dig := leWords (s.digestOf l) 4
    let e := logHead 2 6 seq :: id.setWidth 64 :: dig
    let s1 := s.replayCheck q (id.setWidth 64) dig
    let x := s1.cmdq q
    let hold := s1.setCmdq q { x with owed := x.owed ++ [e] }
    if !x.owed.isEmpty then hold
    else match s1.logEntry q true e with
    | .ok t => t
    | .full => hold
    | .fault => s1.setCmdq q { x with bad := some pkt }

/-- The queue that started a launch, with the SEQ and the address of its LAUNCH. -/
def State.queueOf (s : State) (l : Nat) : Option (Nat × BitVec 32 × Word) :=
  s.queues.findSome? fun e => e.2.back.findSome? fun b => match b with
    | .launch m seq pkt => if m = l then some (e.1, seq, pkt) else none
    | _ => none

/-- The completion word of a launch (Table 20-3); none where its address faults (log entry 80). -/
def State.launchWord (s : State) (cw : Word) (id : BitVec 32) (code : Nat) : Wrote :=
  if cw = 0#64 then .made s else s.qWrite cw 8 (id.toNat * 2 ^ 32 + code)

/-- The XARM jobs of a launch on a core end with CODE 2 as the launch ends (R374) (log entry 84). -/
def State.dropArmed (s : State) (c : Nat) (id : BitVec 32) : State :=
  ((s.eng c).jobs.filter fun j => j.2.kind = .xarm && j.2.lid = id).foldl (fun (a : State) j => a.cancelJob c j.1) s

/-- What the routers of a die hold for a launch goes as it ends (R260): its partials, and the reductions that were found mismatched or
had ended, whose root stands in its rectangle. -/
def State.dropPartials (s : State) (die li : Nat) (l : Launch) : State :=
  let d := s.die die
  let gone (k : RedKey) : Bool := l.holds (domeKey (routerCore die k.rrow k.rcol))
  s.setDie die { d with partials := d.partials.filter fun p => p.launch ≠ some li, badRed := d.badRed.filter fun k => !gone k,
                        deadRed := d.deadRed.filter fun k => !gone k }

/-- A launch whose LIVE has reached zero completes (log entries 80 and 84). -/
def State.launchDone (s : State) (l : Nat) : State :=
  match s.launch? (some l) with
  | none => s
  | some x =>
    if s.dev 0 (x.rcb 0 + 0x58) 4 ≠ 0 then s
    else
      let s1 := (List.range 8).foldl (fun (a : State) d => if x.onDie d then a.release d else a) s
      let s2 := x.domes.foldl (fun (a : State) d => (domeCores d).foldl (fun a c => a.dropArmed c x.id) a) s1
      let s3 := (List.range 8).foldl (fun (a : State) d => if x.onDie d then a.dropPartials d l x else a) (s2.closeWindows l x.id)
      let qs := s3.queueOf l
      let s4 := match qs with
        | some (q, seq, pkt) => s3.logLaunch q l x.id seq pkt
        | none => s3
      let s5 := match s4.launchWord x.done x.id 1, qs with
        | .made t, _ => t
        | _, some (q, _, pkt) => s4.setCmdq q { s4.cmdq q with bad := some pkt }
        | _, none => s4
      let s6 := { s5 with launches := tabDel s5.launches l, pages := tabDel s5.pages l }
      match qs with
      | some (q, seq, pkt) =>
        let y := s6.cmdq q
        s6.setCmdq q { y with back := y.back.filter (· ≠ .launch l seq pkt) }
      | none => s6

/-- LAUNCH_COMPLETE. -/
def execLaunchComplete (l : Nat) (s : State) : Out := .next (s.launchDone l)

end Sys2Proof.Machine
end

