-- ==== Sys2Proof/Machine/Queue.lean ====
section
/-! DEFINITION. The command queues (spec/20 R417 to R430): the packets, whose meanings act on the queue `qturn` of the state, and the
slots of the queue processor. -/

namespace Sys2Proof.Machine

/-! ## Streams (R419, R426, R427) -/

/-- The address of a byte of a stream; the ring wraps. -/
def Stream.addr (st : Stream) (ring : Bool) (pos : Nat) : Word :=
  BitVec.ofNat 64 (st.base + if ring then pos % st.size else pos)

/-- The stream past a packet of `len` bytes: a body's packets pass once, on the first pass. -/
def Stream.step (st : Stream) (len : Nat) : Stream :=
  match st.body with
  | none => { st with pos := st.pos + len }
  | some b => { st with pos := if b.first then st.pos + len else st.pos, body := some { b with ix := b.ix + 1 } }

/-- Write HEAD where it has moved. -/
def State.setHead (s : State) (q h : Nat) : State :=
  let x := s.cmdq q
  if x.head = h then s else (s.setCmdq q { x with head := h }).qEntPut q 0x18 (h % 2 ^ 64)

/-- HEAD follows the ring while the ring is the innermost stream: it passes an IB on the return from it (R426). -/
def State.followHead (s : State) (q : Nat) : State :=
  match (s.cmdq q).strs with
  | [r] => s.setHead q r.pos
  | _ => s

/-- Replace the innermost stream. -/
def State.setTop (s : State) (q : Nat) (f : Stream → Stream) : State :=
  let x := s.cmdq q
  match x.strs with
  | [] => s
  | st :: up => s.setCmdq q { x with strs := f st :: up }

/-- A doubleword of a stream: as it was read ahead, or as it stands (log entry 40). -/
def State.qWord? (s : State) (st : Stream) (ring : Bool) (pos : Nat) : Option Word :=
  match tabGet? st.buf pos with
  | some w => some w
  | none => (s.qRead? (st.addr ring pos) 8).map (BitVec.ofNat 64)

/-- The fetch buffer of a stream as a packet at `pos` starts: what lies behind leaves it, and, with `eager` clear, the bytes up to
256 further are read (R429) (log entry 40). -/
def State.readAhead (s : State) (st : Stream) (ring : Bool) (limit : Nat) : Stream :=
  let old := st.buf.filter fun e => st.pos ≤ e.1
  if s.eager then { st with buf := old }
  else
    { st with buf := (List.range (min 256 limit / 8)).foldl (fun b i =>
        let p := st.pos + 8 * i
        match tabGet? b p, s.qRead? (st.addr ring p) 8 with
        | none, some w => tabPut b p (BitVec.ofNat 64 w)
        | _, _ => b) old }

/-! ## The state of a queue (Table 20-1) -/

/-- Write STATE, and CODE where one is given; REL as given. -/
def State.qStatus (s : State) (q : Nat) (st : BitVec 2) (code : Option Nat) (rel : Bool) : State :=
  s.qEntPut q 0x20 (st.toNat * 2 ^ 62 + (if rel then 2 ^ 61 else 0) + code.getD (fld (s.qEnt q 0x20) 0 8))

/-- A queue stops with a code, and with the address of the packet that stopped it where one did (R424). -/
def State.qStop (s : State) (q code : Nat) (pkt : Option Word) : State :=
  let s1 := (s.setCmdq q { s.cmdq q with st := 2#2, strs := [], hand := none }).qStatus q 2#2 (some code)
    ((s.qEnt q 0x20).getLsbD 61)
  match pkt with
  | none => s1
  | some a => s1.qEntPut q 0x30 (a.toNat % 2 ^ 52)

/-- EN has changed to 1: LOGSIZE and BASE are checked, HEAD and the buffers cleared, and the queue runs (R419) (log entry 81). -/
def State.queueOn (s : State) (q : Nat) : State :=
  let x := s.cmdq q
  if x.on || !(s.qEnt q 8).getLsbD 63 then s
  else
    let size := fld (s.qEnt q 8) 0 5
    let base := fld (s.qEnt q 0) 0 52
    let y : CmdQ := { CmdQ.reset with on := true, back := x.back, kern := x.kern, gap := x.gap, owed := x.owed }
    if size < 8 || 20 < size || base % 2 ^ size ≠ 0 then (s.setCmdq q y).qStop q 70 none
    else
      let r : Stream := { base := base, size := 2 ^ size, pos := 0, buf := [], body := none, skip := 0 }
      ((s.setCmdq q { y with st := 1#2, strs := [r] }).qEntPut q 0x18 0).qStatus q 1#2 none ((s.qEnt q 0x20).getLsbD 61)

/-- A 1 in REL is taken: a held queue runs on; on any other it does nothing (Table 20-1). -/
def State.queueRel (s : State) (q : Nat) : State :=
  let x := s.cmdq q
  if !(s.qEnt q 0x20).getLsbD 61 then s
  else
    let st := if x.st = 3#2 then 1#2 else x.st
    (s.setCmdq q { x with st := st }).qStatus q st none false

/-- The queue processor serves no queue before stage 3 ends (R432). -/
def State.served (s : State) (q : Nat) : Bool := s.root.released && q < 64

def execQueueEnable (q : Nat) (s : State) : Out := .next (if s.served q then s.queueOn q else s)
def execQueueRelease (q : Nat) (s : State) : Out :=
  .next (if s.served q && (s.cmdq q).on && (s.qEnt q 8).getLsbD 63 then s.queueRel q else s)

/-! ## The start and the end of a packet -/

/-- How a packet goes: it is done, it waits, or it stops its queue with a code. -/
inductive PktRes where
  | done (s : State)
  | wait (s : State)
  | stop (code : Nat)
  deriving DecidableEq, Repr

/-- The packet of queue `q` in hand starts: it is recorded, the stream moves past it, and HEAD with it. A packet that STALL holds
back waits in hand (log entry 82). -/
def State.pktStart (s : State) (q : Nat) (h : InHand) (record ib : Bool) : PktRes :=
  let x := s.cmdq q
  let e := logHead 1 (1 + h.ws.length) x.seq :: h.ws
  match if record then s.logEntry q false e else .ok s with
  | .fault => .stop 68
  | .full => .wait (s.setCmdq q { x with hand := some { h with phase := .logWait } })
  | .ok t =>
    let y := t.cmdq q
    let t1 := t.setCmdq q { y with hand := some { h with phase := .started }, seq := if record then y.seq + 1#32 else y.seq }
    let t2 := t1.setTop q fun st => st.step (8 * h.ws.length)
    .done (if ib then t2 else t2.followHead q)

/-- A packet of the queue whose slot it is: with SYNC it starts only when no LAUNCH or COPY of the queue is incomplete (R422);
`eff` is its effect (log entry 81). -/
def State.pkt (s : State) (sync record ib : Bool) (eff : Nat → State → PktRes) : State :=
  let q := s.qturn
  let x := s.cmdq q
  if sync && !x.back.isEmpty then s
  else
    let pc := x.hand.map InHand.addr
    let begun : PktRes := match x.hand with
      | none => .done s
      | some h => if h.phase = .started then .done s else s.pktStart q h record ib
    match begun with
    | .stop code => s.qStop q code pc
    | .wait t => t
    | .done t =>
      match eff q t with
      | .done u => u.setCmdq q { u.cmdq q with hand := none }
      | .wait u => u
      | .stop code => t.qStop q code pc

/-- The address of the packet in hand. -/
def State.pktPc (s : State) (q : Nat) : Word := ((s.cmdq q).hand.map InHand.addr).getD 0#64

/-- A store of a packet: a full ready queue holds it back, a fault stops the queue. -/
def wrote (w : Wrote) (s : State) : PktRes :=
  match w with
  | .made t => .done t
  | .held => .wait s
  | .fault => .stop 68

/-! ## Packets (Table 20-2, R423) -/

def execPktNop (sync : Bool) (_ : BitVec 8) (_ : BitVec 32) (s : State) : Out := .next (s.pkt sync true false fun _ s => .done s)

def State.pktWrite32 (s : State) (sync : Bool) (v : BitVec 32) (a : Word) : State :=
  s.pkt sync true false fun _ s => wrote (s.qWrite a 4 v.toNat) s

def execWrite32 (sync : Bool) (v : BitVec 32) (a : Word) (s : State) : Out := .next (s.pktWrite32 sync v a)

def State.pktWrite64 (s : State) (sync : Bool) (a v : Word) : State :=
  s.pkt sync true false fun _ s => wrote (s.qWrite a 8 v.toNat) s

def execWrite64 (sync : Bool) (a v : Word) (s : State) : Out := .next (s.pktWrite64 sync a v)

/-- What a byte of a SIGNAL meets; a window address is a supervisor access (R418). -/
def State.signalMeet (s : State) (a : Word) : Met :=
  if a.toNat < 2 ^ 52 && inWindow a.toNat then
    match s.device 0 true none needW false a with
    | .ok (.mem k) => .key k
    | _ => .fault cPROT a
  else s.qMeet needW a

/-- The 64-bit write of a SIGNAL at any address: one that is not aligned is made byte by byte, and counted once where it reaches a port area
(R183, R423). -/
def State.signalWrite (s : State) (a v : Word) : Wrote :=
  let ms := (List.range 8).map fun i => s.signalMeet (a + BitVec.ofNat 64 i)
  match decide (a.toNat % 8 = 0), s.signalMeet a with
  | true, .port _ _ => s.qWrite a 8 v.toNat
  | true, .key k => .made (s.storeBy k 8 v.toNat)
  | _, _ =>
    if ms.any fun m => match m with | .fault _ _ => true | _ => false then .fault
    else
      let s1 := (List.range 8).foldl (fun (t : State) i => match ms.getD i (.fault cPROT a) with
        | .key k => t.storeBy k 1 (v.toNat / 256 ^ i % 256)
        | _ => t) s
      .made (match (ms.findSome? fun m => match m with | .port l _ => s.launch? (some l) | _ => none) with
        | some l => s1.dropAt 0 l.root.toNat
        | none => s1)

/-- A SIGNAL of a value. -/
def State.pktSignal (s : State) (sync : Bool) (a v : Word) : State :=
  s.pkt sync true false fun _ s => wrote (s.signalWrite a v) s

def execSignal (sync : Bool) (a v : Word) (s : State) : Out := .next (s.pktSignal sync a v)

/-- A SIGNAL of a weight to a phaser named by a window address (log entry 96). -/
def State.pktSignalPhaser (s : State) (sync : Bool) (a v : Word) : State :=
  s.pkt sync true false fun _ s =>
    if a.toNat % 16 ≠ 0 || 2 ^ 52 ≤ a.toNat || !inWindow a.toNat then .stop 68
    else match s.device 0 true none needRW false a with
    | .ok (.mem k) => .done (s.signal k (fld v 0 48))
    | _ => .stop 68

def execSignalPhaser (sync : Bool) (a v : Word) (s : State) : Out := .next (s.pktSignalPhaser sync a v)

/-! ### COPY -/

/-- A byte of a COPY lies in both ranges, at its source or at its destination (R423). -/
def copyTangled (src dst len i : Nat) : Bool :=
  src ≤ dst + i && dst + i < src + len || dst ≤ src + i && src + i < dst + len

/-- The last `n` of the `len` bytes of a COPY, lowest first; true where a byte faults. A port area counts once for the whole COPY, those
of `ports` having counted (log entries 7 and 83). -/
def State.copyRun (s : State) (src dst : Word) (len : Nat) (ports : List Nat) : Nat → State × Bool
  | 0 => (s, false)
  | n + 1 =>
    let i := len - (n + 1)
    match s.qMeet needR (src + BitVec.ofNat 64 i) with
    | .fault _ _ => (s, true)
    | m =>
      let b := match m with | .key k => s.rd k 1 | _ => 0
      let free := copyTangled src.toNat dst.toNat len i
      let x := if free then (Config.freeByte s.freeCtr).toNat else b
      let s1 : State := if free then { s with freeCtr := s.freeCtr + 1 } else s
      match s1.qMeet needW (dst + BitVec.ofNat 64 i) with
      | .fault _ _ => (s1, true)
      | .key k => (s1.storeBy k 1 x).copyRun src dst len ports n
      | .port l _ => (match ports.contains l, s1.launch? (some l) with
          | false, some y => s1.dropAt 0 y.root.toNat
          | _, _ => s1).copyRun src dst len (l :: ports) n

def State.pktCopy (s : State) (sync : Bool) (src dst : Word) (len : BitVec 33) : State :=
  s.pkt sync true false fun q s =>
    let x := s.cmdq q
    .done (s.setCmdq q { x with back := x.back ++ [.copy src dst len.toNat (s.pktPc q)] })

def execPktCopy (sync : Bool) (src dst : Word) (len : BitVec 33) (s : State) : Out := .next (s.pktCopy sync src dst len)

/-- The `i`th piece of background work of a queue, where it is a COPY, is done; a fault stops the queue before its next packet
(R423). -/
def State.copyDone (s : State) (q i : Nat) : State :=
  match (s.cmdq q).back[i]? with
  | some (.copy src dst len pkt) =>
    let r := s.copyRun src dst len [] len
    let x := r.1.cmdq q
    r.1.setCmdq q { x with back := x.back.eraseIdx i, bad := if r.2 then some pkt else x.bad }
  | _ => s

def execPktCopyDone (q i : Nat) (s : State) : Out := .next (s.copyDone q i)

/-- Every COPY of a queue is done, oldest first. -/
def State.drainCopies (s : State) (q : Nat) : Nat → State
  | 0 => s
  | n + 1 =>
    match (s.cmdq q).back.findIdx? fun b => match b with | .copy _ _ _ _ => true | _ => false with
    | none => s
    | some i => (s.copyDone q i).drainCopies q n

/-! ### WAITMEM (R428) -/

/-- The condition of a WAITMEM on the word read. -/
def WaitPkt.holds (p : WaitPkt) (word : Nat) : Bool :=
  let w := if p.w64 then 64 else 32
  let x := (word &&& p.mask.toNat) % 2 ^ w
  let y := (p.v.toNat &&& p.mask.toNat) % 2 ^ w
  match p.cond.toNat with
  | 0 => x = y | 1 => x ≠ y | 2 => x < y | 3 => y ≤ x | 4 => toInt w x < toInt w y | _ => toInt w y ≤ toInt w x

def State.pktWaitmem (s : State) (sync : Bool) (p : WaitPkt) : State :=
  s.pkt sync true false fun _ s =>
    if 6 ≤ p.cond.toNat then .stop 64
    else match s.qRead? p.a (if p.w64 then 8 else 4) with
    | none => .stop 68
    | some x => if WaitPkt.holds p x then .done s else .wait s

def execWaitmem (sync : Bool) (p : WaitPkt) (s : State) : Out := .next (s.pktWaitmem sync p)

/-- A WAITMEM with SKIP: a false condition skips the next `k` packets; a skip past the end of a body stops the queue (R427). -/
def State.pktWaitmemSkip (s : State) (sync : Bool) (k : BitVec 8) (p : WaitPkt) : State :=
  s.pkt sync true false fun q s =>
    if 6 ≤ p.cond.toNat then .stop 64
    else match s.qRead? p.a (if p.w64 then 8 else 4) with
    | none => .stop 68
    | some x =>
      if WaitPkt.holds p x then .done s
      else
        let long : Bool := match (s.cmdq q).strs with
          | st :: _ => match st.body with
            | some b => decide (b.pkts.length < b.ix + k.toNat)
            | none => false
          | [] => false
        if long then .stop 66 else .done (s.setTop q fun st => { st with skip := k.toNat })

def execWaitmemSkip (sync : Bool) (k : BitVec 8) (p : WaitPkt) (s : State) : Out := .next (s.pktWaitmemSkip sync k p)

/-- WAITMEM_TIMEOUT: the timeout of the WAITMEM that a queue waits in, where it has one, has passed. -/
def State.waitmemTimeout (s : State) (q : Nat) : State :=
  match (s.cmdq q).hand with
  | some h =>
    let w0 := h.ws.getD 0 0#64
    if h.phase = .started && fld w0 0 8 = 5 && !w0.getLsbD 21 && fld (h.ws.getD 4 0#64) 0 48 ≠ 0 then
      s.qStop q 67 (some h.addr)
    else s
  | none => s

def execWaitmemTimeout (q : Nat) (s : State) : Out := .next (s.waitmemTimeout q)

/-! ### IB, LOOP, FFENCE, REPLAYMARK -/

def State.pktIb (s : State) (sync : Bool) (a len : Word) : State :=
  s.pkt sync false true fun q s =>
    let x := s.cmdq q
    if 3 ≤ x.strs.length then .stop 65
    else if x.strs.isEmpty then .done s
    else
      .done (s.setCmdq q { x with strs := { base := a.toNat, size := len.toNat, pos := 0, buf := [], body := none, skip := 0 } ::
        x.strs })

def execIb (sync : Bool) (a len : Word) (s : State) : Out := .next (s.pktIb sync a len)

/-- The body of a LOOP as it is read: its packets, bytes still to come, or the code and the address that stop the queue. -/
inductive Captured where
  | ok (pkts : List (Word × List Word))
  | later
  | stop (code : Nat) (pkt : Word)
  deriving DecidableEq, Repr

/-- Read `n` packets of a body from byte `pos` on; the body starts at `start`, the LOOP at `pc` (R427). -/
def State.capture (s : State) (st : Stream) (ring : Bool) (limit start : Nat) (pc : Word) : Nat → Nat → Captured
  | 0, _ => .ok []
  | n + 1, pos =>
    if start + 256 < pos + 8 * (n + 1) then .stop 66 pc
    else if limit < pos + 8 then (if ring then .later else .stop 66 pc)
    else match s.qWord? st ring pos with
    | none => .stop 68 pc
    | some w0 =>
      let len := 8 * fld w0 8 8
      let type := fld w0 0 8
      if len = 0 then .stop 64 (st.addr ring pos)
      else if type = 7 || type = 8 || type = 10 || start + 256 < pos + len + 8 * n then .stop 66 pc
      else if limit < pos + len then (if ring then .later else .stop 66 pc)
      else match (List.range (len / 8)).mapM fun i => s.qWord? st ring (pos + 8 * i) with
      | none => .stop 68 pc
      | some ws => match s.capture st ring limit start pc n (pos + len) with
        | .ok r => .ok ((st.addr ring pos, ws) :: r)
        | x => x

def State.pktLoop (s : State) (sync : Bool) (n : BitVec 8) (count : BitVec 16) : State :=
  let q := s.qturn
  let x := s.cmdq q
  match x.strs with
  | [] => s.pkt sync false false fun _ s => .done s
  | st :: up =>
    let ring := up.isEmpty
    let start := st.pos + 8
    match s.capture st ring (if ring then x.tail else st.size) start (s.pktPc q) n.toNat start with
    | .later => s
    | .stop code a => if sync && !x.back.isEmpty then s else s.qStop q code (some a)
    | .ok pkts =>
      s.pkt sync false false fun q s => .done (s.setTop q fun st =>
        { st with body := some { pkts := pkts, ix := 0, left := count.toNat, first := true } })

def execPktLoop (sync : Bool) (n : BitVec 8) (count : BitVec 16) (s : State) : Out := .next (s.pktLoop sync n count)

def State.pktFfence (s : State) (sync : Bool) : State :=
  s.pkt sync true false fun q s => .done (s.setTop q fun st => { st with buf := [] })

def execFfence (sync : Bool) (s : State) : Out := .next (s.pktFfence sync)

/-- A REPLAYMARK waits as SYNC does and writes MARK; with HOLD the queue is held. -/
def State.pktMark (s : State) (mark : BitVec 32) (hold : Bool) : State :=
  s.pkt true true false fun q s =>
    let s1 := s.qEntPut q 0x38 mark.toNat
    .done (if hold then
      (s1.setCmdq q { s1.cmdq q with st := 3#2 }).qStatus q 3#2 none ((s1.qEnt q 0x20).getLsbD 61) else s1)

def execReplaymark (_ : Bool) (mark : BitVec 32) (s : State) : Out := .next (s.pktMark mark false)
def execReplaymarkHold (_ : Bool) (mark : BitVec 32) (s : State) : Out := .next (s.pktMark mark true)

/-! ### LAUNCH (R424, R425) -/

def State.pktLaunch (s : State) (sync pre : Bool) (sv cw : Word) : State :=
  s.pkt sync true false fun q s =>
    match (List.range 8).mapM fun i => s.qRead? (sv + BitVec.ofNat 64 (8 * i)) 8 with
    | none => .stop 68
    | some xs =>
      let ws := xs.map (BitVec.ofNat 64)
      let l := Launch.ofVector ws false pre cw
      let bad := if pre && !(s.qEnt q 8).getLsbD 62 then some 37 else s.launchBad ws l
      match bad with
      | some code => wrote (s.launchWord cw l.id code) s
      | none =>
        let x := s.cmdq q
        let seq := x.seq - 1#32
        .done ((s.setCmdq q { x with back := x.back ++ [.launch s.nextLaunch seq (s.pktPc q)] }).startLaunch l)

def execLaunch (sync : Bool) (sv cw : Word) (s : State) : Out := .next (s.pktLaunch sync false sv cw)
def execLaunchPre (sync : Bool) (sv cw : Word) (s : State) : Out := .next (s.pktLaunch sync true sv cw)

/-! ## Reading a packet (R422) -/

/-- A packet with its fields (Table 20-2). -/
inductive QPkt where
  | nop (sync : Bool)
  | launch (sync pre : Bool) (sv cw : Word)
  | write32 (sync : Bool) (v : BitVec 32) (a : Word)
  | write64 (sync : Bool) (a v : Word)
  | copy (sync : Bool) (src dst : Word) (len : BitVec 33)
  | waitmem (sync : Bool) (p : WaitPkt)
  | waitmemSkip (sync : Bool) (k : BitVec 8) (p : WaitPkt)
  | ib (sync : Bool) (a len : Word)
  | loop (sync : Bool) (n : BitVec 8) (count : BitVec 16)
  | ffence (sync : Bool)
  | signal (sync : Bool) (a v : Word)
  | signalPhaser (sync : Bool) (a v : Word)
  | mark (mark : BitVec 32) (hold : Bool)
  deriving DecidableEq, Repr

/-- Doubleword 0 breaks no rule of Table 20-2: TYPE, LEN, flags and HDATA. -/
def headOk (w0 : Word) : Bool :=
  let hd := fld w0 32 32
  let len := fld w0 8 8
  let flags (n : Nat) : Bool := fld w0 (17 + n) (15 - n) = 0
  match fld w0 0 8 with
  | 0 => 1 ≤ len && flags 0
  | 1 => len = 3 && flags 1 && hd = 0
  | 2 => len = 2 && flags 0
  | 3 => len = 3 && flags 0 && hd = 0
  | 4 => len = 4 && flags 0 && hd = 0
  | 5 => len = 5 && flags 5 && fld w0 17 3 < 6 && hd < 256 && w0.getLsbD 21 = (hd ≠ 0)
  | 6 => len = 3 && flags 0 && hd = 0
  | 7 => len = 1 && flags 0 && 1 ≤ hd % 256 && hd % 256 ≤ 32 && hd / 256 % 256 = 0 && 1 ≤ hd / 2 ^ 16
  | 8 => len = 1 && flags 0 && hd = 0
  | 9 => len = 3 && flags 1 && hd = 0
  | 10 => len = 1 && flags 1
  | _ => false

/-- The packet that the words of `ws` encode, where they break no rule of Table 20-2. -/
def decodePacket (ws : List Word) : Option QPkt :=
  let w0 := ws.getD 0 0#64
  let w (i : Nat) := ws.getD i 0#64
  let hd := fld w0 32 32
  let sync := w0.getLsbD 16
  let aligned (a : Word) (n : Nat) : Bool := a.toNat % n = 0
  if !headOk w0 || fld w0 8 8 ≠ ws.length then none
  else match fld w0 0 8 with
  | 0 => some (.nop sync)
  | 1 => if aligned (w 1) 64 && aligned (w 2) 8 then some (.launch sync (w0.getLsbD 17) (w 1) (w 2)) else none
  | 2 => if aligned (w 1) 4 then some (.write32 sync (BitVec.ofNat 32 hd) (w 1)) else none
  | 3 => if aligned (w 1) 8 then some (.write64 sync (w 1) (w 2)) else none
  | 4 => if 1 ≤ (w 3).toNat && (w 3).toNat ≤ 2 ^ 32 then some (.copy sync (w 1) (w 2) ((w 3).setWidth 33)) else none
  | 5 =>
    let w64 := w0.getLsbD 20
    let p : WaitPkt := { cond := BitVec.ofNat 3 (fld w0 17 3), w64 := w64, a := w 1, v := w 2, mask := w 3,
                         tmo := (w 4).setWidth 48 }
    if fld (w 4) 48 16 = 0 && aligned (w 1) (if w64 then 8 else 4) then
      some (if w0.getLsbD 21 then .waitmemSkip sync (BitVec.ofNat 8 hd) p else .waitmem sync p)
    else none
  | 6 =>
    if aligned (w 1) 8 && aligned (w 2) 8 && 8 ≤ (w 2).toNat && (w 2).toNat ≤ 2 ^ 20 then some (.ib sync (w 1) (w 2)) else none
  | 7 => some (.loop sync (BitVec.ofNat 8 hd) (BitVec.ofNat 16 (hd / 2 ^ 16)))
  | 8 => some (.ffence sync)
  | 9 => some (if w0.getLsbD 17 then .signalPhaser sync (w 1) (w 2) else .signal sync (w 1) (w 2))
  | _ => some (.mark (BitVec.ofNat 32 hd) (w0.getLsbD 17))

/-- Run a packet in hand. -/
def State.runPacket (s : State) (p : QPkt) : State :=
  match p with
  | .nop sync => s.pkt sync true false fun _ s => .done s
  | .launch sync pre sv cw => s.pktLaunch sync pre sv cw
  | .write32 sync v a => s.pktWrite32 sync v a
  | .write64 sync a v => s.pktWrite64 sync a v
  | .copy sync src dst len => s.pktCopy sync src dst len
  | .waitmem sync p => s.pktWaitmem sync p
  | .waitmemSkip sync k p => s.pktWaitmemSkip sync k p
  | .ib sync a len => s.pktIb sync a len
  | .loop sync n count => s.pktLoop sync n count
  | .ffence sync => s.pktFfence sync
  | .signal sync a v => s.pktSignal sync a v
  | .signalPhaser sync a v => s.pktSignalPhaser sync a v
  | .mark m hold => s.pktMark m hold

/-- EN has changed to 0 (R419): a packet that has started is completed first, and then the queue is idle; one that has not is given up
(log entry 81). -/
def State.queueOff (s : State) (q : Nat) : State :=
  let x := s.cmdq q
  if !x.on || (s.qEnt q 8).getLsbD 63 then s
  else
    let t : State := match x.hand with
      | none => s
      | some h => match h.phase, decodePacket h.ws with
        | .started, some i => ({ s with qturn := q } : State).runPacket i
        | _, _ => s
    let y := t.cmdq q
    if y.hand.any fun h => h.phase = .started then t
    else (t.setCmdq q { y with on := false, st := 0#2, strs := [], hand := none }).qStatus q 0#2 none ((t.qEnt q 0x20).getLsbD 61)

def execQueueDisable (q : Nat) (s : State) : Out := .next (if s.served q then s.queueOff q else s)

/-! ## Slots (R421) -/

/-- What stands next in the streams of a queue: a move within them, nothing to execute yet, a stop, or a packet. -/
inductive Upcoming where
  | moved (s : State)
  | empty
  | stop (code : Nat) (pkt : Word)
  | packet (s : State) (addr : Word) (ws : List Word)
  deriving DecidableEq, Repr

def State.upcoming (s : State) (q : Nat) : Upcoming :=
  let x := s.cmdq q
  match x.strs with
  | [] => .empty
  | st :: up =>
    let ring := up.isEmpty
    let skip (len : Nat) : Upcoming :=
      .moved ((s.setTop q fun st => { st.step len with skip := st.skip - 1 }).followHead q)
    match st.body with
    | some b =>
      match b.pkts[b.ix]? with
      | some (a, ws) => if 0 < st.skip then skip (8 * ws.length) else .packet s a ws
      | none =>
        .moved (s.setTop q fun st =>
          { st with body := if b.left ≤ 1 then none else some { b with ix := 0, left := b.left - 1, first := false } })
    | none =>
      if !ring && st.size ≤ st.pos then .moved ((s.setCmdq q { x with strs := up }).followHead q)
      else
        let limit := if ring then x.tail - st.pos else st.size - st.pos
        let st1 := if st.skip = 0 then s.readAhead st ring limit else st
        let a := st.addr ring st.pos
        if limit < 8 then .empty
        else match s.qWord? st1 ring st.pos with
        | none => .stop 68 a
        | some w0 =>
          let len := 8 * fld w0 8 8
          if (if 0 < st.skip then len = 0 else !headOk w0) || !ring && limit < len then .stop 64 a
          else if limit < len then .empty
          else if 0 < st.skip then skip len
          else match (List.range (len / 8)).mapM fun i => s.qWord? st1 ring (st.pos + 8 * i) with
          | none => .stop 68 a
          | some ws => .packet (s.setCmdq q { x with strs := st1 :: up }) a ws

/-- Serve a queue in its slot: `n` packets may still start. The fuel bounds the moves within the streams (log entry 81). -/
def State.serve (q : Nat) : Nat → Nat → State → State
  | 0, _, s => s
  | fuel + 1, n, s =>
    let x := s.cmdq q
    if x.st ≠ 1#2 then s
    else match x.bad with
    | some pc => (s.setCmdq q { x with bad := none }).qStop q 68 (some pc)
    | none =>
      match x.hand with
      | some h =>
        if h.phase = .fetched then State.serve q fuel n (s.setCmdq q { x with hand := none })
        else match decodePacket h.ws with
        | none => s
        | some i =>
          let t := s.runPacket i
          if (t.cmdq q).hand.isSome then t else State.serve q fuel n t
      | none =>
        if n = 0 then s
        else match s.upcoming q with
        | .empty => s
        | .stop code a => s.qStop q code (some a)
        | .moved t => State.serve q fuel n t
        | .packet t a ws =>
          match decodePacket ws with
          | none => t.qStop q 64 (some a)
          | some i =>
            let y := t.cmdq q
            let u := (t.setCmdq q { y with hand := some { addr := a, ws := ws, phase := .fetched } }).runPacket i
            if (u.cmdq q).hand.isSome then u else State.serve q fuel (n - 1) u

/-- A slot of queue `q`: EN, REL and TAIL are observed, and up to four packets start. -/
def State.queueSlot (s : State) (q : Nat) : State :=
  let s0 := { s with qturn := q }
  if !(s0.qEnt q 8).getLsbD 63 then s0.queueOff q
  else
    let s1 := (s0.queueOn q).queueRel q
    let x := s1.cmdq q
    if x.st ≠ 1#2 then s1
    else
      let tail := (s1.qEnt q 0x10).toNat
      if tail % 8 ≠ 0 || 2 ^ fld (s1.qEnt q 8) 0 5 < (tail + 2 ^ 64 - x.head) % 2 ^ 64 then s1.qStop q 69 none
      else
        let s2 := s1.setCmdq q { x with tail := tail }
        let s3 := if s2.eager then s2.drainCopies q x.back.length else s2
        let s4 := s3.logFlush q x.owed.length
        if (s4.cmdq q).owed.isEmpty then State.serve q 4096 4 s4 else s4

def execQueueSlot (q : Nat) (s : State) : Out := .next (if s.served q then s.queueSlot q else s)

/-- LOG_ROOM_RESUME (R350): what the log owes is written while there is room, and a packet that waited for room starts. -/
def State.logRoom (s : State) (q : Nat) : State :=
  let s1 := s.logFlush q ((s.cmdq q).owed.length + 1)
  match (s1.cmdq q).hand with
  | some h =>
    if h.phase = .logWait && (s1.cmdq q).owed.isEmpty then
      match decodePacket h.ws with
      | some i => ({ s1 with qturn := q } : State).runPacket i
      | none => s1
    else s1
  | none => s1

def execLogRoomResume (q : Nat) (s : State) : Out := .next (if s.served q then s.logRoom q else s)

end Sys2Proof.Machine
end

