-- ==== Sys2Proof/Machine/Boot.lean ====
section
/-! DEFINITION. The root controller (spec/21): staged start, re-imaging, attestation, the key mailbox, clocks and heat, and the
capability block. -/

namespace Sys2Proof.Machine

/-! ## Staged start (R431 to R433) -/

/-- The device as power-good or a device reset finds it: everything at reset but the image slot, whose image is now the one to run (R433),
the reports given, the domes that have failed while power was on (R432), and what is the model's own (log entries 4, 5 and 7). -/
def State.cold (s : State) (power : Bool) : State :=
  { State.reset with cur := s.cur, agenda := s.agenda, eager := s.eager, freeCtr := s.freeCtr,
                     root := { Root.reset with power := power, slot := s.root.slot, boot := s.root.slot,
                                               failed := if s.root.power then s.root.failed else 0#96, reports := s.root.reports,
                                               badRoutes := s.root.badRoutes } }

/-- Write the bytes of an image at their physical addresses. -/
def State.loadBytes (s : State) (bs : List (Nat × Byte)) : State := bs.foldl (fun a b => a.wr b.1 1 b.2.toNat) s

/-- Start the supervisor launch of a die: its core runs the record, outside every dome (spec/14 R316 text); none where it does not start
(log entry 87). -/
def State.startSup (s : State) (die : Nat) (ws : List Word) (r : BitVec 52) : Option State :=
  let l := Launch.ofVector ws true false 0#64
  match s.region? die l 0 with
  | none => none
  | some g =>
    let m := { l with spm := g.spm, reg := g.reg, acc := g.acc }
    let s1 := { s with launches := tabPut s.launches s.nextLaunch m, nextLaunch := s.nextLaunch + 1 }
    match s1.region? die m (recRegion (s1.recWord die r 1)) with
    | some h => if s1.recValid die m r then some ((s1.startCore (2048 + die) s.nextLaunch m h r .detached).setWait die r 2) else none
    | none => none

/-- Stage 2 loads the firmware: link-core images, the bytes of the image, page-table roots and supervisor launches; none
where one of these does not start (R438) (log entry 87). -/
def State.loadImage (s : State) (f : FwImage) : Option State :=
  let s1 := s.loadBytes f.bytes
  let s2 := (List.range 4).foldl (fun (a : State) k => a.setLink k { LinkCore.reset with mem := a.root.linkImage k }) s1
  let s3 := (List.range 8).foldl (fun (a : State) d => a.setDie d { a.die d with ttRoot := f.ttroot &&& ~~~0xFFFF#52 }) s2
  f.sups.foldlM (fun (a : State) u => if u.1 < 8 then a.startSup u.1 u.2.1 u.2.2 else none) s3

/-- The capability block is written as the domes are released, the key mailbox empty (R437) (log entry 89). -/
def State.writeBlock (s : State) : State :=
  (List.range 5).foldl (fun (a : State) i => a.store (0x100 + 8 * i) 8 0) s.updateBlock

/-- POWER_GOOD: stage 0 starts (log entry 86). -/
def execPowerGood (s : State) : Out := .next (if s.root.power then s else s.cold true)

/-- The first failure is recorded; the device stays in its stage (R438). -/
def State.bootFail (s : State) (code : BitVec 8) : State := { s with root := { s.root with fail := code } }

/-- BOOT_STAGE_ADVANCE: the work of the current stage has succeeded, or failed with a code of Table 21-4 that belongs to it. -/
def State.bootAdvance (s : State) (r : StageResult) : State :=
  let x := s.root
  if !x.power || x.fail ≠ 0#8 || x.released then s
  else
    let up (s : State) : State := { s with root := { s.root with stage := s.root.stage + 1#4 } }
    match x.stage.toNat, r with
    | 0, .ok _ => up s
    | 0, .fail _ => s.cold false
    | 1, .ok _ => (match x.boot with
      | some f => up { s with root := { x with image := some f } }
      | none => s.bootFail 1#8)
    | 1, .fail _ => s.bootFail 1#8
    | 2, .ok _ => (match x.image.bind s.loadImage with
      | some t => up t
      | none => s.bootFail 4#8)
    | 2, .fail c => if 2 ≤ c.toNat && c.toNat ≤ 4 then s.bootFail c else s
    | _, .ok failed => State.writeBlock { s with domeMask := ~~~(failed ||| x.failed),
                                                 root := { x with released := true, failed := failed ||| x.failed } }
    | _, .fail _ => s

def execBootStageAdvance (r : StageResult) (s : State) : Out := .next (s.bootAdvance r)

/-- DEVICE_RESET: the sequence starts again, with the image now in the slot (log entry 86). -/
def execDeviceReset (s : State) : Out := .next (if s.root.power then s.cold true else s)

/-- REIMAGE: the slot takes a new image; the one that runs stays. -/
def execReimage (img : FwImage) (s : State) : Out :=
  .next (if s.root.power then { s with root := { s.root with slot := some img } } else s)

/-! ## Attestation and keys (R434, R435) -/

/-- ATTESTATION_REQUEST: the report names the running image by the SHA-256 digest of its bytes; the signature is a free value, for the identity key never leaves the root controller (log entries 7 and 88). -/
def State.attest (s : State) (nonce : BitVec 256) : State :=
  match s.root.image with
  | none => s
  | some f =>
    let r : Report := { nonce := nonce, image := BitVec.ofNat 256 (leNat (sha256 f.raw)), rank := Config.devRank, mask := s.domeMask,
                        stat := BitVec.ofNat 64 s.root.bootStat, sig := Config.freeWord s.freeCtr }
    { s with freeCtr := s.freeCtr + 1, root := { s.root with reports := s.root.reports ++ [r] } }

def execAttestationRequest (nonce : BitVec 256) (s : State) : Out := .next (s.attest nonce)

/-- The control word of the key mailbox. -/
def State.mailbox (s : State) : Word := BitVec.ofNat 64 (s.rd 0x100 8)

/-- GO is taken: the key bytes are zeroed and GO cleared, with `keys` the slots as they then stand. -/
def State.mailboxDone (s : State) (keys : List (Nat × BitVec 256)) : State :=
  let w := s.mailbox
  let s1 := (List.range 4).foldl (fun (a : State) i => a.store (0x108 + 8 * i) 8 0) s
  let s2 := s1.store 0x100 8 (w.toNat % 2 ^ 63)
  { s2 with root := { s2.root with keys := keys } }

/-- KEY_MAILBOX_GO: the key goes into its slot (log entry 88). -/
def State.mailboxGo (s : State) : State :=
  let w := s.mailbox
  if s.root.released && w.getLsbD 63 && !w.getLsbD 62 then
    s.mailboxDone (tabPut s.root.keys (fld w 0 12) (BitVec.ofNat 256 (s.rd 0x108 32)))
  else s

/-- KEY_MAILBOX_ERASE: the slot is emptied (log entry 88). -/
def State.mailboxErase (s : State) : State :=
  let w := s.mailbox
  if s.root.released && w.getLsbD 63 && w.getLsbD 62 then s.mailboxDone (tabDel s.root.keys (fld w 0 12)) else s

def execKeyMailboxGo (s : State) : Out := .next s.mailboxGo
def execKeyMailboxErase (s : State) : Out := .next s.mailboxErase

/-! ## Power, clocks and heat (R436): stretching changes only time -/

def execDroopSag (d : Nat) (s : State) : Out :=
  .next (if d < 8 && !s.root.sags.contains d then { s with root := { s.root with sags := insertUp d s.root.sags } } else s)

def execDroopEnd (d : Nat) (s : State) : Out := .next { s with root := { s.root with sags := s.root.sags.filter (· ≠ d) } }

def execThermalThrottle (s : State) : Out := .next { s with root := { s.root with hot := true } }
def execThermalRecover (s : State) : Out := .next { s with root := { s.root with hot := false } }

/-- THERMAL_SHUTDOWN: power is removed (log entry 86). -/
def execThermalShutdown (s : State) : Out := .next (s.cold false)

end Sys2Proof.Machine
end

