-- ==== Sys2Proof/Machine/Issue.lean ====
section
/-! DEFINITION. The turn of a core: the checks of a bundle (spec/02 R33, R34, R46, R47, R50, R51), its issue (spec/01 R14 to
R25), what follows it (spec/04 R108 to R119, spec/15 R339 to R347), waits (R166, R216, R247, R273) and traps. -/

namespace Sys2Proof.Machine

/-! ## Checks of a bundle -/

/-- The slot class of a major opcode (Table 1-2): scalar ALU, branch/control, load/store, vector, engine. -/
def slotClass (maj : Nat) : Option Nat :=
  if maj ≤ 0x15 then some 0
  else if maj ≤ 0x1B || maj = 0x25 then some 1
  else if maj ≤ 0x24 then some 2
  else if maj = 0x33 then some 4
  else if 0x27 ≤ maj && maj ≤ 0x34 then some 3
  else none

def slotLimit (cls : Nat) : Nat := if cls = 0 || cls = 3 then 2 else 1

/-- The 256-bit lane groups of a vector syllable by its WD; the reserved code counts none (R34). -/
def laneGroups (w0 : Half) : Nat :=
  match (w0.extractLsb' 8 2).toNat with
  | 0 => 1 | 1 => 2 | 2 => 4 | _ => 0

/-- The position of the first syllable past the limits of R14 and R34, by the classes and lane groups before it (log entry 61). -/
def overSlots : List (Half × Half) → List Nat → Nat → Nat → Option Nat
  | [], _, _, _ => none
  | w :: r, used, groups, n =>
    match slotClass (majOf w.1) with
    | none => overSlots r used groups (n + 1)
    | some k =>
      let g := if k = 3 then groups + laneGroups w.1 else groups
      if slotLimit k < used.count k + 1 || 4 < g then some n else overSlots r (k :: used) g (n + 1)

/-- TRAPINFO after an encoding fault (Table 2-10). -/
def faultInfo (bundle : Bool) (pos : Nat) (w0 : Half) : Word :=
  w0 ++ BitVec.ofNat 32 (pos + if bundle then 256 else 0)

def causeOf : EncFault → BitVec 6
  | .illop => cILLOP
  | .illrsv => cILLRSV
  | .illsrc => cILLSRC

/-- The preferred of two faults of one syllable: ILLOP, then ILLRSV, then ILLSRC (R47). -/
def worse (a b : Option (BitVec 6)) : Option (BitVec 6) :=
  match a, b with
  | some x, some y => some (if x.toNat ≤ y.toNat then x else y)
  | some x, none => some x
  | none, y => y

/-- Major opcodes that a prefix of either kind may stand before (R50). -/
def prefixKind (amend : Bool) (maj : Nat) : Bool :=
  if amend then [0x11, 0x12, 0x13, 0x14, 0x15, 0x28, 0x2B, 0x2D, 0x2F, 0x30, 0x31, 0x34].contains maj
  else 0x1C ≤ maj && maj ≤ 0x22 || maj = 0x34

/-- A prefix with the syllable after it is an orphan (R51). -/
def orphan (i : Instr) (next : Option (Half × Half)) : Bool :=
  let bad (amend fin : Bool) : Bool := fin || match next with
    | some w => !prefixKind amend (majOf w.1)
    | none => true
  match i with
  | .pfxm o => bad false o.fin
  | .pfxa o => bad true o.fin
  | _ => false

/-- A syllable with the one after it, on the current core: its encoding fault, type faults included (R47, R127), or its
instruction. -/
noncomputable def State.checkSyl (s : State) (w : Half × Half) (next : Option (Half × Half)) : Sum (BitVec 6) Instr :=
  let typed := match rawSyllable w.1 w.2 with
    | .ok i => if (fmtoOf i).toNat ≤ 8 then s.typeFault i else none
    | .bad _ => none
  match decodeSyllable w.1 w.2 with
  | .bad f => .inl ((worse (some (causeOf f)) typed).getD (causeOf f))
  | .ok i => match typed with
    | some c => .inl c
    | none => if orphan i next then .inl cILLPFX else .inr i

/-- The syllables of a bundle with their instructions, or the fault of the lowest position. -/
noncomputable def State.checkSyls (s : State) : List (Half × Half) → Nat → Sum (BitVec 6 × Word) (List (Half × Instr))
  | [], _ => .inr []
  | w :: r, n =>
    match s.checkSyl w r.head? with
    | .inl c => .inl (c, faultInfo false n w.1)
    | .inr i => match s.checkSyls r (n + 1) with
      | .inl f => .inl f
      | .inr is => .inr ((w.1, i) :: is)

/-- The encoding fault of a bundle, or its instructions (R46, R47) (log entry 61). -/
noncomputable def State.checkBundle (s : State) (ws : List Half) : Sum (BitVec 6 × Word) (List (Half × Instr)) :=
  let ss := syllables ws
  let bundle (n : Nat) : Sum (BitVec 6 × Word) (List (Half × Instr)) :=
    .inl (cILLOP, faultInfo true n ((ss[n]?).getD (0#32, 0#32)).1)
  match overlong ss 0 0 with
  | some n => bundle n
  | none => match overSlots ss [] 0 0 with
    | some n => bundle n
    | none => s.checkSyls ss 0

/-! ## Boundaries -/

/-- A sample is due as CYCLE passes a multiple of the period (R341) (log entry 60). -/
def Core.passes (x : Core) : Bool :=
  x.pmcCfg.getLsbD 60 && x.cycle.toNat % 2 ^ (10 + (x.pmcCfg >>> 56).toNat % 16) = 0

/-- The core takes a sample at its boundary. -/
def Core.sample (x : Core) : Core := if x.passes then x.trace1 2 x.next x.bundles else x

/-- A sample that fell due while the core did not execute is taken at its first boundary thereafter (R341). -/
def Core.lateSample (x : Core) : Core :=
  if x.sampDue then ({ x with sampDue := false } : Core).trace1 2 x.next x.bundles else x

/-- A cycle in which the core does not execute (log entry 93). -/
def Core.idleCycle (x : Core) : Core :=
  let y := x.bump 1 1 x.next
  let z := { y with cycle := x.cycle + 1#64 }
  { z with sampDue := z.sampDue || z.passes }

/-- The dome of a core runs a continuation. -/
def State.domeLive (s : State) (c : Nat) : Bool :=
  isSup c || match (s.dome (domeKey c)).run with | .dome _ => true | .priv => true | _ => false

/-- The core executes: it runs, has not exited, and its dome runs a continuation. -/
def State.executes (s : State) (c : Nat) : Bool :=
  let x := s.core c
  (x.run = .running || x.run = .newcomer) && x.join ≠ .exited && s.domeLive c

/-- A SUSPEND or YIELD of the dome is taking effect, and the core has issued its bundle. -/
def State.ending (s : State) (c : Nat) : Bool :=
  !isSup c && match (s.dome (domeKey c)).barrier with
    | some b => b.live && (b.kind = some .suspend || b.kind = some .yield) && !b.missing.contains c
    | none => false

/-- The core has cast a vote that is not answered, without whose result it issues nothing (R98). -/
def State.voteOpen (s : State) (c : Nat) : Bool :=
  !isSup c && match (s.dome (domeKey c)).barrier with
    | some b => b.votes.any fun v => v.core = c
    | none => false

/-- A debug stop drains the core first, and waits for a load in flight that cannot complete yet (R25, R343) (log entry 59). -/
def State.stepStop (s : State) (c : Nat) : State :=
  let s1 := s.drainInFlight c
  let x := s1.core c
  if s1.landed c then (s1.setCore c x.settle.noLatches).debugStop c 0#64 x.next
  else s1.setCore c { x with wait := .fence 2 0 x.wait }

/-- The boundary after a bundle or a wait: BUDGET at 0 stops the core (R315), then STEP (R343) (log entry 59). -/
def State.boundary (s : State) (c : Nat) : State :=
  let x := s.core c
  if !s.executes c || s.ending c then s
  else if x.budget = 0#64 then s.budgetDue c x.next
  else if x.pmcCfg.getLsbD 62 && (x.wait = .none || x.atJoin.isSome) then s.stepStop c
  else s

/-- The end of a turn of a core: the dome settles, and nothing is in issue. -/
def State.endTurn (s : State) (c : Nat) : State :=
  { (if isSup c then s else (s.joinTick c).settleDome (domeKey c)) with issue := Issue.none }

/-! ## Stall cycles -/

/-- `a + n` of 32 bits, saturated. -/
def sat32 (a : BitVec 32) (n : Nat) : BitVec 32 := BitVec.ofNat 32 (min (a.toNat + n) (2 ^ 32 - 1))

/-- The active loops count a stall cycle, each from the first bundle of its first iteration on (R344). -/
def Core.stallLoops (x : Core) : Core :=
  if x.inTrap then x
  else { x with loops := x.loops.map fun l =>
    if l.slot.issue = 0#32 then l else { l with slot := { l.slot with stall := sat32 l.slot.stall 1 } } }

/-- CYCLE and the counters count a stall cycle with the given events; a record that arises names `pc` (R18, R346). -/
def Core.countStall (x : Core) (evs : List Nat) (pc : Word) : Core :=
  let y := (1 :: 3 :: evs).foldl (fun (a : Core) e => a.bump e 1 pc) x
  ({ y with cycle := y.cycle + 1#64 } : Core).sample

/-- A stall cycle (R18). -/
def Core.stallCycle (x : Core) (evs : List Nat) : Core := x.stallLoops.countStall evs x.next

/-- One cycle of a wait, every 256th of which takes one from BUDGET (R166). -/
def State.charge (s : State) (c : Nat) : State :=
  let x := s.core c
  let n := x.waited + 1
  s.setCore c { x with waited := n, budget := if n % 256 = 0 then x.budget - 1#64 else x.budget }

/-- One cycle of a wait that goes on; BUDGET at 0 stops the core, which would go on at `pc`. -/
def State.tick (s : State) (c : Nat) (pc : Word) : State :=
  let s1 := s.charge c
  let y := s1.core c
  if y.waited % 256 = 0 && y.budget = 0#64 then s1.budgetDue c pc else s1

/-- Claim what a bundle of core `c` must have claimed: a bank of its own, or of another core (`State.owedBank`). -/
def State.claimFor (s : State) (c n : Nat) : State := if n < 256 then s.claim c n else s.claim (n / 256 - 1) (n % 256)

/-- A cycle in which the bundle at `addr` could not issue: nothing of it is kept but the guard it has shown (R160) and the banks it
has had claimed (R330), and of its events only the scoreboard's stall counts (R346) (log entry 93). -/
def State.stallTurn (s0 t : State) (c : Nat) (addr : Word) : State :=
  let x := (s0.core c).stallCycle (if t.issue.evs.contains 6 then [6] else [])
  let s1 := s0.setCore c { x with waited := if t.issue.tick then x.waited else 0 }
  let s2 := if isSup c then s1 else s1.setDome (domeKey c) { s1.dome (domeKey c) with guards := (t.dome (domeKey c)).guards }
  let s3 := t.issue.claims.foldl (fun a b => a.claimFor c b) s2
  if t.issue.tick then s3.tick c addr else s3

/-- The bundle at `addr` has all it needs but the answers to its remote accesses: the requests go out and the core waits (R195). -/
def State.askTurn (s0 t : State) (c : Nat) (addr : Word) : State :=
  let u := (t.issue.far.foldl (fun a r => a.sendRemote c r) s0).stallTurn t c addr
  u.setCore c { u.core c with wait := .remote }

/-- A cycle without a bundle (log entry 93). -/
def State.emptyTurn (s : State) (c : Nat) (evs : List Nat) : State := s.setCore c ((s.core c).stallCycle evs)

/-- The bundle at `pc` raises a trap (R17, R310): loads in flight complete, the core drains and takes it. The cycle is a stall
while a load cannot complete (R25). -/
def State.trapTurn (s0 : State) (c : Nat) (cause : BitVec 6) (info pc : Word) : State :=
  let s1 := s0.drainInFlight c
  if !s1.landed c then s1.emptyTurn c []
  else
    let s2 := (s1.setCore c (s1.core c).stallLoops).takeTrap cause info pc
    s2.setCore c ((s2.core c).countStall [] pc)

/-! ## After the syllables -/

/-- The syllables of each class in a bundle add to the counters of an active loop, and its iteration counts the bundle
(R339, R344). -/
def Loop.tally (w0s : List Half) (l : Loop) : Loop :=
  let n (k : Nat) : Nat := w0s.countP fun w => slotClass (majOf w) = some k
  let t := l.slot
  { l with sched := sat32 l.sched 1,
           slot := { t with issue := sat32 t.issue 1, fills := sat32 t.fills (n 0), fillb := sat32 t.fillb (n 1),
                            filll := sat32 t.filll (n 2), fillv := sat32 t.fillv (n 3), fille := sat32 t.fille (n 4) } }

/-- The innermost loop, whose count has come to 0, ends: its two records are queued (R112, R344). -/
def Core.expire (x : Core) : Core :=
  match x.loops with
  | [] => x
  | l :: r =>
    if l.count ≠ 0#64 then x
    else
      let t := l.slot
      let rec' (kind : BitVec 4) (cy data : Word) : TraceRec :=
        { kind := kind, pc := l.addr.setWidth 52, sched := l.first, cycle := cy, data := data }
      (({ x with loops := r } : Core).queueTrace (rec' 4#4 (t.stall ++ t.issue) (t.fillv ++ t.fills))).queueTrace
        (rec' 5#4 (t.fillb ++ t.filll) (0#32 ++ t.fille))

/-- Loops end one by one, innermost first. -/
def Core.expireAll (x : Core) (ended : List Loop) : Core :=
  ended.foldl (fun (a : Core) l => ({ a with loops := { l with count := 0#64 } :: a.loops } : Core).expire) x

/-- LOOP_END: the innermost loop of a core ends as its count has come to 0. -/
def execLoopEnd (c : Nat) (s : State) : Out := .next (s.setCore c (s.core c).expire)

/-- What a bundle leaves at its end: where it jumps, the loop it starts, and the JOIN it holds. -/
def jumpOf (as : List After) : Option (Word × Bool) := as.findSome? fun a => match a with | .jump t e => some (t, e) | _ => none
def loopOf (as : List After) : Option (Word × BitVec 10) := as.findSome? fun a => match a with | .loop n o => some (n, o) | _ => none
def joinOf (as : List After) : Option (Bool × BitVec 6) := as.findSome? fun a => match a with | .join y t => some (y, t) | _ => none
def votesOf (as : List After) : List Vote := as.filterMap fun a => match a with | .vote v => some v | _ => none

/-- The vote's predicate is written by a syllable of a higher position at the end of the same cycle, which stands (R22). -/
def Vote.beaten (v : Vote) (pend : List Pend) : Bool :=
  (pend.drop v.len).any fun p => p.left ≤ 1 && match p.w with | .p r _ => r = v.d | _ => false

/-- What the bundle waits for after it, where it holds a FENCE or an EFENCE behind accesses or submits of its own. -/
def fenceOf (as : List After) (next : Wait) : Option Wait :=
  as.findSome? fun a => match a with
    | .fence ord scope => some (.fence ord scope next)
    | .efence scope ord => some (.efence scope ord next)
    | _ => none

/-- The control syllable did what its barrier waits for. -/
def metOf (as : List After) : Bool :=
  as.any fun a => match a with | .suspend => true | .yield => true | .dsync => true | .ifence => true | _ => false

/-- The loops after a bundle with its successor, and those that end (R111 to R114); after a LOOP that becomes active the successor is
its body (R155) (log entry 44). -/
def Core.loopsAfter (x : Core) (addr next : Word) (as : List After) (w0s : List Half) : Word × List Loop × List Loop :=
  let counted := if x.inTrap then x.loops else x.loops.map (Loop.tally w0s)
  let d := if x.inTrap then (next, counted, []) else loopDone next counted
  let j := match jumpOf as with
    | some (t, true) => if x.inTrap then (d.2.1, []) else loopJump t d.2.1
    | _ => (d.2.1, [])
  let loops := match loopOf as with
    | some (n, o) =>
      { addr := addr, first := x.schedNow, start := next, stop := addr + BitVec.ofNat 64 (4 * o.toNat), off := o, count := n,
        sched := 0#32, slot := { issue := 0#32, stall := 0#32, fills := 0#32, fillb := 0#32, filll := 0#32, fillv := 0#32,
                                 fille := 0#32 } } :: j.1
    | none => j.1
  ((match jumpOf as with | some (t, _) => t | none => if (loopOf as).isSome then next else d.1), loops, d.2.2 ++ j.2)

/-- The OVF bits of PMCCFG (Table 15-2). -/
def ovfBits : Word := 0xFF000000000000#64

/-- The end of the issue cycle on the core: latches, the seed, loops, counters, the writes that are due, and CYCLE. The records that
arise name the bundle's successor, which after RFT is the bundle it returns to (R338). An overflow survives a write of PMCCFG in the
same cycle (R347). -/
def State.endIssue (t : State) (c : Nat) (w0s : List Half) : State :=
  let x := t.core c
  let i := t.issue
  let a := x.loopsAfter i.addr i.next i.aft w0s
  let lat := i.lat.foldl (fun v p => v.setIfInBounds p.1 (some p.2)) (Vector.replicate 8 (none : Option Word))
  let evs := [1, 2] ++ List.replicate w0s.length 4 ++ i.evs
  let idle := decide (x.wait = Wait.none)
  let y0 : Core :=
    { x with latches := lat, srSeed := i.seed.getD x.srSeed, loops := a.2.1, sched := sat32 x.sched 1,
             waited := (if idle then 0 else x.waited) }
  let pc := if i.aft.contains .rft then y0.endCycle.trapPc &&& ~~~3#64 else a.1
  let y := { y0 with next := pc }
  let z := (({ y with pmcCfg := y.pmcCfg &&& ~~~ovfBits } : Core).countEvents evs pc fun n => Config.freeWord (t.freeCtr + n)).expireAll a.2.2
  let w := ({ z with pmcCfg := z.pmcCfg ||| y.pmcCfg &&& ovfBits } : Core).endCycle
  let v : Core := { w with pmcCfg := w.pmcCfg ||| z.pmcCfg &&& ovfBits, cycle := w.cycle + 1#64 }
  ({ t with freeCtr := t.freeCtr + 8,
            issue := { i with ended := some ((List.range 8).filter y.writesPmc) } } : State).setCore c v.sample

/-- RFT (R118, R158): the core drains and goes on at TRAPPC; a held core whose queue stands there is attached again, and
leaves the stream where the handler has changed TRAPPC (log entry 56). -/
def State.returnTrap (s : State) (c : Nat) : State :=
  let x := s.core c
  let pc := x.trapPc &&& ~~~3#64
  let y := { x.settle.noLatches with inTrap := false, next := pc }
  let d := s.dome (domeKey c)
  let same : Bool := match x.queue with
    | q :: _ => q.addr = pc
    | [] => d.fe = pc && d.awaits.isNone && d.barrier.isNone
  if x.join ≠ .held then s.setCore c y
  else if same then s.setCore c { y with join := .attached }
  else (s.setCore c y).leave c pc

/-- EXIT (R185): at once, or when the stores that the core has outstanding are performed and acknowledged (R25, R195); a supervisor
core that exits is idle (log entry 63). -/
def State.exitTurn (s : State) (c : Nat) : State :=
  let x := s.core c
  if !x.outs.isEmpty || !x.posted.isEmpty then s.setCore c { x with wait := .exit }
  else
    let t := s.traceAll c 16
    if isSup c then t.setCore c { t.core c with run := .idle, join := .exited } else t.exitCore c

/-- A core of the stream has issued the bundle of its queue. A JOIN that completed or closed before it came, as a held core may
issue one, lets it go on (R163). A core that leaves at the bundle of an IFENCE fetches anew (R119). -/
def State.afterStream (s : State) (c : Nat) (q : Delivered) (as : List After) : State :=
  let x := s.core c
  let j := joinOf as
  let late := j.isSome && (s.dome (domeKey c)).awaits ≠ some q.seq &&
    q.lead.all fun l => l = ({ taken := true, succ := x.next } : Outcome)
  let y := if late then x.settle.noLatches.bumpBut (s.pmcKept c) 9 1 x.next else x
  let s1 := s.setCore c { y with queue := x.queue.drop 1, joinTag := (j.map Prod.snd).getD x.joinTag,
                                 wait := match j with | some (any, tag) => if late then x.wait else .join any tag q.addr | none => x.wait }
  let s2 := s1.passBarrier c q.seq (metOf as) (votesOf as)
  let s3 := if q.res then s2.outcome c q { taken := (jumpOf as).isSome || j.isSome, succ := x.next } j.isSome else s2
  if as.contains .ifence && !(s3.core c).inStream then s3.fenceFetch c else s3

/-- A core outside the stream has issued a bundle: a JOIN makes it wait (R164), a held core after it has left the stream (log entry 112),
and an IFENCE has it fetch anew (R119, R174). A supervisor core has no stream to join (log entry 28). -/
def State.afterAlone (s : State) (c : Nat) (addr : Word) (as : List After) : State :=
  let x := s.core c
  let s1 := match joinOf as with
    | none => s
    | some (any, tag) =>
      let t := if x.join = .held then s.leave c x.next else s
      let y := t.core c
      t.setCore c (if isSup c then { y with joinTag := tag }
        else { y with joinTag := tag, join := .waiting, wait := .join any tag addr, waited := 0 })
  if metOf as then s1.fenceFetch c else s1

/-- Old guards are forgotten once no core can issue their bundle any more (log entries 26 and 64). -/
def State.dropGuards (s : State) (c : Nat) : State :=
  let d := s.dome (domeKey c)
  if d.guards.isEmpty then s
  else s.setDome (domeKey c) { d with guards := d.guards.filter fun g => d.seq < g.1 + 64 }

/-- The bundle has issued. -/
def State.retire (t : State) (c : Nat) (q : Option Delivered) (w0s : List Half) : State :=
  let pend := (t.core c).pend
  let as := t.issue.aft.map fun a => match a with | .vote v => .vote { v with w := v.w && !v.beaten pend } | a => a
  let s1 := t.endIssue c w0s
  let pass (s : State) : State := match q with | some q => s.passBarrier c q.seq (metOf as) (votesOf as) | none => s
  let s2 := if as.contains .exit then (pass s1).exitTurn c
    else if as.contains .rft then (pass s1).returnTrap c
    else match q with
      | some q => s1.afterStream c q as
      | none => s1.afterAlone c t.issue.addr as
  let s3 := match fenceOf as (s2.core c).wait with
    | some w => s2.setCore c { s2.core c with wait := w, waited := 0 }
    | none => s2
  ((s3.dropGuards c).endTurn c).boundary c

/-! ## Issue -/

def isPrefix (i : Instr) : Bool := match i with | .pfxm _ => true | .pfxa _ => true | _ => false

/-- The syllables of a bundle, one after the other (R15: what they write reaches the registers at the end of the cycle).
`ex` is the meaning of each. -/
def runSyls (ex : Instr → State → Out) : List (Half × Instr) → Nat → State → Out
  | [], _, s => .next s
  | (w0, i) :: r, n, s =>
    match ex i { s with issue := { s.issue with pos := n, w0 := w0 } } with
    | .next t =>
      if t.issue.res = .ran then
        runSyls ex r (n + 1) (if isPrefix i then t else { t with issue := { t.issue with pm := none, pa := none } })
      else .next t
    | o => o

/-- Issue the bundle at `addr` with the given words on core `c` (R15 to R17, R122). Remote accesses that return values go out when
every syllable has what it needs; remote reads go out before the trap of a higher position is taken, as theirs comes first (R17,
R195) (log entry 102). -/
noncomputable def issueBundle (ex : Instr → State → Out) (c : Nat) (addr : Word) (ws : List Half) (q : Option Delivered)
    (s : State) : Out :=
  let x := s.core c
  let iss := { Issue.none with
    seq := (q.map Delivered.seq).getD 0, addr := addr, next := bundleNext addr ws, len := 4 * ws.length,
    dqc := (List.range 4).map fun p => ((x.path p).length, (x.spilled p).length), boss := q.bind Delivered.boss,
    crs := s.crsNow c, job0 := x.eng.ordNext }
  let s0 := { s with issue := iss }
  match s0.checkBundle ws with
  | .inl (cause, info) => .next ((s0.trapTurn c cause info addr).endTurn c)
  | .inr is =>
    match runSyls ex is 0 (s0.setCore c { x with bundles := x.bundles + 1#64, budget := x.budget - 1#64 }) with
    | .next t =>
      match t.issue.res with
      | .ran => .next (if t.issue.far.isEmpty then t.retire c q (is.map Prod.fst) else (s0.askTurn t c addr).endTurn c)
      | .stalled => .next ((s0.stallTurn t c addr).endTurn c)
      | .trapped cause info =>
        if !t.issue.far.isEmpty && t.issue.far.all Access.isRead then .next ((s0.askTurn t c addr).endTurn c)
        else
        let s1 := { s0 with issue := { iss with drop := t.issue.drop, told := t.issue.told } }
        let s2 := if isSup c then s1 else s1.setDome (domeKey c) { s1.dome (domeKey c) with guards := (t.dome (domeKey c)).guards }
        .next ((s2.trapTurn c cause info addr).endTurn c)
    | o => o

/-! ## The turn of a core -/

/-- In an eager state what a core has outstanding goes on before its turn. -/
def State.upkeep (s : State) (c : Nat) : State :=
  if !s.eager then s
  else
    let s1 := (s.drainOutsBy State.perform c).phDrain c
    let s2 := s1.traceAll c (s1.core c).trace.length
    let x := s2.core c
    s2.setCore c { x with monitor := { x.monitor with conf := x.monitor.armed } }

/-- A wait has ended, and the core waits for what comes next, or stands at its boundary. -/
def State.goWait (s : State) (c : Nat) (w : Wait) : State := (s.setCore c { s.core c with wait := w, waited := 0 }).boundary c

/-- One cycle of a wait. -/
def State.waitTurn (s : State) (c : Nat) : State :=
  let x := s.core c
  let on := s.setCore c (x.stallCycle [])
  match x.wait with
  | .none => s
  | .remote => on
  | .waitm cls d w pos =>
    if !x.monitor.codes.isEmpty then ((on.charge c).endWaitm c x.monitor.lowest d w pos).boundary c
    else if 2 ^ (10 + 4 * cls) ≤ x.waited + 1 then ((on.charge c).endWaitm c 2 d w pos).boundary c
    else on.tick c x.next
  | .phwait key phase =>
    if s.phOver key phase then ((on.charge c).phFinish c key (phP (s.phGet key).1 != phase)).boundary c else on.tick c x.next
  | .phdone key b => ((on.charge c).phFinish c key b).boundary c
  | .phsw _ => on.tick c x.next
  | .join _ _ _ => on.tick c x.next
  | .fence ord scope w =>
    if fenceOk x.outs x.posted ord scope then (on.fence c ord scope).goWait c w else on
  | .efence scope ord w =>
    if !x.jobsBefore ord && (scope ≠ 5 || x.posted.isEmpty) then (on.efence c scope).goWait c w else on
  | .stop w =>
    let t := s.drainInFlight c
    if t.landed c then (t.setCore c { t.core c with wait := w }).stopCore c else on
  | .exit => if x.outs.isEmpty && x.posted.isEmpty then (on.setCore c { on.core c with wait := .none }).exitTurn c else on

/-- The core fetches its next bundle and issues it; where it has none the cycle is a stall (log entries 54 and 64). -/
noncomputable def fetchTurn (ex : Instr → State → Out) (c : Nat) (s : State) : Out :=
  let x := s.core c
  let dm := domeKey c
  let s := if x.join ≠ .attached then s.enterAt c else if x.seg.isSome then s.setCore c { x with seg := none } else s
  let x := s.core c
  let fetchTrap (s : State) (info pc : Word) : Out := .next ((s.trapTurn c cFETCH info pc).endTurn c)
  if x.join = .attached then
    let s1 := if x.queue.isEmpty then (s.deliver dm).1 else s
    match (s1.core c).queue with
    | [] => .next ((s1.emptyTurn c [7]).endTurn c)
    | q :: _ =>
      if q.again then
        match gather (s1.dome dm).word? 9 q.addr.toNat 0 0 with
        | .inr ws =>
          let x1 := s1.core c
          let s2 := s1.setCore c { x1 with queue := { q with ws := ws, again := false } :: x1.queue.drop 1 }
          issueBundle ex c q.addr ws ((s2.core c).queue.head?) s2
        | .inl a => match s1.loadSegment c a with
          | .inr t => .next ((t.emptyTurn c [7]).endTurn c)
          | .inl info => fetchTrap s1 info q.addr
      else if q.ws.isEmpty then
        match gather (s1.dome dm).word? 9 q.addr.toNat 0 0 with
        | .inr ws =>
          let s2 := s1.expand dm q.seq q.addr ws
          issueBundle ex c q.addr ws ((s2.core c).queue.head?) s2
        | .inl a => match s1.loadSegment c a with
          | .inr t => .next ((t.emptyTurn c [7]).endTurn c)
          | .inl info => fetchTrap s1 info q.addr
      else issueBundle ex c q.addr q.ws (some q) s1
  else
    match gather x.finderWord 9 x.next.toNat 0 0 with
    | .inr ws => issueBundle ex c x.next ws none s
    | .inl a => match s.fillFinder c a with
      | .inr t => .next ((t.emptyTurn c [10]).endTurn c)
      | .inl info => fetchTrap s info x.next

/-- The turn of core `c`: one cycle of it. A core that does not execute only counts it, and one that has come to its boundary issues
nothing more once a PREEMPT has asked for its dome (R312, R329) (log entry 93). -/
noncomputable def coreTurn (ex : Instr → State → Out) (c : Nat) (s : State) : Out :=
  let s0 := ({ s with cur := c, issue := Issue.none } : State).upkeep c
  let s1 := if s0.executes c then s0.setCore c (s0.core c).lateSample else s0
  let x := s1.core c
  if !s1.executes c then .next ((s1.setCore c x.idleCycle).endTurn c)
  else if x.budget = 0#64 && !s1.ending c then
    let t := s1.budgetDue c x.next
    .next ((if t.landed c then t else t.emptyTurn c []).endTurn c)
  else if x.wait ≠ .none then .next ((s1.waitTurn c).endTurn c)
  else if !isSup c && (s1.dome (domeKey c)).asked.isSome && x.halting then .next ((s1.emptyTurn c []).endTurn c)
  else if s1.voteOpen c then .next ((s1.emptyTurn c []).endTurn c)
  else if x.monitor.armed && !x.monitor.conf then .next ((s1.emptyTurn c []).endTurn c)
  else fetchTurn ex c s1

end Sys2Proof.Machine
end

