-- ==== Sys2Proof/Machine/Events.lean ====
section
/-! DEFINITION. TMARK, and the events of the hardware that have a meaning of their own: what stands ready in the state comes about,
and the outside world acts. -/

namespace Sys2Proof.Machine

/-- TMARK (spec/15 R340): it waits while the trace queue is full, and a record that finds tracing off is discarded and counted
(R337) (log entry 92). -/
def execTmark (o : En) (s : State) : Out :=
  guarded o.gw [.s o.sa] s fun s =>
    let x := s.me
    if 16 ≤ x.trace.length then stallOut s
    else if !x.pmcCfg.getLsbD 61 then .next (s.event 16)
    else .next (s.setMe (x.trace1 1 s.issue.addr (x.getS o.sa)))

/-! ## Monitors (spec/08 R214 to R216) -/

/-- The home confirms an arming. -/
def State.monitorConfirm (s : State) (c : Nat) : State :=
  let x := s.core c
  s.setCore c { x with monitor := { x.monitor with conf := x.monitor.armed } }

def execMonitorConfirm (c : Nat) (s : State) : Out := .next (s.monitorConfirm c)

/-- A dropped arming (1, never at a scratchpad) or a spurious event (3) is recorded; code 0 comes with a write. -/
def State.monitorEvent (s : State) (c code : Nat) : State :=
  let x := s.core c
  let m := x.monitor
  if m.armed && m.conf && (code = 3 || code = 1 && m.key < spKey 0 0) then
    s.setCore c { x with monitor := { m with codes := m.codes ++ [code] } }
  else s

def execMonitorEvent (c code : Nat) (s : State) : Out := .next (s.monitorEvent c code)

/-- The timer of a WAITM has run its cycles (log entry 92). -/
def State.waitmOver (s : State) (c : Nat) : State :=
  let x := s.core c
  match x.wait with
  | .waitm cls d w pos =>
    if 2 ^ (10 + 4 * cls) ≤ x.waited then
      (s.endWaitm c (if x.monitor.codes.isEmpty then 2 else x.monitor.lowest) d w pos).boundary c
    else s
  | _ => s

def execWaitmTimeout (c : Nat) (s : State) : Out := .next (s.waitmOver c)

/-! ## Spilled queues (spec/07 R188) -/

/-- The oldest spilled events of a link core return on chip and are credited; one that waits uncharged is charged (log entry 78). -/
def State.refillLink (s : State) (k : Nat) : State :=
  let x := s.linkCore k
  let n := min (512 - x.events.length) x.spill.length
  ((s.setLink k { x with events := x.events ++ x.spill.take n }).unspillLink k n).chargeLink k

def execQueueSpillRefill (q : SpillQueue) (s : State) : Out :=
  .next (match q with
    | .deferral c path => s.refillDq c path
    | .ready l d lvl => s.refillReady d l lvl
    | .ring win => s.refillRing win
    | .link k => s.refillLink k)

/-! ## Accesses of cores (spec/09 R223 to R227) -/

/-- Access `i` of a core is performed where it may be. -/
def State.tryPerform (s : State) (c i : Nat) : State := (s.performAt c i State.perform).getD s

/-- A performed load completes. -/
def State.tryComplete (s : State) (c i : Nat) : State := (s.completeAt c i).getD s

/-- The kind of outstanding access `i`. -/
def State.outKind (s : State) (c i : Nat) (f : Access → Bool) : Bool :=
  match (s.core c).outs[i]? with
  | some a => f a
  | none => false

def execMemoryPerform (c i : Nat) (s : State) : Out := .next (s.tryPerform c i)
def execLoadComplete (c i : Nat) (s : State) : Out := .next (s.tryComplete c i)

/-- An update of a counter reaches its home. -/
def execSketchUpdateApply (c i : Nat) (s : State) : Out :=
  .next (if s.outKind c i (fun a => match a.kind with | .sketch .. => true | _ => false) then s.tryPerform c i else s)

/-- The reads of a query have come and the lane is written (log entry 35). -/
def execSketchQueryDone (c i : Nat) (s : State) : Out :=
  .next (if s.outKind c i (fun a => match a.kind with | .query .. => true | _ => false) then
    (s.tryPerform c i).tryComplete c i else s)

def execWakePortStore (c i : Nat) (s : State) : Out :=
  .next (if s.outKind c i (fun a => match a.tgt with | .port _ _ => a.isWrite | _ => false) then s.tryPerform c i else s)

def execWakePortRead (c i : Nat) (s : State) : Out :=
  .next (if s.outKind c i (fun a => match a.tgt with | .port _ _ => a.isRead | _ => false) then s.tryPerform c i else s)

/-- The writes that are due at the end of an issue cycle are made (spec/01 R19). A core that executes makes them as it issues a bundle;
on any other they are those of a drain (R25). -/
def execExposedWriteback (c : Nat) (s : State) : Out := .next (if s.executes c then s else s.setCore c (s.core c).endCycle)

/-- The modified bytes of a copy go home, and an evicted copy is dropped (spec/16 R354). -/
def execDieBatchWriteback (d : Nat) (b : DieBatch) (s : State) : Out :=
  .next (if b.evict then s.flushLine d b.line else s.sendLine d b.line)

/-- A walk completes: a translation cache keeps what it found (spec/14 R322, R323) (log entry 24). -/
def State.pageWalk (s : State) (d : Nat) (va : BitVec 52) : State :=
  match s.walk d va.toNat with
  | none => s
  | some t =>
    let x := s.die d
    if x.tlb.contains t then s else s.setDie d { x with tlb := t :: x.tlb }

def execPageWalk (d : Nat) (va : BitVec 52) (s : State) : Out := .next (s.pageWalk d va)

/-! ## Waits, traps and stops -/

/-- The waits whose cycles charge BUDGET: WAITM, PHWAIT, PHSW and JOIN (R166, R216, R247), and a TWAIT, which waits at its bundle
(R273). -/
def Core.waitCharges (x : Core) : Bool :=
  match x.wait with
  | .none | .waitm _ _ _ _ | .phwait _ _ | .phsw _ | .phdone _ _ | .join _ _ _ => x.waited ≠ 0
  | _ => false

/-- The 256th cycle of a wait charges BUDGET (spec/07 R166) (log entry 92). -/
def State.waitTick (s : State) (c : Nat) : State :=
  let x := s.core c
  if s.executes c && x.waitCharges && x.budget ≠ 0#64 && x.waited % 256 = 255 then s.tick c x.next else s

def execWaitBudgetTick (c : Nat) (s : State) : Out := .next (s.waitTick c)

/-- Core `c` stands at a boundary where a trap may arrive: it executes, and no remote access of its next bundle is on its way (R211). -/
def State.mayTrap (s : State) (c : Nat) : Bool := s.executes c && (s.core c).wait ≠ .remote && (s.core c).answer.isNone

/-- A trap of the bundle that core `c` is about to issue, of a cause that is recorded (spec/14 R310, R313), once its loads in flight have
completed (R25). -/
def State.trapNow (s : State) (c : Nat) (cause : BitVec 6) (info : Word) : State :=
  if s.mayTrap c && 1 ≤ cause.toNat && cause.toNat ≤ 0x13 then
    let s1 := ({ s with cur := c, issue := Issue.none } : State).drainInFlight c
    if s1.landed c then s1.takeTrap cause info (s1.core c).next else s1
  else s

/-- TRAP_ENTRY: the trap that the bundle in issue has raised, and no other, is taken at its address (R310, R313), once the loads in flight
have completed (R25) (log entry 113). -/
def execTrapEntry (c : Nat) (cause : BitVec 6) (info : Word) (s : State) : Out :=
  .next (if c = s.cur && s.executes c && s.issue.res = .trapped cause info then
      let s1 := s.drainInFlight c
      if s1.landed c then s1.takeTrap cause info s.issue.addr else s1
    else s)

/-- BUDGET at 0 stops the core at its boundary (spec/14 R315), once its loads in flight have completed. -/
def State.budgetNow (s : State) (c : Nat) : State :=
  let x := s.core c
  if s.executes c && x.budget = 0#64 then s.budgetDue c x.next else s

def execBudgetStop (c : Nat) (s : State) : Out := .next (s.budgetNow c)

/-- The home reports completion of a wait. -/
def State.phComplete (s : State) (c : Nat) : State :=
  match (s.core c).wait with
  | .phwait key phase => if s.phOver key phase then s.phFinish c key (phP (s.phGet key).1 != phase) else s
  | .phdone key b => s.phFinish c key b
  | _ => s

/-- PHASER_WAIT_COMPLETE: a core whose wait is over stands at its boundary. -/
def execPhaserWaitComplete (c : Nat) (s : State) : Out :=
  let t := s.phComplete c
  .next (if (t.core c).wait = (s.core c).wait then t else t.boundary c)

/-! ## Scheduling (spec/07 R186, R187) -/

def execContinuationStart (dm : Nat) (s : State) : Out := .next (s.takeNext dm)
def execReadyAging (d : Nat) (s : State) : Out := .next (s.agingOf d)

/-! ## Soft errors (spec/14 R335, R336, spec/17 R396) -/

/-- TRAPINFO after SOFTERR, and INFO of a record of KIND 4 (Table 14-7) (log entry 90). -/
def SoftErr.info (e : SoftErr) : Word := e.unit ++ 0#8 ++ e.loc

/-- A record of KIND 4 for what core `c` was doing at `pc`. -/
def State.softReport (s : State) (e : SoftErr) (c : Nat) (pc : Word) : State :=
  s.report e.die (supRecord 4 cSOFTERR.toNat 0 0 c (s.core c) pc (SoftErr.info e) 0#64)

/-- A record of KIND 4 for a job, of its own launch and region (Table 14-2). -/
def State.softReportJob (s : State) (e : SoftErr) (c : Nat) (j : Job) : State :=
  s.report e.die (supRecord 4 cSOFTERR.toNat 0 0 c { s.core c with launchId := j.lid, regionId := j.region } j.pc (SoftErr.info e) 0#64)

/-- A record of KIND 4 for an error that no agent consumed. -/
def State.softAlone (s : State) (e : SoftErr) : State :=
  s.report e.die { words := [BitVec.ofNat 64 (4 * 2 ^ 56 + cSOFTERR.toNat * 2 ^ 50), 0#64, 0#64, SoftErr.info e, 0#64, 0#64, 0#64] }

/-- The bundle that core `c` is about to issue consumes an error: it traps with a record of KIND 4, once its loads in flight have
completed. -/
def State.softTrap (s : State) (e : SoftErr) (c : Nat) (cause : BitVec 6) (info : Word) : State :=
  if s.mayTrap c then
    let t := s.drainInFlight c
    if t.landed c then (t.softReport e c (t.core c).next).trapNow c cause info else t
  else s

/-- A running job consumes an error: `f` is what becomes of it. An error that nothing consumes has its record too. -/
def State.softJob (s : State) (e : SoftErr) (c slot : Nat) (f : State → State) : State :=
  match s.job? c slot with
  | some j => if j.st = .running then f (s.softReportJob e c j) else s.softAlone e
  | none => s.softAlone e

/-! ## Jobs (spec/11 R266, R271, R272, spec/14 R326) -/

/-- An engine takes its oldest ready job; an XARM then arms its window, and a collective begins its traffic. -/
def State.jobStart (s : State) (c eng : Nat) : State :=
  match (s.core c).oldest c eng with
  | none => s
  | some (slot, _) =>
    let s1 := s.startJob c eng
    match s1.job? c slot with
    | none => s1
    | some j =>
      match j.kind with
      | .xarm => s1.armStart c j
      | .xcoll => s1.collPump c slot
      | _ => s1

def execJobStart (c eng : Nat) (s : State) : Out := .next (s.jobStart c eng)

/-- A running job whose work is done ends with CODE 1. Reductions, armed windows and collectives end by their own events (log entry 48). -/
def State.jobEnd (s : State) (c slot : Nat) : State :=
  match s.job? c slot with
  | none => s
  | some j =>
    let fin (t : State) : State := t.endJob c slot 1 0#6
    let sk : State := match s.skEndFault c j with
      | some (cause, a) => s.jobMeets c slot cause a
      | none => fin (s.skEnd c j)
    if j.st ≠ .running then s
    else match j.kind with
    | .mma => if (mmaOf j.ps j.sb).steps ≤ j.prog then fin s else s
    | .mzero => fin (s.mzero c j)
    | .mdrain => fin (s.mdrain c slot j)
    | .copy => if granules j.ps ≤ j.prog then fin s else s
    | .cstrm => if granules j.ps ≤ j.prog then fin s else s
    | .skupd => if skGroups j ≤ j.prog then sk else s
    | .skadd => if skGroups j ≤ j.prog then sk else s
    | .skclr => if skGroups j ≤ j.prog then sk else s
    | .xwr => if j.packets ≤ j.prog then fin s else s
    | .xwrPlace => if j.packets ≤ j.prog then fin s else s
    | .xrd => if j.packets ≤ j.prog then fin s else s
    | .xamo => if j.packets ≤ j.prog then fin s else s
    | .rdsend => s
    | .xarm => s
    | .xcoll => s

def execJobEnd (c slot : Nat) (s : State) : Out := .next (s.jobEnd c slot)

/-- A running job goes one unit on: a granule, a step, a group or packet of its own, or its end. -/
def State.nextUnit (s : State) (c slot : Nat) (j : Job) : Out :=
  match j.kind with
  | .copy => execCopyGranule c slot s
  | .cstrm => execCstrmGranule c slot s
  | .mma => execMmaStep c slot s
  | .skupd | .skadd | .skclr => if skGroups j ≤ j.prog then execJobEnd c slot s else execSketchJobGroup c slot s
  | .rdsend => if 2 ≤ j.made then execReductionTimeout c slot s else execReductionDone c slot s
  | .xcoll => .next (s.collPump c slot)
  | .mzero | .mdrain | .xwr | .xwrPlace | .xrd | .xamo | .xarm => .next s

/-- What a transport job meets at its local bytes as its next packet leaves, one is sent again, or a response comes. -/
def State.linkFaults (s : State) (c : Nat) (j : Job) : List (BitVec 6 × Word) :=
  let out (n : Nat) : Option (BitVec 6 × Word) := s.chunkFault c false needR (j.source n)
  let back (p : Pkt) : Option (BitVec 6 × Word) := s.chunkFault c false needW ((j.result p []).map Prod.fst)
  let mine := s.pdcs.flatMap fun e => e.2.pkts.filter fun p => p.core = c && p.ord = j.ord && !p.acked
  ((if j.made < j.packets then [out j.made] else []) ++
    mine.flatMap fun p => (if p.again then [out p.ix] else []) ++ (if p.resp then [back p] else [])).filterMap id

/-- What becomes of a running job at its next unit where it meets fault `cause` there: the state after it, where `ok` holds of that. -/
def State.unitMeets (s : State) (c slot : Nat) (cause : BitVec 6) (ok : BitVec 6 × Word → Bool) (after : State → Bool) : State :=
  match s.job? c slot with
  | none => s
  | some j =>
    if j.st ≠ .running then s
    else if j.sends then
      match (s.linkFaults c j).find? fun f => f.1 = cause && ok f with
      | some f => s.jobMeets c slot cause f.2
      | none => s
    else match s.nextUnit c slot j with
    | .next t => if after t then t else s
    | _ => s

/-- The job of a slot has ended with CODE 3. -/
def State.faulted (t : State) (c slot : Nat) : Bool := (t.job? c slot).isNone && (t.eng c).unrep.getLsbD slot

/-- A running job ends with CODE 3 (R272): with PROT where its next unit meets it, with SOFTERR at a place that a free value names, with
REMOTE or TIMEOUT where it has a packet that is not acknowledged (log entries 41 and 90). -/
def State.jobFault (s : State) (c slot : Nat) (cause : BitVec 6) : State :=
  match s.job? c slot with
  | none => s
  | some j =>
    if j.st ≠ .running then s
    else if cause = cPROT then s.unitMeets c slot cPROT (fun _ => true) fun t => t.faulted c slot
    else if cause = cSOFTERR then
      let u := s.fresh
      let w := u.2.fresh
      w.2.softJob { die := dieOf c, unit := u.1.setWidth 4, loc := w.1.setWidth 52, who := .job c slot } c slot
        fun t => t.endJob c slot 3 cSOFTERR
    else if (cause = cREMOTE || cause = cTIMEOUT) && j.sends && j.prog < j.packets then s.jobMeets c slot cause 0#64
    else s

def execJobFault (c slot : Nat) (cause : BitVec 6) (s : State) : Out := .next (s.jobFault c slot cause)

/-- A running job whose next unit meets XLATE at an address parks before it (R326). -/
def State.jobPark (s : State) (c slot : Nat) (a : Word) : State :=
  s.unitMeets c slot cXLATE (fun f => f.2 = a) fun t => (t.job? c slot).map Job.st = some (.parked a)

def execJobPark (c slot : Nat) (a : Word) (s : State) : Out := .next (s.jobPark c slot a)

/-! ## Trace and counters (spec/15 R337, R341, R347) -/

def execTraceRecordWrite (c : Nat) (s : State) : Out := .next (s.traceWrite c)

/-- A sample that is owed names the bundle about to issue (R341) (log entry 92). -/
def execSampleTrigger (c : Nat) (s : State) : Out := .next (if s.executes c then s.setCore c (s.core c).lateSample else s)

/-- A counter at its largest value counts one miss of L1 or of the micro-TLB more, events that the model has come about at any time; the
counters of other events wrap as these come about (R347) (log entries 7 and 92). -/
def State.pmcWrap (s : State) (c n : Nat) : State :=
  let x := s.core c
  if (x.pmc[n]?) = some (BitVec.allOnes 64) && (x.pmcEvent n = 11 || x.pmcEvent n = 12) then s.setCore c (x.addPmc n 1 x.next) else s

def execPmcOverflow (c n : Nat) (s : State) : Out := .next (s.pmcWrap c n)

/-! ## Control space (spec/14 R317 to R325) -/

def execSqRecordWrite (d : Nat) (s : State) : Out := .next (s.writeRecord d)
def execControlSpaceWrite (d off : Nat) (v : Word) (s : State) : Out := .next (s.plainWrite d off v)
def execCcbImageWrite (c n : Nat) (v : Word) (s : State) : Out := .next (s.imageWrite c n v)
def execResume (c : Nat) (s : State) : Out := .next (s.resumeCore c)
def execKill (c : Nat) (s : State) : Out := .next (s.killCmd c)
def execStop (c : Nat) (s : State) : Out := .next (s.stopCmd c)
def execPreempt (c : Nat) (s : State) : Out := .next (s.preemptCmd c)
def execPark (c : Nat) (s : State) : Out := .next (s.parkCmd c)

/-- JOBRESUME: a collective that goes on takes up its traffic again. -/
def execJobresume (c slot : Nat) (s : State) : Out := .next ((s.jobResume c slot).collPump c slot)
def execJobkill (c slot : Nat) (s : State) : Out := .next (s.jobKill c slot)
def execTlbicmd (d : Nat) (v : Word) (s : State) : Out := .next ((s.shoot? d v).getD s)
def execTlbiDone (d : Nat) (s : State) : Out := .next (s.shootDone d)

/-! ## Soft errors found (spec/14 R336, spec/17 R396) -/

/-- A wake cannot read its record: it is dropped and counted at the root (R183). -/
def State.softWake (s : State) (e : SoftErr) (c i : Nat) : State :=
  match (s.core c).outs[i]? with
  | none => s
  | some a => match a.kind, a.tgt with
    | .write _, .port p off => match s.launch? (some p) with
      | some l =>
        if a.whole && off % 64 = 0 && l.onDie (off / 64) && (s.core c).mayPerform i a then
          let t := (s.softAlone e).dropAt (off / 64) l.root.toNat
          t.setCore c ((t.core c).dropOut i)
        else s
      | none => s
    | _, _ => s

/-- An error is found (R336); one of a walk names the page table, unit 6, and one of a read that a submit makes has the address of that
read in TRAPINFO (R399) (log entry 90). -/
def State.softError (s : State) (e : SoftErr) : State :=
  let table : SoftErr := { e with unit := 6#4 }
  match e.who with
  | .core c => s.softTrap e c cSOFTERR (SoftErr.info e)
  | .submitRead c va => s.softTrap e c cSOFTERR va
  | .parityOnce c => s.emptyTurn c []
  | .job c slot => s.softJob e c slot fun t => t.endJob c slot 3 cSOFTERR
  | .walk c va => s.softTrap table c cXLATE va
  | .jobWalk c slot va => s.softJob table c slot fun t => t.jobMeets c slot cXLATE va
  | .wake c i => s.softWake e c i
  | .link k =>
    if (s.linkCore k).state.toNat < 2 then (s.softAlone e).linkStop k lcSOFTERR (e.loc.setWidth 32) else s.softAlone e
  | .nobody => s.softAlone e

def execSoftError (e : SoftErr) (s : State) : Out := .next (s.softError e)

/-! ## Answers to remote accesses (spec/08 R195) -/

/-- The request was given up before an answer came. -/
def answerLate (r : RemoteAnswer) : Bool := match r with | .timeout _ => true | _ => false

/-- The answer that a core waits for comes, or a posted access whose packet has been retired is acknowledged (R394) (log entry 39). -/
def State.remoteAnswer (s : State) (c : Nat) (r : RemoteAnswer) : State :=
  let x := s.core c
  match r with
  | .posted i => match x.posted[i]? with
    | some a => if s.standing c a < (x.posted.drop i).count a then s.unposted c (x.posted.eraseIdx i) else s
    | none => s
  | _ => if x.wait = Wait.remote && (answerLate r || s.unsent c true = 0) then s.setCore c { x with wait := .none, answer := some r } else s

def execRemoteResponse (c : Nat) (r : RemoteAnswer) (s : State) : Out := .next (s.remoteAnswer c r)

/-- The rejection of a posted access is held (log entries 39 and 47). -/
def State.holdReject (s : State) (c : Nat) (a : Word) : State :=
  let x := s.core c
  if (x.posted.take (x.posted.length - s.unsent c false)).contains a then s.rejected c a else s

def execRemoteRejectionHeld (c : Nat) (a : Word) (s : State) : Out := .next (s.holdReject c a)

end Sys2Proof.Machine
end

