-- ==== Sys2Proof/Machine/Dispatch.lean ====
section
/-! DEFINITION. The one dispatch from an instruction or event to its meaning. -/

namespace Sys2Proof.Machine

/-- The meaning of each row of the opcode table: one direct call of its own definition. -/
def exec (i : Instr) (s : State) : Host.Outcome State Fault Refusal :=
  match i with
  | .add o => Sys2Proof.Machine.execAdd o s
  | .sub o => Sys2Proof.Machine.execSub o s
  | .and o => Sys2Proof.Machine.execAnd o s
  | .or o => Sys2Proof.Machine.execOr o s
  | .xor o => Sys2Proof.Machine.execXor o s
  | .andn o => Sys2Proof.Machine.execAndn o s
  | .orn o => Sys2Proof.Machine.execOrn o s
  | .xnor o => Sys2Proof.Machine.execXnor o s
  | .sll o => Sys2Proof.Machine.execSll o s
  | .srl o => Sys2Proof.Machine.execSrl o s
  | .sra o => Sys2Proof.Machine.execSra o s
  | .rol o => Sys2Proof.Machine.execRol o s
  | .min o => Sys2Proof.Machine.execMin o s
  | .max o => Sys2Proof.Machine.execMax o s
  | .minu o => Sys2Proof.Machine.execMinu o s
  | .maxu o => Sys2Proof.Machine.execMaxu o s
  | .mul o => Sys2Proof.Machine.execMul o s
  | .mulh o => Sys2Proof.Machine.execMulh o s
  | .mulhu o => Sys2Proof.Machine.execMulhu o s
  | .div o => Sys2Proof.Machine.execDiv o s
  | .divu o => Sys2Proof.Machine.execDivu o s
  | .rem o => Sys2Proof.Machine.execRem o s
  | .remu o => Sys2Proof.Machine.execRemu o s
  | .absd o => Sys2Proof.Machine.execAbsd o s
  | .clz o => Sys2Proof.Machine.execClz o s
  | .ctz o => Sys2Proof.Machine.execCtz o s
  | .popc o => Sys2Proof.Machine.execPopc o s
  | .brev o => Sys2Proof.Machine.execBrev o s
  | .sext8 o => Sys2Proof.Machine.execSext8 o s
  | .sext16 o => Sys2Proof.Machine.execSext16 o s
  | .sext32 o => Sys2Proof.Machine.execSext32 o s
  | .zext32 o => Sys2Proof.Machine.execZext32 o s
  | .cmpEq o => Sys2Proof.Machine.execCmpEq o s
  | .cmpNe o => Sys2Proof.Machine.execCmpNe o s
  | .cmpLt o => Sys2Proof.Machine.execCmpLt o s
  | .cmpLtu o => Sys2Proof.Machine.execCmpLtu o s
  | .cmpGe o => Sys2Proof.Machine.execCmpGe o s
  | .cmpGeu o => Sys2Proof.Machine.execCmpGeu o s
  | .cmpTz o => Sys2Proof.Machine.execCmpTz o s
  | .cmpTnz o => Sys2Proof.Machine.execCmpTnz o s
  | .addi o => Sys2Proof.Machine.execAddi o s
  | .andi o => Sys2Proof.Machine.execAndi o s
  | .ori o => Sys2Proof.Machine.execOri o s
  | .xori o => Sys2Proof.Machine.execXori o s
  | .slli o => Sys2Proof.Machine.execSlli o s
  | .srli o => Sys2Proof.Machine.execSrli o s
  | .srai o => Sys2Proof.Machine.execSrai o s
  | .roli o => Sys2Proof.Machine.execRoli o s
  | .cmpiEq o => Sys2Proof.Machine.execCmpiEq o s
  | .cmpiNe o => Sys2Proof.Machine.execCmpiNe o s
  | .cmpiLt o => Sys2Proof.Machine.execCmpiLt o s
  | .cmpiLtu o => Sys2Proof.Machine.execCmpiLtu o s
  | .cmpiGe o => Sys2Proof.Machine.execCmpiGe o s
  | .cmpiGeu o => Sys2Proof.Machine.execCmpiGeu o s
  | .movi o => Sys2Proof.Machine.execMovi o s
  | .movh o => Sys2Proof.Machine.execMovh o s
  | .bext o => Sys2Proof.Machine.execBext o s
  | .bextu o => Sys2Proof.Machine.execBextu o s
  | .bins o => Sys2Proof.Machine.execBins o s
  | .lop3 o => Sys2Proof.Machine.execLop3 o s
  | .sel o => Sys2Proof.Machine.execSel o s
  | .pand o => Sys2Proof.Machine.execPand o s
  | .por o => Sys2Proof.Machine.execPor o s
  | .pxor o => Sys2Proof.Machine.execPxor o s
  | .pandn o => Sys2Proof.Machine.execPandn o s
  | .pnot o => Sys2Proof.Machine.execPnot o s
  | .pdany o => Sys2Proof.Machine.execPdany o s
  | .pdall o => Sys2Proof.Machine.execPdall o s
  | .ptos o => Sys2Proof.Machine.execPtos o s
  | .faddS o => Sys2Proof.Machine.execFaddS o s
  | .fsubS o => Sys2Proof.Machine.execFsubS o s
  | .fmulS o => Sys2Proof.Machine.execFmulS o s
  | .fdivS o => Sys2Proof.Machine.execFdivS o s
  | .fminS o => Sys2Proof.Machine.execFminS o s
  | .fmaxS o => Sys2Proof.Machine.execFmaxS o s
  | .fsqrtS o => Sys2Proof.Machine.execFsqrtS o s
  | .fabsS o => Sys2Proof.Machine.execFabsS o s
  | .faddD o => Sys2Proof.Machine.execFaddD o s
  | .fsubD o => Sys2Proof.Machine.execFsubD o s
  | .fmulD o => Sys2Proof.Machine.execFmulD o s
  | .fdivD o => Sys2Proof.Machine.execFdivD o s
  | .fminD o => Sys2Proof.Machine.execFminD o s
  | .fmaxD o => Sys2Proof.Machine.execFmaxD o s
  | .fsqrtD o => Sys2Proof.Machine.execFsqrtD o s
  | .fabsD o => Sys2Proof.Machine.execFabsD o s
  | .fmaS o => Sys2Proof.Machine.execFmaS o s
  | .fmsS o => Sys2Proof.Machine.execFmsS o s
  | .fnmaS o => Sys2Proof.Machine.execFnmaS o s
  | .fnmsS o => Sys2Proof.Machine.execFnmsS o s
  | .fmaD o => Sys2Proof.Machine.execFmaD o s
  | .fmsD o => Sys2Proof.Machine.execFmsD o s
  | .fnmaD o => Sys2Proof.Machine.execFnmaD o s
  | .fnmsD o => Sys2Proof.Machine.execFnmsD o s
  | .feqS o => Sys2Proof.Machine.execFeqS o s
  | .fltS o => Sys2Proof.Machine.execFltS o s
  | .fleS o => Sys2Proof.Machine.execFleS o s
  | .funS o => Sys2Proof.Machine.execFunS o s
  | .feqD o => Sys2Proof.Machine.execFeqD o s
  | .fltD o => Sys2Proof.Machine.execFltD o s
  | .fleD o => Sys2Proof.Machine.execFleD o s
  | .funD o => Sys2Proof.Machine.execFunD o s
  | .cvtSD o => Sys2Proof.Machine.execCvtSD o s
  | .cvtDS o => Sys2Proof.Machine.execCvtDS o s
  | .cvtSL o => Sys2Proof.Machine.execCvtSL o s
  | .cvtSLu o => Sys2Proof.Machine.execCvtSLu o s
  | .cvtDL o => Sys2Proof.Machine.execCvtDL o s
  | .cvtDLu o => Sys2Proof.Machine.execCvtDLu o s
  | .cvtLS o => Sys2Proof.Machine.execCvtLS o s
  | .cvtLuS o => Sys2Proof.Machine.execCvtLuS o s
  | .cvtLD o => Sys2Proof.Machine.execCvtLD o s
  | .cvtLuD o => Sys2Proof.Machine.execCvtLuD o s
  | .cvtHS o => Sys2Proof.Machine.execCvtHS o s
  | .cvtSH o => Sys2Proof.Machine.execCvtSH o s
  | .br o => Sys2Proof.Machine.execBr o s
  | .call o => Sys2Proof.Machine.execCall o s
  | .jr o => Sys2Proof.Machine.execJr o s
  | .jrl o => Sys2Proof.Machine.execJrl o s
  | .ret o => Sys2Proof.Machine.execRet o s
  | .loop o => Sys2Proof.Machine.execLoop o s
  | .nop o => Sys2Proof.Machine.execNop o s
  | .joinAll o => Sys2Proof.Machine.execJoinAll o s
  | .joinAny o => Sys2Proof.Machine.execJoinAny o s
  | .suspend o => Sys2Proof.Machine.execSuspend o s
  | .yield o => Sys2Proof.Machine.execYield o s
  | .exit o => Sys2Proof.Machine.execExit o s
  | .trap o => Sys2Proof.Machine.execTrap o s
  | .brk o => Sys2Proof.Machine.execBrk o s
  | .dsync o => Sys2Proof.Machine.execDsync o s
  | .ifence o => Sys2Proof.Machine.execIfence o s
  | .rft o => Sys2Proof.Machine.execRft o s
  | .seghint o => Sys2Proof.Machine.execSeghint o s
  | .mfc o => Sys2Proof.Machine.execMfc o s
  | .mtc o => Sys2Proof.Machine.execMtc o s
  | .mset o => Sys2Proof.Machine.execMset o s
  | .mclr o => Sys2Proof.Machine.execMclr o s
  | .pfxm o => Sys2Proof.Machine.execPfxm o s
  | .pfxa o => Sys2Proof.Machine.execPfxa o s
  | .ld8 o => Sys2Proof.Machine.execLd8 o s
  | .ld16 o => Sys2Proof.Machine.execLd16 o s
  | .ld32 o => Sys2Proof.Machine.execLd32 o s
  | .ld64 o => Sys2Proof.Machine.execLd64 o s
  | .ld8s o => Sys2Proof.Machine.execLd8s o s
  | .ld16s o => Sys2Proof.Machine.execLd16s o s
  | .ld32s o => Sys2Proof.Machine.execLd32s o s
  | .st8 o => Sys2Proof.Machine.execSt8 o s
  | .st16 o => Sys2Proof.Machine.execSt16 o s
  | .st32 o => Sys2Proof.Machine.execSt32 o s
  | .st64 o => Sys2Proof.Machine.execSt64 o s
  | .vld o => Sys2Proof.Machine.execVld o s
  | .vst o => Sys2Proof.Machine.execVst o s
  | .vgath o => Sys2Proof.Machine.execVgath o s
  | .vscat o => Sys2Proof.Machine.execVscat o s
  | .aadd o => Sys2Proof.Machine.execAadd o s
  | .amin o => Sys2Proof.Machine.execAmin o s
  | .amax o => Sys2Proof.Machine.execAmax o s
  | .aand o => Sys2Proof.Machine.execAand o s
  | .aor o => Sys2Proof.Machine.execAor o s
  | .axor o => Sys2Proof.Machine.execAxor o s
  | .axchg o => Sys2Proof.Machine.execAxchg o s
  | .afadd o => Sys2Proof.Machine.execAfadd o s
  | .acas o => Sys2Proof.Machine.execAcas o s
  | .tlook o => Sys2Proof.Machine.execTlook o s
  | .tset o => Sys2Proof.Machine.execTset o s
  | .tinv o => Sys2Proof.Machine.execTinv o s
  | .tpin o => Sys2Proof.Machine.execTpin o s
  | .tunpin o => Sys2Proof.Machine.execTunpin o s
  | .monitor o => Sys2Proof.Machine.execMonitor o s
  | .waitm o => Sys2Proof.Machine.execWaitm o s
  | .fence o => Sys2Proof.Machine.execFence o s
  | .efence o => Sys2Proof.Machine.execEfence o s
  | .cinv o => Sys2Proof.Machine.execCinv o s
  | .cwb o => Sys2Proof.Machine.execCwb o s
  | .cpref o => Sys2Proof.Machine.execCpref o s
  | .defer o => Sys2Proof.Machine.execDefer o s
  | .dqcnt o => Sys2Proof.Machine.execDqcnt o s
  | .dqdrain o => Sys2Proof.Machine.execDqdrain o s
  | .vadd o => Sys2Proof.Machine.execVadd o s
  | .vsub o => Sys2Proof.Machine.execVsub o s
  | .vmul o => Sys2Proof.Machine.execVmul o s
  | .vmin o => Sys2Proof.Machine.execVmin o s
  | .vmax o => Sys2Proof.Machine.execVmax o s
  | .vabs o => Sys2Proof.Machine.execVabs o s
  | .vneg o => Sys2Proof.Machine.execVneg o s
  | .vmulh o => Sys2Proof.Machine.execVmulh o s
  | .vand o => Sys2Proof.Machine.execVand o s
  | .vor o => Sys2Proof.Machine.execVor o s
  | .vxor o => Sys2Proof.Machine.execVxor o s
  | .vandn o => Sys2Proof.Machine.execVandn o s
  | .vnot o => Sys2Proof.Machine.execVnot o s
  | .vsll o => Sys2Proof.Machine.execVsll o s
  | .vsrl o => Sys2Proof.Machine.execVsrl o s
  | .vsra o => Sys2Proof.Machine.execVsra o s
  | .vlop3 o => Sys2Proof.Machine.execVlop3 o s
  | .vfma o => Sys2Proof.Machine.execVfma o s
  | .vfms o => Sys2Proof.Machine.execVfms o s
  | .vfnma o => Sys2Proof.Machine.execVfnma o s
  | .vfnms o => Sys2Proof.Machine.execVfnms o s
  | .veq o => Sys2Proof.Machine.execVeq o s
  | .vne o => Sys2Proof.Machine.execVne o s
  | .vlt o => Sys2Proof.Machine.execVlt o s
  | .vle o => Sys2Proof.Machine.execVle o s
  | .vgt o => Sys2Proof.Machine.execVgt o s
  | .vge o => Sys2Proof.Machine.execVge o s
  | .vun o => Sys2Proof.Machine.execVun o s
  | .vradd o => Sys2Proof.Machine.execVradd o s
  | .vrmax o => Sys2Proof.Machine.execVrmax o s
  | .vrmin o => Sys2Proof.Machine.execVrmin o s
  | .vrand o => Sys2Proof.Machine.execVrand o s
  | .vshuf o => Sys2Proof.Machine.execVshuf o s
  | .vslideu o => Sys2Proof.Machine.execVslideu o s
  | .vslided o => Sys2Proof.Machine.execVslided o s
  | .vzip o => Sys2Proof.Machine.execVzip o s
  | .vunzip o => Sys2Proof.Machine.execVunzip o s
  | .vmov o => Sys2Proof.Machine.execVmov o s
  | .vmovToScalar o => Sys2Proof.Machine.execVmovToScalar o s
  | .vbcst o => Sys2Proof.Machine.execVbcst o s
  | .vbcstScalar o => Sys2Proof.Machine.execVbcstScalar o s
  | .vcvt o => Sys2Proof.Machine.execVcvt o s
  | .vcvtq o => Sys2Proof.Machine.execVcvtq o s
  | .vdq o => Sys2Proof.Machine.execVdq o s
  | .vmaxexp o => Sys2Proof.Machine.execVmaxexp o s
  | .vsclmvToVector o => Sys2Proof.Machine.execVsclmvToVector o s
  | .vsclmvToScl o => Sys2Proof.Machine.execVsclmvToScl o s
  | .vrcp o => Sys2Proof.Machine.execVrcp o s
  | .vrsq o => Sys2Proof.Machine.execVrsq o s
  | .vexp2 o => Sys2Proof.Machine.execVexp2 o s
  | .vlog2 o => Sys2Proof.Machine.execVlog2 o s
  | .vcmul o => Sys2Proof.Machine.execVcmul o s
  | .vcmulj o => Sys2Proof.Machine.execVcmulj o s
  | .vcfma o => Sys2Proof.Machine.execVcfma o s
  | .mand o => Sys2Proof.Machine.execMand o s
  | .mor o => Sys2Proof.Machine.execMor o s
  | .mxor o => Sys2Proof.Machine.execMxor o s
  | .mandn o => Sys2Proof.Machine.execMandn o s
  | .mnot o => Sys2Proof.Machine.execMnot o s
  | .mpopc o => Sys2Proof.Machine.execMpopc o s
  | .mfirst o => Sys2Proof.Machine.execMfirst o s
  | .skupdv o => Sys2Proof.Machine.execSkupdv o s
  | .skqryv o => Sys2Proof.Machine.execSkqryv o s
  | .eset o => Sys2Proof.Machine.execEset o s
  | .mma o => Sys2Proof.Machine.execMma o s
  | .mzero o => Sys2Proof.Machine.execMzero o s
  | .mdrain o => Sys2Proof.Machine.execMdrain o s
  | .mcfg o => Sys2Proof.Machine.execMcfg o s
  | .copy o => Sys2Proof.Machine.execCopy o s
  | .cstrm o => Sys2Proof.Machine.execCstrm o s
  | .twait o => Sys2Proof.Machine.execTwait o s
  | .tcancel o => Sys2Proof.Machine.execTcancel o s
  | .tdep o => Sys2Proof.Machine.execTdep o s
  | .skupd o => Sys2Proof.Machine.execSkupd o s
  | .skadd o => Sys2Proof.Machine.execSkadd o s
  | .skclr o => Sys2Proof.Machine.execSkclr o s
  | .phinit o => Sys2Proof.Machine.execPhinit o s
  | .phreg o => Sys2Proof.Machine.execPhreg o s
  | .phdrop o => Sys2Proof.Machine.execPhdrop o s
  | .phsig o => Sys2Proof.Machine.execPhsig o s
  | .phwait o => Sys2Proof.Machine.execPhwait o s
  | .phsw o => Sys2Proof.Machine.execPhsw o s
  | .rdsend o => Sys2Proof.Machine.execRdsend o s
  | .xwr o => Sys2Proof.Machine.execXwr o s
  | .xwrPlace o => Sys2Proof.Machine.execXwrPlace o s
  | .xrd o => Sys2Proof.Machine.execXrd o s
  | .xamo o => Sys2Proof.Machine.execXamo o s
  | .xarm o => Sys2Proof.Machine.execXarm o s
  | .xcoll o => Sys2Proof.Machine.execXcoll o s
  | .tmark o => Sys2Proof.Machine.execTmark o s
  | .dolAdd o => Sys2Proof.Machine.execDolAdd o s
  | .dolSub o => Sys2Proof.Machine.execDolSub o s
  | .dolAnd o => Sys2Proof.Machine.execDolAnd o s
  | .dolOr o => Sys2Proof.Machine.execDolOr o s
  | .dolXor o => Sys2Proof.Machine.execDolXor o s
  | .dolSll o => Sys2Proof.Machine.execDolSll o s
  | .dolSrl o => Sys2Proof.Machine.execDolSrl o s
  | .dolAddi o => Sys2Proof.Machine.execDolAddi o s
  | .dolAndi o => Sys2Proof.Machine.execDolAndi o s
  | .dolOri o => Sys2Proof.Machine.execDolOri o s
  | .dolSlli o => Sys2Proof.Machine.execDolSlli o s
  | .dolSrli o => Sys2Proof.Machine.execDolSrli o s
  | .dolLui o => Sys2Proof.Machine.execDolLui o s
  | .dolLw o => Sys2Proof.Machine.execDolLw o s
  | .dolSw o => Sys2Proof.Machine.execDolSw o s
  | .dolLdc o => Sys2Proof.Machine.execDolLdc o s
  | .dolStc o => Sys2Proof.Machine.execDolStc o s
  | .dolBeq o => Sys2Proof.Machine.execDolBeq o s
  | .dolBne o => Sys2Proof.Machine.execDolBne o s
  | .dolBlt o => Sys2Proof.Machine.execDolBlt o s
  | .dolBltu o => Sys2Proof.Machine.execDolBltu o s
  | .dolJalr o => Sys2Proof.Machine.execDolJalr o s
  | .dolEwait o => Sys2Proof.Machine.execDolEwait o s
  | .dolRetx o => Sys2Proof.Machine.execDolRetx o s
  | .dolSetwin o => Sys2Proof.Machine.execDolSetwin o s
  | .dolSetpath o => Sys2Proof.Machine.execDolSetpath o s
  | .dolArmtmr o => Sys2Proof.Machine.execDolArmtmr o s
  | .dolSack o => Sys2Proof.Machine.execDolSack o s
  | .dolNaksend o => Sys2Proof.Machine.execDolNaksend o s
  | .dolPostc o => Sys2Proof.Machine.execDolPostc o s
  | .dolFailc o => Sys2Proof.Machine.execDolFailc o s
  | .dolRdstat o => Sys2Proof.Machine.execDolRdstat o s
  | .dolWrstat o => Sys2Proof.Machine.execDolWrstat o s
  | .dolHalt o => Sys2Proof.Machine.execDolHalt o s
  | .dolTrap o => Sys2Proof.Machine.execDolTrap o s
  | .loopEnd c => Sys2Proof.Machine.execLoopEnd c s
  | .monitorConfirm c => Sys2Proof.Machine.execMonitorConfirm c s
  | .monitorEvent c code => Sys2Proof.Machine.execMonitorEvent c code s
  | .waitmTimeout c => Sys2Proof.Machine.execWaitmTimeout c s
  | .queueSpillRefill q => Sys2Proof.Machine.execQueueSpillRefill q s
  | .sketchUpdateApply c ix => Sys2Proof.Machine.execSketchUpdateApply c ix s
  | .sketchQueryDone c ix => Sys2Proof.Machine.execSketchQueryDone c ix s
  | .phaserCommandArrive c ix => Sys2Proof.Machine.execPhaserCommandArrive c ix s
  | .phaserSignal c ix => Sys2Proof.Machine.execPhaserSignal c ix s
  | .phaserWaitComplete c => Sys2Proof.Machine.execPhaserWaitComplete c s
  | .exposedWriteback c => Sys2Proof.Machine.execExposedWriteback c s
  | .loadComplete c ix => Sys2Proof.Machine.execLoadComplete c ix s
  | .memoryPerform c ix => Sys2Proof.Machine.execMemoryPerform c ix s
  | .dieBatchWriteback d b => Sys2Proof.Machine.execDieBatchWriteback d b s
  | .pageWalk d va => Sys2Proof.Machine.execPageWalk d va s
  | .streamDeliver dm => Sys2Proof.Machine.execStreamDeliver dm s
  | .finderFill c a => Sys2Proof.Machine.execFinderFill c a s
  | .segmentLoad dm a => Sys2Proof.Machine.execSegmentLoad dm a s
  | .joinComplete dm => Sys2Proof.Machine.execJoinComplete dm s
  | .joinAnyClose dm => Sys2Proof.Machine.execJoinAnyClose dm s
  | .waitBudgetTick c => Sys2Proof.Machine.execWaitBudgetTick c s
  | .trapEntry c cause info => Sys2Proof.Machine.execTrapEntry c cause info s
  | .budgetStop c => Sys2Proof.Machine.execBudgetStop c s
  | .continuationStart dm => Sys2Proof.Machine.execContinuationStart dm s
  | .readyAging d => Sys2Proof.Machine.execReadyAging d s
  | .wakePortStore c ix => Sys2Proof.Machine.execWakePortStore c ix s
  | .wakePortRead c ix => Sys2Proof.Machine.execWakePortRead c ix s
  | .launchComplete l => Sys2Proof.Machine.execLaunchComplete l s
  | .jobStart c eng => Sys2Proof.Machine.execJobStart c eng s
  | .jobEnd c slot => Sys2Proof.Machine.execJobEnd c slot s
  | .jobFault c slot cause => Sys2Proof.Machine.execJobFault c slot cause s
  | .jobPark c slot a => Sys2Proof.Machine.execJobPark c slot a s
  | .copyGranule c slot => Sys2Proof.Machine.execCopyGranule c slot s
  | .cstrmGranule c slot => Sys2Proof.Machine.execCstrmGranule c slot s
  | .mmaStep c slot => Sys2Proof.Machine.execMmaStep c slot s
  | .mcfgApply c arr => Sys2Proof.Machine.execMcfgApply c arr s
  | .sketchJobGroup c slot => Sys2Proof.Machine.execSketchJobGroup c slot s
  | .reductionHandover c slot => Sys2Proof.Machine.execReductionHandover c slot s
  | .routerCombine d r => Sys2Proof.Machine.execRouterCombine d r s
  | .reductionDone c slot => Sys2Proof.Machine.execReductionDone c slot s
  | .reductionTimeout c slot => Sys2Proof.Machine.execReductionTimeout c slot s
  | .traceRecordWrite c => Sys2Proof.Machine.execTraceRecordWrite c s
  | .sampleTrigger c => Sys2Proof.Machine.execSampleTrigger c s
  | .pmcOverflow c n => Sys2Proof.Machine.execPmcOverflow c n s
  | .sqRecordWrite d => Sys2Proof.Machine.execSqRecordWrite d s
  | .controlSpaceWrite d off v => Sys2Proof.Machine.execControlSpaceWrite d off v s
  | .ccbImageWrite c n v => Sys2Proof.Machine.execCcbImageWrite c n v s
  | .resume c => Sys2Proof.Machine.execResume c s
  | .kill c => Sys2Proof.Machine.execKill c s
  | .stop c => Sys2Proof.Machine.execStop c s
  | .preempt c => Sys2Proof.Machine.execPreempt c s
  | .jobresume c slot => Sys2Proof.Machine.execJobresume c slot s
  | .jobkill c slot => Sys2Proof.Machine.execJobkill c slot s
  | .park c => Sys2Proof.Machine.execPark c s
  | .victimStop dm => Sys2Proof.Machine.execVictimStop dm s
  | .bankClaim c b => Sys2Proof.Machine.execBankClaim c b s
  | .victimRestore dm => Sys2Proof.Machine.execVictimRestore dm s
  | .tlbicmd d v => Sys2Proof.Machine.execTlbicmd d v s
  | .tlbiDone d => Sys2Proof.Machine.execTlbiDone d s
  | .softError e => Sys2Proof.Machine.execSoftError e s
  | .remoteResponse c r => Sys2Proof.Machine.execRemoteResponse c r s
  | .remoteRejectionHeld c a => Sys2Proof.Machine.execRemoteRejectionHeld c a s
  | .pdcOpen p => Sys2Proof.Machine.execPdcOpen p s
  | .pdcIdleClose k ix => Sys2Proof.Machine.execPdcIdleClose k ix s
  | .packetSend k ix => Sys2Proof.Machine.execPacketSend k ix s
  | .ackReceived k ix a => Sys2Proof.Machine.execAckReceived k ix a s
  | .trimNakReceived k ix psn => Sys2Proof.Machine.execTrimNakReceived k ix psn s
  | .notReadyNakReceived k ix psn => Sys2Proof.Machine.execNotReadyNakReceived k ix psn s
  | .rejectingNakReceived k ix psn reason => Sys2Proof.Machine.execRejectingNakReceived k ix psn reason s
  | .transportTimeout c slot => Sys2Proof.Machine.execTransportTimeout c slot s
  | .rmaWriteRequest r => Sys2Proof.Machine.execRmaWriteRequest r s
  | .rmaReadRequest r => Sys2Proof.Machine.execRmaReadRequest r s
  | .rmaAtomicRequest r => Sys2Proof.Machine.execRmaAtomicRequest r s
  | .incomingSend r => Sys2Proof.Machine.execIncomingSend r s
  | .placementPacket p => Sys2Proof.Machine.execPlacementPacket p s
  | .targetAutoAck k ix => Sys2Proof.Machine.execTargetAutoAck k ix s
  | .pathfail port => Sys2Proof.Machine.execPathfail port s
  | .linkup port => Sys2Proof.Machine.execLinkup port s
  | .lcTimerExpiry k ix => Sys2Proof.Machine.execLcTimerExpiry k ix s
  | .collectivePacket p => Sys2Proof.Machine.execCollectivePacket p s
  | .collectiveDone c slot => Sys2Proof.Machine.execCollectiveDone c slot s
  | .collectiveTimeout c slot => Sys2Proof.Machine.execCollectiveTimeout c slot s
  | .ewaitWake k => Sys2Proof.Machine.execEwaitWake k s
  | .lcRestart k => Sys2Proof.Machine.execLcRestart k s
  | .queueSlot q => Sys2Proof.Machine.execQueueSlot q s
  | .queueEnable q => Sys2Proof.Machine.execQueueEnable q s
  | .queueDisable q => Sys2Proof.Machine.execQueueDisable q s
  | .queueRelease q => Sys2Proof.Machine.execQueueRelease q s
  | .pktNop sync len h => Sys2Proof.Machine.execPktNop sync len h s
  | .launch sync sv cw => Sys2Proof.Machine.execLaunch sync sv cw s
  | .launchPre sync sv cw => Sys2Proof.Machine.execLaunchPre sync sv cw s
  | .write32 sync v a => Sys2Proof.Machine.execWrite32 sync v a s
  | .write64 sync a v => Sys2Proof.Machine.execWrite64 sync a v s
  | .pktCopy sync src dst len => Sys2Proof.Machine.execPktCopy sync src dst len s
  | .pktCopyDone q ix => Sys2Proof.Machine.execPktCopyDone q ix s
  | .waitmem sync p => Sys2Proof.Machine.execWaitmem sync p s
  | .waitmemSkip sync k p => Sys2Proof.Machine.execWaitmemSkip sync k p s
  | .waitmemTimeout q => Sys2Proof.Machine.execWaitmemTimeout q s
  | .ib sync a len => Sys2Proof.Machine.execIb sync a len s
  | .pktLoop sync n count => Sys2Proof.Machine.execPktLoop sync n count s
  | .ffence sync => Sys2Proof.Machine.execFfence sync s
  | .signal sync a v => Sys2Proof.Machine.execSignal sync a v s
  | .signalPhaser sync a v => Sys2Proof.Machine.execSignalPhaser sync a v s
  | .replaymark sync mark => Sys2Proof.Machine.execReplaymark sync mark s
  | .replaymarkHold sync mark => Sys2Proof.Machine.execReplaymarkHold sync mark s
  | .logRoomResume q => Sys2Proof.Machine.execLogRoomResume q s
  | .powerGood => Sys2Proof.Machine.execPowerGood s
  | .bootStageAdvance r => Sys2Proof.Machine.execBootStageAdvance r s
  | .deviceReset => Sys2Proof.Machine.execDeviceReset s
  | .reimage img => Sys2Proof.Machine.execReimage img s
  | .attestationRequest nonce => Sys2Proof.Machine.execAttestationRequest nonce s
  | .keyMailboxGo => Sys2Proof.Machine.execKeyMailboxGo s
  | .keyMailboxErase => Sys2Proof.Machine.execKeyMailboxErase s
  | .droopSag d => Sys2Proof.Machine.execDroopSag d s
  | .thermalThrottle => Sys2Proof.Machine.execThermalThrottle s
  | .thermalRecover => Sys2Proof.Machine.execThermalRecover s
  | .thermalShutdown => Sys2Proof.Machine.execThermalShutdown s
  | .trimmedPacketReceived k ix psn => Sys2Proof.Machine.execTrimmedPacketReceived k ix psn s
  | .droopEnd d => Sys2Proof.Machine.execDroopEnd d s

end Sys2Proof.Machine
end

