-- ==== Sys2Proof/Machine/Step.lean ====
section
/-! DEFINITION. One step of the device: whose turn it is, and the placing of an instruction where the next step fetches it. -/

namespace Sys2Proof.Machine

/-- An event: an instruction that is neither a syllable, nor a Dolelm instruction, nor a packet, which runs from the slot of its queue
only (log entries 4 and 16). -/
def isEvent (i : Instr) : Bool :=
  match i with
  | .pktNop _ _ _ | .launch _ _ _ | .launchPre _ _ _ | .write32 _ _ _ | .write64 _ _ _ | .pktCopy _ _ _ _ => false
  | .waitmem _ _ | .waitmemSkip _ _ _ | .ib _ _ _ | .pktLoop _ _ _ | .ffence _ | .signal _ _ _ => false
  | .signalPhaser _ _ _ | .replaymark _ _ | .replaymarkHold _ _ => false
  | i => (encode i).isEmpty

/-- One step (log entry 4): the first turn of the agenda; with none, a turn of the core `cur`. -/
noncomputable def step (s : State) : Host.Outcome State Fault Refusal :=
  match s.agenda with
  | [] => coreTurn exec s.cur s
  | .core c :: r => coreTurn exec c { s with agenda := r }
  | .link k :: r => linkTurn exec k { s with agenda := r }
  | .event i :: r => if isEvent i then exec i { s with agenda := r } else .next { s with agenda := r }

/-- A word in the finder of a core. -/
def Core.placeWord (x : Core) (a : Nat) (w : Half) : Core :=
  let l := (tabGet? x.finder (a / 64)).getD 0#512
  x.putLine (a / 64) (l &&& ~~~(0xFFFFFFFF#512 <<< (8 * (a % 64))) ||| w.setWidth 512 <<< (8 * (a % 64)))

/-- A Dolelm word in the local memory of link core 0 at its PC, which runs and has the next turn (log entry 4). -/
def State.withDolWord (s : State) (w : Nat) : State :=
  let x := s.linkCore 0
  { s.setLink 0 { x with mem := Memory.write x.mem x.pc.toNat 4 w, state := 0#2 } with agenda := [.link 0] }

/-- A bundle of one syllable in the finder of core 0 at its next address, with a NOP that ends it where it does not end itself;
core 0 runs detached, in a dome of private kind, and has the next turn (log entry 4). -/
def State.withSyllable (s : State) (ws : List Half) : State :=
  let x := s.core 0
  let d := s.dome 0
  let all := if endOf (ws.headD 0#32) then ws else ws ++ [0x6A#32]
  let a := x.next.toNat
  let y := (List.range all.length).foldl (fun (b : Core) i => b.placeWord (a + 4 * i) (all.getD i 0#32)) x
  let s1 := s.setCore 0 { y with run := .running, join := .detached, wait := .none }
  { s1.setDome 0 { d with run := .priv } with cur := 0, agenda := [.core 0] }

/-- `s` with the instruction whose bits are `w` where the next step fetches it (log entry 4). -/
noncomputable def State.withFetchWord (s : State) (nbits w : Nat) : State :=
  match decodeTableWord nbits w with
  | some i =>
    if isDol i then s.withDolWord w
    else if nbits ≤ 32 then s.withSyllable [BitVec.ofNat 32 w]
    else s.withSyllable [BitVec.ofNat 32 w, BitVec.ofNat 32 (w / 2 ^ 32)]
  | none => s.withDolWord w

end Sys2Proof.Machine
end

