-- ==== Sys2Proof/WellFormed.lean ====
section
/-! DEFINITION. Well-formed instructions: the terms of `Instr` that some encoding of spec/02 and spec/17 stands for. -/

namespace Sys2Proof

/-- An instruction is well-formed if its operation exists in that form (R40, R45, R26), its fields are within the
limits of Tables 2-4 to 2-12 and 17-6 to 17-8, and its scalar sources name a register or a latch (R36). -/
abbrev WellFormed (i : Instr) : Prop := (opOk i && fieldsOk i && sourcesOk i && dolFieldsOk i) = true

end Sys2Proof
end

