-- ==== Sys2Proof/Safety.lean ====
section
/-! DEFINITION. What counts as a safe run, and the terms in which the claims are made: when a syllable has its effect, what
a syllable may write, and the rules of spec/04 and spec/05 as tables from an instruction to its latency and its function. -/

namespace Sys2Proof.Machine

/-- An outcome is a next state. -/
def Completes (o : Out) : Prop := ∃ t, o = .next t

/-- A step goes on to a next state. -/
def SafeStep (s : State) : Prop := Completes (step s)

/-- The decoder reads from the words that the encoder makes of a well-formed syllable the syllable they were made from. -/
def DecodesBack (i : Instr) : Prop :=
  WellFormed i → decodeSyllable ((encode i).getD 0 0#32) ((encode i).getD 1 0#32) = .ok i

/-- A syllable has its effect on the core whose turn it is (R13, R16, R21, R38, R330): its guard is true, and its guard predicate
and the registers it uses lie in the allotment and are the destination of no load of an earlier bundle that is outstanding, and no bank of
theirs is to be claimed from a pre-empted victim first. -/
structure Clear (g : Option Guard) (rs : List Reg) (s : State) : Prop where
  pred  : ∀ x, g = some x → x.g ≠ 0#5 → s.me.regAllot.getLsbD 8 = true
  guard : s.me.guardTrue g = true
  allot : ∀ r ∈ rs, s.me.regAllot.getLsbD r.bank = true
  idle  : ∀ r ∈ rs, s.busy r = false
  owed  : s.me.owedRegs rs = []

/-- With a true guard a syllable that uses these registers raises ALLOT with bank `b` (R13, R314). -/
def Refuses (s : State) (b : Nat) (i : Instr) (g : Option Guard) (rs : List Reg) : Prop :=
  s.me.guardTrue g = true → s.me.refused rs = some b → exec i s = trapOut cALLOT (BitVec.ofNat 64 (2 ^ 62 + b)) s

/-- A syllable that runs leaves the device as it is but for writes in flight of its own core, which `may` allows, and what
the bundle in issue remembers of it. -/
def RegFrame (i : Instr) (may : Write → Bool) : Prop :=
  ∀ s t, exec i s = .next t → t.issue.res = .ran →
    t = { s with cores := t.cores, issue := t.issue } ∧ (∀ c, c ≠ s.cur → s.core c = t.core c) ∧
      ∃ ws, t.me = { s.me with pend := s.me.pend ++ ws } ∧ ∀ p ∈ ws, may p.w = true

/-- What an access that only reads leaves as it was: memory, every other core, and on its own core all but the writes in flight that
`may` allows and what the core has outstanding. -/
def ReadFrame (s t : State) (may : Write → Bool) : Prop :=
  t = { s with cores := t.cores, dies := t.dies, issue := t.issue } ∧ (∀ d, t.die d = s.die d) ∧
    (∀ c, c ≠ s.cur → t.core c = s.core c) ∧
    ∃ ws as, t.me = { s.me with pend := s.me.pend ++ ws, outs := s.me.outs ++ as } ∧ ∀ p ∈ ws, may p.w = true

/-- What accesses that store to the byte intervals `ks`, given by key and length, leave as it was: every byte outside them, as the agents
of the die see it (and those of every die, where this one holds no copy), everything of every core but the codes of monitors, and on its
own core all but the writes in flight that `may` allows and what the core has outstanding; beside memory, only the die's copies and
clock, the pages that the launch has written, and what the bundle in issue remembers may differ. -/
def WriteFrame (s t : State) (ks : List (Nat × Nat)) (may : Write → Bool) : Prop :=
  (∀ d a, d = dieOf s.cur ∨ (s.die (dieOf s.cur)).copies = [] → (∀ k ∈ ks, a < k.1 ∨ k.1 + k.2 ≤ a) → t.seen d a 1 = s.seen d a 1) ∧
    t = { s with cores := t.cores, dies := t.dies, issue := t.issue, mem := t.mem, pages := t.pages } ∧
    (∀ d, d ≠ dieOf s.cur → t.die d = s.die d) ∧
    t.die (dieOf s.cur) = { s.die (dieOf s.cur) with copies := (t.die (dieOf s.cur)).copies, clock := (t.die (dieOf s.cur)).clock } ∧
    (∀ c, c ≠ s.cur → ∃ cs, t.core c = { s.core c with monitor := { (s.core c).monitor with codes := cs } }) ∧
    ∃ ws as cs, t.me = { s.me with pend := s.me.pend ++ ws, outs := s.me.outs ++ as, monitor := { s.me.monitor with codes := cs } } ∧
      ∀ p ∈ ws, may p.w = true

/-- Flags within a mask. -/
def onlyFlags (m : BitVec 7) (w : Write) : Bool := match w with | .flags f => f &&& ~~~m = 0#7 | _ => false

/-- A write of scalar register `d` where W is 1. -/
def mayS (w : Bool) (d : BitVec 6) (x : Write) : Bool := match x with | .s r _ => w && r = d | _ => false

/-- A write of predicate `d` where W is 1. -/
def mayP (w : Bool) (d : BitVec 6) (x : Write) : Bool := match x with | .p r _ => w && r = d.setWidth 5 | _ => false

/-- A write of vector register `d` in the lanes of a syllable. -/
def mayV (lg wd : BitVec 2) (d : BitVec 5) (x : Write) : Bool :=
  match x with | .v r bits _ => r = d && bits &&& ~~~vOnes (vBase lg) (vWidth wd) = 0#1024 | _ => false

/-- A write of mask `d`. -/
def mayM (d : BitVec 3) (x : Write) : Bool := match x with | .m r _ _ => r = d | _ => false

/-- Every arithmetic flag and SATF; LATINV. -/
def fArith : BitVec 7 := 0x3F#7

/-! ## Rules of spec/04 -/

/-- Table 4-1 and R92 for two sources, with the latencies of Table 1-3. -/
def aluRules : List ((S3 → Instr) × Nat × (Word → Word → Word)) :=
  [(.add, 1, fun a b => BitVec.ofNat 64 (a.toNat + b.toNat)), (.sub, 1, fun a b => BitVec.ofInt 64 (a.toInt - b.toInt)),
   (.and, 1, fun a b => a &&& b), (.or, 1, fun a b => a ||| b), (.xor, 1, fun a b => a ^^^ b),
   (.andn, 1, fun a b => a &&& ~~~b), (.orn, 1, fun a b => a ||| ~~~b), (.xnor, 1, fun a b => ~~~(a ^^^ b)),
   (.sll, 1, fun a b => a <<< (b.setWidth 6).toNat), (.srl, 1, fun a b => a >>> (b.setWidth 6).toNat),
   (.sra, 1, fun a b => a.sshiftRight (b.setWidth 6).toNat), (.rol, 1, fun a b => a.rotateLeft (b.setWidth 6).toNat),
   (.min, 1, fun a b => if a.toInt < b.toInt then a else b), (.max, 1, fun a b => if a.toInt < b.toInt then b else a),
   (.minu, 1, fun a b => if a.toNat < b.toNat then a else b), (.maxu, 1, fun a b => if a.toNat < b.toNat then b else a),
   (.mul, 3, fun a b => BitVec.ofNat 64 (a.toNat * b.toNat)),
   (.mulh, 3, fun a b => ((a.signExtend 128 * b.signExtend 128) >>> 64).setWidth 64),
   (.mulhu, 3, fun a b => ((a.setWidth 128 * b.setWidth 128) >>> 64).setWidth 64),
   (.absd, 3, fun a b => if a.toInt < b.toInt then BitVec.ofInt 64 (b.toInt - a.toInt) else BitVec.ofInt 64 (a.toInt - b.toInt))]

/-- R92: division. -/
def divRules : List ((S3 → Instr) × (Word → Word → Word)) :=
  [(.div, fun a b =>
      if b = 0#64 then 0xFFFFFFFFFFFFFFFF#64
      else if a = 0x8000000000000000#64 ∧ b = 0xFFFFFFFFFFFFFFFF#64 then 0x8000000000000000#64
      else BitVec.ofInt 64 (a.toInt.tdiv b.toInt)),
   (.divu, fun a b => if b = 0#64 then 0xFFFFFFFFFFFFFFFF#64 else BitVec.ofNat 64 (a.toNat / b.toNat)),
   (.rem, fun a b =>
      if b = 0#64 then a
      else if a = 0x8000000000000000#64 ∧ b = 0xFFFFFFFFFFFFFFFF#64 then 0#64
      else BitVec.ofInt 64 (a.toInt - b.toInt * a.toInt.tdiv b.toInt)),
   (.remu, fun a b => if b = 0#64 then a else BitVec.ofNat 64 (a.toNat - b.toNat * (a.toNat / b.toNat)))]

/-- ALU3 (Table 4-1). -/
def alu1Rules : List ((S3 → Instr) × (Word → Word)) :=
  [(.clz, fun a => if a = 0#64 then 64#64 else BitVec.ofNat 64 (63 - Nat.log2 a.toNat)),
   (.ctz, fun a => BitVec.ofNat 64 (((List.range 64).find? a.getLsbD).getD 64)),
   (.popc, fun a => BitVec.ofNat 64 ((List.range 64).countP a.getLsbD)),
   (.brev, fun a => BitVec.ofFnLE fun i => a.getLsbD (63 - i.val)),
   (.sext8, fun a => (a.extractLsb' 0 8).signExtend 64), (.sext16, fun a => (a.extractLsb' 0 16).signExtend 64),
   (.sext32, fun a => (a.extractLsb' 0 32).signExtend 64), (.zext32, fun a => a &&& 0xFFFFFFFF#64)]

/-- The conditions of R96 on two values. -/
def cmpRules : List ((S3 → Instr) × (Word → Word → Bool)) :=
  [(.cmpEq, fun a b => a == b), (.cmpNe, fun a b => a != b), (.cmpLt, fun a b => decide (a.toInt < b.toInt)),
   (.cmpLtu, fun a b => decide (a.toNat < b.toNat)), (.cmpGe, fun a b => decide (b.toInt ≤ a.toInt)),
   (.cmpGeu, fun a b => decide (b.toNat ≤ a.toNat))]

/-- CMP.TZ and CMP.TNZ. -/
def cmpZRules : List ((S3 → Instr) × (Word → Bool)) := [(.cmpTz, fun a => a.toNat == 0), (.cmpTnz, fun a => a.toNat != 0)]

/-- CMPI. -/
def cmpIRules : List ((SI → Instr) × (Word → Word → Bool)) :=
  [(.cmpiEq, fun a b => a == b), (.cmpiNe, fun a b => a != b), (.cmpiLt, fun a b => decide (a.toInt < b.toInt)),
   (.cmpiLtu, fun a b => decide (a.toNat < b.toNat)), (.cmpiGe, fun a b => decide (b.toInt ≤ a.toInt)),
   (.cmpiGeu, fun a b => decide (b.toNat ≤ a.toNat))]

/-- The immediate of R93: I10, or the 36-bit value that I10 and I26 form (R39). -/
def immRule (o : SI) : Word :=
  match o.ext with
  | none => BitVec.ofInt 64 o.i10.toInt
  | some x => BitVec.ofInt 64 (o.i10.toInt * 2 ^ 26 + x.1.toNat)

/-- The immediate of CMPI (R96). -/
def immCmpRule (o : SI) : Word :=
  match o.ext with
  | none => BitVec.ofInt 64 (o.i10.setWidth 7).toInt
  | some x => BitVec.ofInt 64 ((o.i10.setWidth 7).toInt * 2 ^ 26 + x.1.toNat)

/-- R93 and R94: the value the immediate stands for, and the function. -/
def aluIRules : List ((SI → Instr) × (SI → Word → Word)) :=
  [(.addi, fun o a => BitVec.ofInt 64 (a.toInt + (immRule o).toInt)), (.andi, fun o a => a &&& immRule o),
   (.ori, fun o a => a ||| immRule o), (.xori, fun o a => a ^^^ immRule o),
   (.slli, fun o a => a <<< (o.i10.setWidth 6).toNat), (.srli, fun o a => a >>> (o.i10.setWidth 6).toNat),
   (.srai, fun o a => a.sshiftRight (o.i10.setWidth 6).toNat), (.roli, fun o a => a.rotateLeft (o.i10.setWidth 6).toNat)]

/-- R97: predicate logic. -/
def plogRules : List ((S3 → Instr) × (Bool → Bool → Bool)) :=
  [(.pand, fun a b => a && b), (.por, fun a b => a || b), (.pxor, fun a b => xor a b), (.pandn, fun a b => a && !b),
   (.pnot, fun a _ => !a)]

/-- The field of BEXT and BEXTU (R99): bit `i` for `i < len` is bit `pos + i` of `a`, and bits beyond bit 63 read as 0. -/
def bfRule (signed : Bool) (a : Word) (pos len : Nat) : Word :=
  BitVec.ofFnLE fun i => if i.val < len then a.getLsbD (pos + i.val) else signed && a.getLsbD (pos + len - 1)

/-- BINS (R99), bit by bit. -/
def binsRule (a b : Word) (pos len : Nat) : Word :=
  BitVec.ofFnLE fun i => if pos ≤ i.val && i.val < pos + len then b.getLsbD (i.val - pos) else a.getLsbD i.val

/-- LOP3 (R100), bit by bit. -/
def lop3Rule (tt : BitVec 8) (a b c : Word) : Word :=
  BitVec.ofFnLE fun i => tt.getLsbD (4 * (a.getLsbD i.val).toNat + 2 * (b.getLsbD i.val).toNat + (c.getLsbD i.val).toNat)

/-! ## Scalar floating point -/

/-- The bits of a source that a format reads (R90). -/
def low (f : Nf) (x : Word) : Nat := x.toNat % 2 ^ f.width

/-- A floating result in flight: the draw where the result is rounded under SR, the value, its latch, its flags. -/
def resDone (fs : List (BitVec 7)) (w : Bool) (d : BitVec 6) (l : Nat) (rounds : Bool) (c : Codes) (s : State) (k : Nat → Res) :
    State :=
  let q := if rounds then (s.noteLatches fs).drawIf c else (0, s.noteLatches fs)
  (q.2.putS w d l (BitVec.ofNat 64 (k q.1).bits)).postFlags l (k q.1).fl

/-- As R102 has it, with no saturation code. -/
def fpDone (fs : List (BitVec 7)) (w : Bool) (d : BitVec 6) (l : Nat) (rounds : Bool) (s : State) (k : Codes → Nat → Res) : State :=
  let c := { s.codes with sat := 0 }
  resDone fs w d l rounds c s (k c)

/-- As R105 has it: an exact conversion takes no saturation code. -/
def cvtDone (fs : List (BitVec 7)) (w : Bool) (d : BitVec 6) (rounds : Bool) (s : State) (k : Codes → Nat → Res) : State :=
  let c := if rounds then s.codes else { s.codes with sat := 0 }
  resDone fs w d 4 rounds c s (k c)

/-- FADD, FSUB, FMUL and FDIV: format, latency, operation. -/
def fpRules : List ((S3 → Instr) × Nf × Nat × FOp) :=
  [(.faddS, .f32, 4, .add), (.fsubS, .f32, 4, .sub), (.fmulS, .f32, 4, .mul), (.fdivS, .f32, 12, .div),
   (.faddD, .f64, 6, .add), (.fsubD, .f64, 6, .sub), (.fmulD, .f64, 6, .mul), (.fdivD, .f64, 20, .div)]

/-- FMIN and FMAX. -/
def fpMmRules : List ((S3 → Instr) × Nf × Nat × Bool) :=
  [(.fminS, .f32, 4, true), (.fmaxS, .f32, 4, false), (.fminD, .f64, 6, true), (.fmaxD, .f64, 6, false)]

def fpSqrtRules : List ((S3 → Instr) × Nf × Nat) := [(.fsqrtS, .f32, 12), (.fsqrtD, .f64, 20)]

/-- FABS: latency and the bits it keeps. -/
def fpAbsRules : List ((S3 → Instr) × Nat × Word) := [(.fabsS, 4, 0x7FFFFFFF#64), (.fabsD, 6, 0x7FFFFFFFFFFFFFFF#64)]

/-- FMA, FMS, FNMA, FNMS: whether the product and the addend are negated. -/
def fpFmaRules : List ((S3X → Instr) × Nf × Nat × Bool × Bool) :=
  [(.fmaS, .f32, 4, false, false), (.fmsS, .f32, 4, false, true), (.fnmaS, .f32, 4, true, false), (.fnmsS, .f32, 4, true, true),
   (.fmaD, .f64, 6, false, false), (.fmsD, .f64, 6, false, true), (.fnmaD, .f64, 6, true, false), (.fnmsD, .f64, 6, true, true)]

/-- FEQ, FLT, FLE, FUN: whether every NaN sets NV, and the answer. -/
def fpCmpRules : List ((S3 → Instr) × Nf × Bool × (Option Ordering → Bool)) :=
  [(.feqS, .f32, false, fun r => r == some .eq), (.fltS, .f32, true, fun r => r == some .lt),
   (.fleS, .f32, true, fun r => r == some .lt || r == some .eq), (.funS, .f32, false, fun r => r == none),
   (.feqD, .f64, false, fun r => r == some .eq), (.fltD, .f64, true, fun r => r == some .lt),
   (.fleD, .f64, true, fun r => r == some .lt || r == some .eq), (.funD, .f64, false, fun r => r == none)]

/-- CVT.x.y: from, to, and whether the result is a rounded one. -/
def cvtRules : List ((S3 → Instr) × Nf × Nf × Bool) :=
  [(.cvtSD, .f64, .f32, true), (.cvtDS, .f32, .f64, false), (.cvtSL, .sint 64, .f32, true), (.cvtSLu, .uint 64, .f32, true),
   (.cvtDL, .sint 64, .f64, true), (.cvtDLu, .uint 64, .f64, true), (.cvtLS, .f32, .sint 64, true),
   (.cvtLuS, .f32, .uint 64, true), (.cvtLD, .f64, .sint 64, true), (.cvtLuD, .f64, .uint 64, true),
   (.cvtHS, .f32, .f16, true), (.cvtSH, .f16, .f32, false)]

/-- The exact value of a finite number. -/
def exactQ (neg : Bool) (m : Nat) (e : Int) : ℚ := (if neg then -1 else 1) * (m : ℚ) * (2 : ℚ) ^ e

/-! ## Memory accesses -/

/-- LD: bytes and sign (R206). -/
def loadRules : List ((Mem → Instr) × Nat × Bool) :=
  [(.ld8, 1, false), (.ld16, 2, false), (.ld32, 4, false), (.ld64, 8, false), (.ld8s, 1, true), (.ld16s, 2, true), (.ld32s, 4, true)]

/-- ST: bytes. -/
def storeRules : List ((Mem → Instr) × Nat) := [(.st8, 1), (.st16, 2), (.st32, 4), (.st64, 8)]

/-- The effective address of LD and ST (R206): OFF7 scaled by the size, or OFF26. -/
def eaRule (o : Mem) (n : Nat) (s : State) : Word :=
  s.me.src o.a + BitVec.ofInt 64 (match o.ext with
    | none => o.off.toInt * n
    | some x => x.1.toInt)

/-- A value of `w` bits extended to a register. -/
def extendRule (signed : Bool) (w x : Nat) : Word :=
  if signed then (BitVec.ofNat w x).signExtend 64 else (BitVec.ofNat w x).setWidth 64

/-- ATOM: the operations (R209). -/
def atomRules : List ((Atom → Instr) × Rmw) :=
  [(.aadd, .add), (.amin, .smin), (.amax, .smax), (.aand, .and), (.aor, .or), (.axor, .xor), (.axchg, .xchg), (.afadd, .fadd)]

/-! ## Vectors -/

/-- The 32-bit lanes of an operation: lane `i` at bit `b + 32 * i`. -/
def lanesRule (b n : Nat) (f : Nat → Nat) : VReg := (List.range n).foldl (fun a i => a ||| vAt (b + 32 * i) 32 (f i)) 0#1024

/-- An element-wise instruction: the registers it reads, its latency, the types whose results it rounds (and may draw for), and its
result on one part, from the type, the codes, the draw, the bits of the part, the parts of VA, VB and VC there, and X8. -/
structure VRule where
  op    : Vec → Instr
  reads : Vec → List Reg
  l     : Nat
  draws : Nat → Bool
  f     : Nat → Codes → Nat → Nat → Nat → Nat → Nat → BitVec 8 → Res

/-- VA; VA and VB; VA, VB and VC. -/
def rdA (o : Vec) : List Reg := [.v o.va]
def rdAB (o : Vec) : List Reg := [.v o.va, .v o.vb]
def rdABC (o : Vec) : List Reg := [.v o.va, .v o.vb, .v (vx o).vc]

/-- An exact integer operation brought to w bits, or a rounded operation of the float type (R130). -/
def arithRule (fo : FOp) (fi : Int → Int → Int) (t : Nat) (c : Codes) (q w a b : Nat) : Res :=
  if isIntT t then intReduce w c.sat (fi (toInt w a) (toInt w b)) else fop fo (Nf.ofType t) c q a b

/-- The minimum or the maximum of two elements (R79, R130). -/
def mmRule (isMin : Bool) (t : Nat) (c : Codes) (w a b : Nat) : Res :=
  if isIntT t then exact (if (toInt w a ≤ toInt w b) = isMin then a else b)
  else limitRes (Nf.ofType t) c (minMax (Nf.ofType t) c isMin a b)

/-- R130 to R133 and R138. -/
def vRules : List VRule :=
  [{ op := .vadd, reads := rdAB, l := 2, draws := drawsFloat, f := fun t c q w a b _ _ => arithRule .add (· + ·) t c q w a b },
   { op := .vsub, reads := rdAB, l := 2, draws := drawsFloat, f := fun t c q w a b _ _ => arithRule .sub (· - ·) t c q w a b },
   { op := .vmul, reads := rdAB, l := 2, draws := drawsFloat, f := fun t c q w a b _ _ => arithRule .mul (· * ·) t c q w a b },
   { op := .vmin, reads := rdAB, l := 2, draws := drawsNever, f := fun t c _ w a b _ _ => mmRule true t c w a b },
   { op := .vmax, reads := rdAB, l := 2, draws := drawsNever, f := fun t c _ w a b _ _ => mmRule false t c w a b },
   { op := .vabs, reads := rdA, l := 2, draws := drawsNever,
     f := fun t c _ w a _ _ _ => if isIntT t then intReduce w c.sat (toInt w a).natAbs else exact (a % 2 ^ (w - 1)) },
   { op := .vneg, reads := rdA, l := 2, draws := drawsNever,
     f := fun t c _ w a _ _ _ => if isIntT t then intReduce w c.sat (-toInt w a) else exact ((a + 2 ^ (w - 1)) % 2 ^ w) },
   { op := .vmulh, reads := rdAB, l := 2, draws := drawsNever,
     f := fun _ _ _ w a b _ _ => exact (ofInt w (toInt w a * toInt w b / 2 ^ w)) }] ++
  [{ op := .vand, reads := rdAB, l := 2, draws := drawsNever, f := fun _ _ _ _ a b _ _ => exact (a &&& b) },
   { op := .vor, reads := rdAB, l := 2, draws := drawsNever, f := fun _ _ _ _ a b _ _ => exact (a ||| b) },
   { op := .vxor, reads := rdAB, l := 2, draws := drawsNever, f := fun _ _ _ _ a b _ _ => exact (a ^^^ b) },
   { op := .vandn, reads := rdAB, l := 2, draws := drawsNever, f := fun _ _ _ w a b _ _ => exact (a &&& (2 ^ w - 1 - b)) },
   { op := .vnot, reads := rdA, l := 2, draws := drawsNever, f := fun _ _ _ w a _ _ _ => exact (2 ^ w - 1 - a) },
   { op := .vsll, reads := rdAB, l := 2, draws := drawsNever, f := fun _ _ _ w a b _ _ => exact (a * 2 ^ (b % w) % 2 ^ w) },
   { op := .vsrl, reads := rdAB, l := 2, draws := drawsNever, f := fun _ _ _ w a b _ _ => exact (a / 2 ^ (b % w)) },
   { op := .vsra, reads := rdAB, l := 2, draws := drawsNever,
     f := fun _ _ _ w a b _ _ => exact (ofInt w (toInt w a / 2 ^ (b % w))) },
   { op := .vlop3, reads := rdABC, l := 2, draws := drawsNever,
     f := fun _ _ _ w a b c x => exact ((lop3Rule x (BitVec.ofNat 64 a) (BitVec.ofNat 64 b) (BitVec.ofNat 64 c)).toNat % 2 ^ w) }] ++
  [{ op := .vfma, reads := rdABC, l := 4, draws := drawsFloat, f := fun t c q _ x y z _ => ffma (Nf.ofType t) c q false false x y z },
   { op := .vfms, reads := rdABC, l := 4, draws := drawsFloat, f := fun t c q _ x y z _ => ffma (Nf.ofType t) c q false true x y z },
   { op := .vfnma, reads := rdABC, l := 4, draws := drawsFloat, f := fun t c q _ x y z _ => ffma (Nf.ofType t) c q true false x y z },
   { op := .vfnms, reads := rdABC, l := 4, draws := drawsFloat, f := fun t c q _ x y z _ => ffma (Nf.ofType t) c q true true x y z },
   { op := .vrcp, reads := rdA, l := 8, draws := drawsFloat, f := fun t c q _ a _ _ _ => sfu .rcp (Nf.ofType t) c q a },
   { op := .vrsq, reads := rdA, l := 8, draws := drawsFloat, f := fun t c q _ a _ _ _ => sfu .rsq (Nf.ofType t) c q a },
   { op := .vexp2, reads := rdA, l := 8, draws := drawsFloat, f := fun t c q _ a _ _ _ => sfu .exp2 (Nf.ofType t) c q a },
   { op := .vlog2, reads := rdA, l := 8, draws := drawsFloat, f := fun t c q _ a _ _ _ => sfu .log2 (Nf.ofType t) c q a }]

/-- The bits of a part: half an element of a complex type, else an element. -/
def partRule (t : Nat) : Nat := if t < 6 then elBits t else if t = 6 then 32 else 16

/-- A vector result in flight: its bits after its latency, its flags, and the seed that its draws have reached. -/
def vPut (s : State) (vd : BitVec 5) (l : Nat) (draws : Bool) (a : VAcc) : State :=
  let s1 := if draws then { s with issue := { s.issue with seed := some a.seed } } else s
  (s1.post l (.v vd a.bits a.x)).postFlags l a.fl

/-- The active elements of the lane groups in lane order, part by part, by `f` (R65, R73, R126). -/
def vDone (o : Vec) (l : Nat) (draws : Nat → Bool) (s : State) (f : Nat → Codes → Nat → Nat → Nat → Res) : State :=
  let t := s.elType (vx o).fmto
  let dr := draws t && s.codes.mode = 6
  vPut s o.vd l dr (vLoop (s.me.getM (vx o).msk) (256 * o.lg.toNat) (256 * 2 ^ o.wd.toNat / elBits t) (elBits t) (vParts t) dr
    s.seedNow fun pos q => f t s.codes q (partRule t) pos)

/-- One part of a complex product, from the parts of VA, VB and VC (R138): `conj` conjugates the second factor; the sum of the
products, and of the addend, is rounded once. -/
def cplxRule (conj : Bool) (t : Nat) (c : Codes) (q : Nat) (re : Bool) (ar ai br bi : Nat) (add : Option Nat) : Res :=
  let f := Nf.ofType t
  let rd (x : Nat) : Val := f.read c.ftz x
  let ps : List (Bool × Val × Val) :=
    if re then [(false, rd ar, rd br), (!conj, rd ai, rd bi)]
    else if conj then [(false, rd ai, rd br), (true, rd ar, rd bi)] else [(false, rd ar, rd bi), (false, rd ai, rd br)]
  dotRes f c q ([rd ar, rd ai, rd br, rd bi] ++ (add.map rd).toList) ps (add.map rd)

/-- VCMUL, VCMULJ, VCFMA: whether they conjugate, and whether they add. -/
def cplxRules : List ((Vec → Instr) × Bool × Bool) := [(.vcmul, false, false), (.vcmulj, true, false), (.vcfma, false, true)]

/-- VCMP (R134): whether every NaN sets NV; the condition on the order of floats, on that of both parts of complex elements, and
on integers. -/
def vCmpRules : List ((Vec → Instr) × Bool × (Option Ordering → Bool) × (Option Ordering → Option Ordering → Bool) ×
    (Int → Int → Bool)) :=
  [(.veq, false, fun r => r == some .eq, fun r i => r == some .eq && i == some .eq, fun a b => a == b),
   (.vne, false, fun r => r != some .eq, fun r i => !(r == some .eq && i == some .eq), fun a b => a != b),
   (.vlt, true, fun r => r == some .lt, fun _ _ => false, fun a b => decide (a < b)),
   (.vle, true, fun r => r == some .lt || r == some .eq, fun _ _ => false, fun a b => decide (a ≤ b)),
   (.vgt, true, fun r => r == some .gt, fun _ _ => false, fun a b => decide (b < a)),
   (.vge, true, fun r => r == some .gt || r == some .eq, fun _ _ => false, fun a b => decide (b ≤ a)),
   (.vun, false, fun r => r == none, fun r i => r == none || i == none, fun _ _ => false)]

/-- A combining step of VRED, and the element that an inactive lane contributes (R84, R135). -/
structure RedRule where
  op    : Vec → Instr
  draws : Nat → Bool
  ident : Nat → Nat
  f     : Nat → Codes → Nat → Nat → Nat → Res

/-- VRADD, VRMAX, VRMIN, VRAND. -/
def redRules : List RedRule :=
  [{ op := .vradd, draws := drawsFloat, ident := fun t => if isIntT t then 0 else 2 ^ (partRule t - 1),
     f := fun t c q x y => arithRule .add (· + ·) t c q (elBits t) x y },
   { op := .vrmax, draws := drawsNever,
     ident := fun t => if isIntT t then 2 ^ (elBits t - 1) else 2 ^ (elBits t - 1) + infCode (Nf.ofType t),
     f := fun t c _ x y => mmRule false t c (elBits t) x y },
   { op := .vrmin, draws := drawsNever, ident := fun t => if isIntT t then 2 ^ (elBits t - 1) - 1 else infCode (Nf.ofType t),
     f := fun t c _ x y => mmRule true t c (elBits t) x y },
   { op := .vrand, draws := drawsNever, ident := fun t => 2 ^ partRule t - 1, f := fun _ _ _ x y => exact (x &&& y) }]

/-- VPERM (R136, R137): the registers it reads and element `i` of its result, from the elements of VA and of VB, their number,
their width, s[VA] and X8. -/
def permRules : List ((Vec → Instr) × (Vec → List Reg) × ((Nat → Nat) → (Nat → Nat) → Nat → Nat → Word → Nat → Nat → Nat)) :=
  [(.vshuf, rdAB, fun a b n _ _ _ i => if b i < n then a (b i) else 0),
   (.vslideu, rdAB, fun a b n _ _ x i => if i < x then b (n - x + i) else a (i - x)),
   (.vslided, rdAB, fun a b n _ _ x i => if i + x < n then a (i + x) else b (i + x - n)),
   (.vzip, rdAB, fun a b n _ _ x i => if i % 2 = 0 then a (x * n / 2 + i / 2) else b (x * n / 2 + i / 2)),
   (.vunzip, rdAB, fun a b n _ _ x i => if i < n / 2 then a (2 * i + x) else b (2 * (i - n / 2) + x)),
   (.vmov, rdA, fun a _ _ _ _ _ i => a i), (.vbcst, rdA, fun a _ _ _ _ x _ => a x),
   (.vbcstScalar, fun o => [.s (o.va.setWidth 6)], fun _ _ _ w v _ _ => v.toNat % 2 ^ w)]

/-- VMSK on masks (R140). -/
def maskRules : List ((Vec → Instr) × (Mask → Mask → Mask)) :=
  [(.mand, fun a b => a &&& b), (.mor, fun a b => a ||| b), (.mxor, fun a b => a ^^^ b), (.mandn, fun a b => a &&& ~~~b),
   (.mnot, fun a _ => ~~~a)]

/-- The groups that a syllable whose type has no meaning for it stops on (R127, R131, R138, R139, R297): the types it takes. -/
def vTypeRules : List ((Vec → Instr) × (Nat → Bool)) :=
  [(.vmul, fun t => t < 6), (.vmin, fun t => t < 6), (.vmax, fun t => t < 6), (.vabs, fun t => t < 6), (.vlt, fun t => t < 6),
   (.vle, fun t => t < 6), (.vgt, fun t => t < 6), (.vge, fun t => t < 6), (.vrmax, fun t => t < 6), (.vrmin, fun t => t < 6),
   (.vsll, fun t => t < 6), (.vsrl, fun t => t < 6), (.vsra, fun t => t < 6), (.vmulh, fun t => 3 ≤ t && t < 6),
   (.vfma, fun t => t < 3), (.vfms, fun t => t < 3), (.vfnma, fun t => t < 3), (.vfnms, fun t => t < 3), (.vrcp, fun t => t < 3),
   (.vrsq, fun t => t < 3), (.vexp2, fun t => t < 3), (.vlog2, fun t => t < 3), (.vmaxexp, fun t => t < 3),
   (.vcvtq, fun t => t < 3), (.vdq, fun t => t < 3), (.vcmul, fun t => 6 ≤ t), (.vcmulj, fun t => 6 ≤ t), (.vcfma, fun t => 6 ≤ t),
   (.skupdv, fun t => t = 0), (.skqryv, fun t => t = 0)]

/-! ## Engines -/

/-- The instructions that submit a job, with what each checks and puts into its slot (R264). -/
noncomputable def submitRules : List ((En → Instr) × (En → State → Submit)) :=
  [(.mma, mmaSubmit), (.mzero, mzeroSubmit), (.mdrain, mdrainSubmit), (.copy, fun _ => copySubmit), (.cstrm, fun _ => cstrmSubmit),
   (.skupd, fun _ => skupdSubmit), (.skadd, fun _ => skaddSubmit), (.skclr, fun _ => skclrSubmit), (.rdsend, fun _ => rdsendSubmit),
   (.xwr, fun _ => xwrSubmit), (.xwrPlace, fun _ => xwrSubmit), (.xrd, fun _ => xrdSubmit), (.xamo, fun _ => xamoSubmit),
   (.xarm, fun _ => xarmSubmit), (.xcoll, fun _ => xcollSubmit)]

/-- The jobs whose submit reads memory, after the accesses of its bundle that stand before it (R237, R305, R399). -/
def readsAtSubmit : JobKind → Bool
  | .skupd | .skadd | .skclr | .xcoll => true
  | _ => false

/-- Nothing of a submit fails (R264): its parameters and reads, the status area, the fusion mode, the banks and tiles it would touch,
its addresses, and no bank of a victim is to be claimed. -/
structure Accepted (u : Submit) (s : State) : Prop where
  params : u.hold = false ∧ u.early = none ∧ u.bad = none ∧ u.mode = false
  status : fld (s.me.eng.param 5 0) 22 41 = 0 ∧ ((s.me.eng.param 5 0).getLsbD 63 = true →
    fld (s.me.eng.param 5 0) 0 3 = 0 ∧ fld (s.me.eng.param 5 0) 0 22 + 512 ≤ 2 ^ 22)
  banks  : ∀ p ∈ u.locals ++ statusArea (s.me.eng.param 5 0), lowRefused s.me.spmAllot p = none
  tiles  : ∀ t ∈ u.tiles, s.me.accAllot.getLsbD t = true
  forms  : ∀ a ∈ u.forms, a ≠ 0#64 → ∃ k, s.syncAddr s.cur a = .ok k
  owed   : s.owedFor (u.locals ++ statusArea (s.me.eng.param 5 0)) (u.reads ++ u.writes) u.tiles = []

end Sys2Proof.Machine
end

