-- ==== Sys2Proof/Certificates/Slice0/Obligations.lean ====
section
/-! DEFINITION. The statements for the provers. A statement of several parts names them: each part is a proposition of its own,
under Sys2Proof.Claims, and the obligation is their conjunction. -/

open Sys2Proof Sys2Proof.Machine

/-- R19: a write of latency `l` stays in flight for `l - 1` ends of issue cycles and is made at the next. -/
def Obligations.ExposedWriteLandsAfterItsLatency : Prop :=
  ∀ (c : Core) (l n : Nat) (w : Write), c.pend = [] → 1 ≤ n → n ≤ l →
    (c.post l w).endCycles n = if n < l then c.post (l - n) w else c.apply w

/-- R12: register zero of each kind, and the write of every other register. -/
def Sys2Proof.Claims.RegisterZeroReadsConstant : Prop :=
  ∀ c : Core,
    c.getS 0#6 = 0#64 ∧ c.getP 0#5 = true ∧ c.getM 0#3 = BitVec.allOnes 128 ∧
    (∀ x, c.apply (.s 0#6 x) = c) ∧ (∀ b, c.apply (.p 0#5 b) = c) ∧ (∀ m x, c.apply (.m 0#3 m x) = c) ∧
    (∀ r q x, r ≠ 0#6 → (c.apply (.s r x)).getS q = if q = r then x else c.getS q) ∧
    (∀ r q b, r ≠ 0#5 → r.toNat < 24 → (c.apply (.p r b)).getP q = if q = r then b else c.getP q) ∧
    (∀ r q m x, r ≠ 0#3 → (c.apply (.m r m x)).getM q = if q = r then c.getM r &&& ~~~m ||| x &&& m else c.getM q) ∧
    (∀ r q m x, (c.apply (.v r m x)).getV q = if q = r then c.getV r &&& ~~~m ||| x &&& m else c.getV q)

/-- R22, R19: of two writes that are due at the same end of an issue cycle, the later issued is kept; EXPOSED_WRITEBACK makes the writes
of a core that does not execute, and leaves those of one that does to the bundles it issues (the model's, log entry 93). -/
def Sys2Proof.Claims.LaterIssuedWriteIsKept : Prop :=
  (∀ (c : Core) (r : BitVec 6) (x y : Word) (l m : Nat), r ≠ 0#6 → c.pend = [] → 1 ≤ m → m ≤ l →
    ((((c.post l (.s r x)).endCycles (l - m)).post m (.s r y)).endCycles m).getS r = y) ∧
  (∀ (c : Nat) (s : State), (s.executes c = false → exec (.exposedWriteback c) s = .next (s.setCore c (s.core c).endCycle)) ∧
    (s.executes c = true → exec (.exposedWriteback c) s = .next s))

/-- The register files: what a write leaves in them (R12) and which of two writes is kept (R22). EXPOSED_WRITEBACK is the model's (log entry 93). -/
def Obligations.RegistersReadWhatWasWritten : Prop :=
  Claims.RegisterZeroReadsConstant ∧ Claims.LaterIssuedWriteIsKept

/-- Table 4-1 (R91): every two-source integer operation writes its function of the sources after its latency. -/
def Sys2Proof.Claims.IntegerAluResults : Prop :=
  ∀ r ∈ aluRules, ∀ (o : S3) (s : State), Clear o.gw (srcReg o.a ++ srcReg o.b ++ dstReg o.w o.d) s →
    exec (r.1 o) s = .next ((s.noteLatches [o.a, o.b]).putS o.w o.d r.2.1 (r.2.2 (s.me.src o.a) (s.me.src o.b)))

/-- ALU3 of Table 4-1. -/
def Sys2Proof.Claims.OneSourceAluResults : Prop :=
  ∀ r ∈ alu1Rules, ∀ (o : S3) (s : State), Clear o.gw (srcReg o.a ++ dstReg o.w o.d) s →
    exec (r.1 o) s = .next ((s.noteLatches [o.a]).putS o.w o.d 1 (r.2 (s.me.src o.a)))

/-- R93, R94: immediates. -/
def Sys2Proof.Claims.ImmediateAluResults : Prop :=
  ∀ r ∈ aluIRules, ∀ (o : SI) (s : State), Clear (o.ext.map Prod.snd) (srcReg o.a ++ dstReg o.w o.d) s →
    exec (r.1 o) s = .next ((s.noteLatches [o.a]).putS o.w o.d 1 (r.2 o (s.me.src o.a)))

/-- R95: MOVI and MOVH. -/
def Sys2Proof.Claims.ConstantMoves : Prop :=
  (∀ (o : MovI) (s : State), Clear (some o.g) (dstReg o.w o.d) s →
    exec (.movi o) s = .next (s.putS o.w o.d 1 (BitVec.ofInt 64 o.imm.toInt))) ∧
  (∀ (o : MovH) (s : State), Clear none [.s o.d] s →
    exec (.movh o) s = .next (s.putS o.w o.d 1 (BitVec.ofNat 64 (o.imm.toNat * 2 ^ 32 + (s.me.getS o.d).toNat % 2 ^ 32))))

/-- The integer operations of Table 4-1 and their immediate forms (R91, R93 to R95). -/
def Obligations.IntegerArithmeticResults : Prop :=
  Claims.IntegerAluResults ∧ Claims.OneSourceAluResults ∧ Claims.ImmediateAluResults ∧ Claims.ConstantMoves

/-- R92: division. -/
def Obligations.DivisionTruncatesTowardZero : Prop :=
  ∀ r ∈ divRules, ∀ (o : S3) (s : State), Clear o.gw (srcReg o.a ++ srcReg o.b ++ dstReg o.w o.d) s →
    exec (r.1 o) s = .next ((s.noteLatches [o.a, o.b]).putS o.w o.d 12 (r.2 (s.me.src o.a) (s.me.src o.b)))

/-- R100: LOP3 looks each bit up in its truth table; the two examples of the rule are exclusive or and majority. -/
def Obligations.TruthTableLookup : Prop :=
  (∀ (o : S3X) (s : State), Clear (some o.g) (srcReg o.a ++ srcReg o.b ++ srcReg o.c ++ dstReg o.w o.d) s →
    exec (.lop3 o) s = .next ((s.noteLatches [o.a, o.b, o.c]).putS o.w o.d 1
      (lop3Rule o.x8 (s.me.src o.a) (s.me.src o.b) (s.me.src o.c)))) ∧
  (∀ (tt : BitVec 8) (a b c : Word) (i : Nat), i < 64 → (lop3Rule tt a b c).getLsbD i =
    tt.getLsbD (4 * (a.getLsbD i).toNat + 2 * (b.getLsbD i).toNat + (c.getLsbD i).toNat)) ∧
  (∀ a b c : Word, lop3Rule 0x96#8 a b c = a ^^^ b ^^^ c ∧ lop3Rule 0xE8#8 a b c = (a &&& b) ||| (a &&& c) ||| (b &&& c))

/-- R96: compares. -/
def Sys2Proof.Claims.CompareResults : Prop :=
  (∀ r ∈ cmpRules, ∀ (o : S3) (s : State), Clear o.gw (srcReg o.a ++ srcReg o.b ++ dstPred o.w) s →
    exec (r.1 o) s = .next ((s.noteLatches [o.a, o.b]).putP o.w o.d 1 (r.2 (s.me.src o.a) (s.me.src o.b)))) ∧
  (∀ r ∈ cmpZRules, ∀ (o : S3) (s : State), Clear o.gw (srcReg o.a ++ dstPred o.w) s →
    exec (r.1 o) s = .next ((s.noteLatches [o.a]).putP o.w o.d 1 (r.2 (s.me.src o.a)))) ∧
  (∀ r ∈ cmpIRules, ∀ (o : SI) (s : State), Clear (o.ext.map Prod.snd) (srcReg o.a ++ dstPred o.w) s →
    exec (r.1 o) s = .next ((s.noteLatches [o.a]).putP o.w o.d 1 (r.2 (s.me.src o.a) (immCmpRule o))))

/-- R101: SEL. -/
def Sys2Proof.Claims.SelectAlwaysWrites : Prop :=
  ∀ (o : S3X) (s : State),
    Clear none (srcReg o.a ++ srcReg o.b ++ dstReg o.w o.d ++ (if o.g.g = 0#5 then [] else [.p])) s →
    exec (.sel o) s = .next ((s.noteLatches [o.a, o.b]).putS o.w o.d 1
      (if s.me.getP o.g.g != o.g.gn then s.me.src o.a else s.me.src o.b))

/-- R97, R98: predicate logic, and a vote of a core outside the stream or of one in it. -/
def Sys2Proof.Claims.PredicateResults : Prop :=
  (∀ r ∈ plogRules, ∀ (o : S3) (s : State), Clear o.gw [.p] s →
    exec (r.1 o) s = .next (s.putP o.w o.d 1 (r.2 (s.me.getP (o.a.setWidth 5)) (s.me.getP (o.b.setWidth 5))))) ∧
  (∀ (o : S3) (s : State), Clear o.gw (.p :: dstReg o.w o.d) s →
    exec (.ptos o) s = .next (s.putS o.w o.d 1
      (BitVec.ofFnLE fun i : Fin 64 => i.val < 24 && s.me.getP (BitVec.ofNat 5 i.val)))) ∧
  (∀ (all : Bool) (o : S3) (s : State), Clear o.gw [.p] s →
    exec (if all then .pdall o else .pdany o) s =
      if s.me.join = .attached then
        .next (s.after (.vote { all := all, core := s.cur, b := s.me.getP (o.a.setWidth 5), w := o.w, d := o.d.setWidth 5,
                                pos := s.issue.pos, len := s.me.pend.length }))
      else .next (s.putP o.w o.d 1 (s.me.getP (o.a.setWidth 5))))

/-- R99: bit fields, bit by bit, for the positions and lengths that R41 admits. -/
def Sys2Proof.Claims.BitFieldResults : Prop :=
  ∀ (o : S3X) (s : State), o.x8.toNat < 64 → 1 ≤ o.c.toNat → o.c.toNat ≤ 64 →
    (Clear (some o.g) (srcReg o.a ++ dstReg o.w o.d) s →
      exec (.bext o) s = .next ((s.noteLatches [o.a]).putS o.w o.d 1 (bfRule true (s.me.src o.a) o.x8.toNat o.c.toNat)) ∧
      exec (.bextu o) s = .next ((s.noteLatches [o.a]).putS o.w o.d 1 (bfRule false (s.me.src o.a) o.x8.toNat o.c.toNat))) ∧
    (Clear (some o.g) (srcReg o.a ++ srcReg o.b ++ dstReg o.w o.d) s →
      exec (.bins o) s = .next ((s.noteLatches [o.a, o.b]).putS o.w o.d 1
        (binsRule (s.me.src o.a) (s.me.src o.b) o.x8.toNat o.c.toNat)))

/-- Compares, selects, predicate logic, votes and bit fields (R96 to R99, R101). -/
def Obligations.PredicatesAndBitFields : Prop :=
  Claims.CompareResults ∧ Claims.SelectAlwaysWrites ∧ Claims.PredicateResults ∧ Claims.BitFieldResults

/-- R102 to R104: each scalar floating-point instruction writes what its operation gives on the bits of its format, with
its flags; a rounded result draws under SR (R72). -/
def Sys2Proof.Claims.ScalarFloatResults : Prop :=
  (∀ r ∈ fpRules, ∀ (o : S3) (s : State), Clear o.gw (srcReg o.a ++ srcReg o.b ++ dstReg o.w o.d) s →
    exec (r.1 o) s = .next (fpDone [o.a, o.b] o.w o.d r.2.2.1 true s fun c q =>
      fop r.2.2.2 r.2.1 c q (low r.2.1 (s.me.src o.a)) (low r.2.1 (s.me.src o.b)))) ∧
  (∀ r ∈ fpMmRules, ∀ (o : S3) (s : State), Clear o.gw (srcReg o.a ++ srcReg o.b ++ dstReg o.w o.d) s →
    exec (r.1 o) s = .next (fpDone [o.a, o.b] o.w o.d r.2.2.1 false s fun c _ =>
      minMax r.2.1 c r.2.2.2 (low r.2.1 (s.me.src o.a)) (low r.2.1 (s.me.src o.b)))) ∧
  (∀ r ∈ fpSqrtRules, ∀ (o : S3) (s : State), Clear o.gw (srcReg o.a ++ dstReg o.w o.d) s →
    exec (r.1 o) s = .next (fpDone [o.a] o.w o.d r.2.2 true s fun c q => fsqrt r.2.1 c q (low r.2.1 (s.me.src o.a)))) ∧
  (∀ r ∈ fpFmaRules, ∀ (o : S3X) (s : State),
    Clear (some o.g) (srcReg o.a ++ srcReg o.b ++ srcReg o.c ++ dstReg o.w o.d) s →
    exec (r.1 o) s = .next (fpDone [o.a, o.b, o.c] o.w o.d r.2.2.1 true s fun c q =>
      ffma r.2.1 c q r.2.2.2.1 r.2.2.2.2 (low r.2.1 (s.me.src o.a)) (low r.2.1 (s.me.src o.b)) (low r.2.1 (s.me.src o.c))))

/-- FABS clears the sign bit, keeps everything else of the format and sets no flag (R102). -/
def Sys2Proof.Claims.FloatAbsClearsSign : Prop :=
  ∀ r ∈ fpAbsRules, ∀ (o : S3) (s : State), Clear o.gw (srcReg o.a ++ dstReg o.w o.d) s →
    exec (r.1 o) s = .next ((s.noteLatches [o.a]).putS o.w o.d r.2.1 (s.me.src o.a &&& r.2.2))

/-- R104: compares give a predicate, by the order of the values, and NV. -/
def Sys2Proof.Claims.FloatCompareResults : Prop :=
  ∀ r ∈ fpCmpRules, ∀ (o : S3) (s : State), Clear o.gw (srcReg o.a ++ srcReg o.b ++ dstPred o.w) s →
    ∃ q, q = fcmp r.2.1 s.codes.ftz r.2.2.1 (low r.2.1 (s.me.src o.a)) (low r.2.1 (s.me.src o.b)) ∧
      exec (r.1 o) s = .next (((s.noteLatches [o.a, o.b]).putP o.w o.d 4 (r.2.2.2 q.1)).postFlags 4 q.2)

/-- R104 on values: FEQ and FLT agree with the exact order of finite operands, zeros of either sign being equal; a NaN answers
only FUN. -/
def Sys2Proof.Claims.FloatCompareFollowsExactOrder : Prop :=
  ∀ (f : Nf) (ftz any : Bool) (x y : Nat),
    (∀ a m e b n g, f.read ftz x = .num a m e → f.read ftz y = .num b n g →
      ((fcmp f ftz any x y).1 = some .lt ↔ exactQ a m e < exactQ b n g) ∧
      ((fcmp f ftz any x y).1 = some .eq ↔ exactQ a m e = exactQ b n g) ∧ (fcmp f ftz any x y).2 = 0#7) ∧
    ((f.read ftz x).isNan = true ∨ (f.read ftz y).isNan = true → (fcmp f ftz any x y).1 = none)

/-- R105: conversions; the two exact ones draw nothing. -/
def Sys2Proof.Claims.ScalarConversions : Prop :=
  ∀ r ∈ cvtRules, ∀ (o : S3) (s : State), Clear o.gw (srcReg o.a ++ dstReg o.w o.d) s →
    exec (r.1 o) s = .next (cvtDone [o.a] o.w o.d r.2.2.2 s fun c q => convert r.2.1 r.2.2.1 c q (low r.2.1 (s.me.src o.a)))

/-- R69, R103, R104 on values: a sum, a difference, a product, a quotient by a value other than 0 and the four fused forms are, on finite operands, the exact rational
result, rounded once to the format. (A rounded 0 takes the sign that R79 gives it.) -/
def Sys2Proof.Claims.FloatArithmeticIsExactThenRounded : Prop :=
  ∀ (f : Nf) (c : Codes) (r x y z : Nat) (a b d : Bool) (m n k : Nat) (e g h : Int),
    f.read c.ftz x = .num a m e → f.read c.ftz y = .num b n g → f.read c.ftz z = .num d k h →
    let rounds (res : Res) (v : ℚ) : Prop :=
      ∃ (neg : Bool) (p q : Nat), 0 < q ∧ (if neg then -1 else 1) * (p : ℚ) / (q : ℚ) = v ∧ res = roundTo f c r neg p q
    rounds (fop .add f c r x y) (exactQ a m e + exactQ b n g) ∧
    rounds (fop .sub f c r x y) (exactQ a m e - exactQ b n g) ∧
    rounds (fop .mul f c r x y) (exactQ a m e * exactQ b n g) ∧
    (n ≠ 0 → rounds (fop .div f c r x y) (exactQ a m e / exactQ b n g)) ∧
    ∀ np nc : Bool, rounds (ffma f c r np nc x y z)
      ((if np then -1 else 1) * (exactQ a m e * exactQ b n g) + (if nc then -1 else 1) * exactQ d k h)

/-- Scalar floating point (R102 to R105): results, flags and latencies. -/
def Obligations.ScalarFloatingPointResults : Prop :=
  Claims.ScalarFloatResults ∧ Claims.FloatAbsClearsSign ∧ Claims.FloatCompareResults ∧
  Claims.FloatCompareFollowsExactOrder ∧ Claims.ScalarConversions ∧ Claims.FloatArithmeticIsExactThenRounded

/-- R106, R107: a transfer that has its effect makes its target the bundle that follows; BR and JR end loops, CALL and JRL push
the sequential successor on chip where the store has room. -/
def Sys2Proof.Claims.TransfersGoToTheirTarget : Prop :=
  (∀ (o : Br) (s : State), Clear (some o.g) [] s →
    exec (.br o) s = .next (s.after (.jump (s.issue.addr + BitVec.ofInt 64 (4 * o.off.toInt)) true))) ∧
  (∀ (o : Br) (s : State), Clear (some o.g) [] s → s.me.ras.length < 16 →
    exec (.call o) s = .next ((s.setMe { s.me with ras := s.me.ras ++ [s.seqSucc] }).after
      (.jump (s.issue.addr + BitVec.ofInt 64 (4 * o.off.toInt)) false))) ∧
  (∀ (o : Ctl) (s : State), Clear o.gw (srcReg o.a) s →
    ((s.me.src o.a).toNat % 4 = 0 →
      exec (.jr o) s = .next ((s.noteLatches [o.a]).after (.jump (s.me.src o.a) true)) ∧
      (s.me.ras.length < 16 → ∃ t, exec (.jrl o) s = .next t ∧ t.me.ras = s.me.ras ++ [s.seqSucc] ∧
        t.issue.aft = s.issue.aft ++ [.jump (s.me.src o.a) false] ∧ t.issue.res = s.issue.res ∧ t.mem = s.mem)) ∧
    ((s.me.src o.a).toNat % 4 ≠ 0 →
      exec (.jr o) s = trapOut cALIGN (s.me.src o.a) (s.noteLatches [o.a]) ∧
      exec (.jrl o) s = trapOut cALIGN (s.me.src o.a) (s.noteLatches [o.a]))) ∧
  (∀ (o : Ctl) (s : State) (l : List Word) (ra : Word), Clear o.gw [] s → s.me.ras = l ++ [ra] →
    exec (.ret o) s = if ra.toNat % 4 = 0 then .next ((s.setMe { s.me with ras := l }).after (.jump ra false))
      else trapOut cALIGN ra s)

/-- R111, R114: what LOOP does, by its end, its count and the loops that are active; and LOOP_END, the end of the innermost loop. -/
def Sys2Proof.Claims.LoopBecomesActive : Prop :=
  (∀ (o : LoopI) (s : State), Clear o.gw (srcReg o.a) s →
    let e := s.issue.addr + BitVec.ofNat 64 (4 * o.n.toNat)
    let t := s.noteLatches [o.a]
    exec (.loop o) s =
      if e.toNat ≤ s.issue.next.toNat then .next t
      else if s.me.src o.a = 0#64 then .next (t.after (.jump e false))
      else if s.me.loopRefused s.issue.next e = true then trapOut cILLOP (encInfo t) t
      else .next (t.after (.loop (s.me.src o.a) o.n))) ∧
  (∀ (c : Nat) (s : State) (l : Loop) (r : List Loop), (s.core c).loops = l :: r → l.count = 0#64 →
    ∃ t, exec (.loopEnd c) s = .next t ∧ (t.core c).loops = r ∧ t.mem = s.mem ∧ (t.core c).s = (s.core c).s ∧
      ((s.core c).pmcCfg.getLsbD 61 = true → (s.core c).trace.length ≤ 14 →
        ((t.core c).trace.drop (s.core c).trace.length).map TraceRec.kind = [4#4, 5#4]))

/-- R112 and R113: the successor of a bundle and the loops that stay active. -/
def Sys2Proof.Claims.LoopSuccessor : Prop :=
  ∀ (x : Core) (addr next : Word) (l : Loop) (r : List Loop) (ws : List Half), x.inTrap = false → x.loops = l :: r →
    (l.stop ≠ next → (x.loopsAfter addr next [] ws).1 = next ∧
      ((x.loopsAfter addr next [] ws).2.1.map Loop.count) = (l :: r).map Loop.count) ∧
    (l.stop = next → 1 < l.count.toNat → (x.loopsAfter addr next [] ws).1 = l.start ∧
      ((x.loopsAfter addr next [] ws).2.1.map Loop.count) = (l.count - 1#64) :: r.map Loop.count) ∧
    (l.stop = next → l.count.toNat = 1 → r = [] → (x.loopsAfter addr next [] ws).1 = next ∧
      (x.loopsAfter addr next [] ws).2.1 = []) ∧
    (∀ t, (x.loopsAfter addr next [.jump t true] ws).1 = t ∧
      (∀ m ∈ ((x.loopsAfter addr next [.jump t true] ws).2.1).head?, m.start.toNat ≤ t.toNat ∧ t.toNat < m.stop.toNat))

/-- Control transfers and counted loops (R106, R107, R111 to R114). -/
def Obligations.TransfersAndLoops : Prop :=
  Claims.TransfersGoToTheirTarget ∧ Claims.LoopBecomesActive ∧ Claims.LoopSuccessor

/-- R109: a push on a full store spills the eight oldest entries to the group's place and keeps the rest; a pop of an empty one
refills them; a spent quota raises ALLOT, and nothing to pop RASEMPTY. -/
def Sys2Proof.Claims.ReturnStoreSpillsAndRefills : Prop :=
  (∀ (ra : Word) (s : State) (k : State → Out) (ts : List (Target × Word)), s.me.ras.length = 16 → s.me.rasSpill / 8 < 16 →
    s.rasGroup 1 needW (s.me.spillBase + BitVec.ofNat 64 (64 * (s.me.rasSpill / 8))) = .inr ts →
    (ts.flatMap fun t => s.owedBank t.1) = [] → s.me.rasBlocked ts = false →
    let s1 := s.rasWrite 1 ts s.me.ras
    pushRas ra s k = k (s1.setMe { s1.me with ras := s.me.ras.drop 8 ++ [ra], rasSpill := s.me.rasSpill + 8 })) ∧
  (∀ (ra : Word) (s : State) (k : State → Out), s.me.ras.length = 16 → 16 ≤ s.me.rasSpill / 8 → s.me.spillQuota.toNat < 64 →
    pushRas ra s k = trapOut cALLOT (BitVec.ofNat 64 (2 ^ 61 + 1)) s) ∧
  (∀ (ra : Word) (s : State) (k : State → Out) (ts : List (Target × Word)), s.me.ras.length = 16 → 16 ≤ s.me.rasSpill / 8 →
    64 ≤ s.me.spillQuota.toNat → s.rasGroup 2 needW s.me.spillOvf = .inr ts →
    (ts.flatMap fun t => s.owedBank t.1) = [] → s.me.rasBlocked ts = false →
    let s1 := s.rasWrite 2 ts s.me.ras
    pushRas ra s k = k (s1.setMe { s1.me with
      ras := s.me.ras.drop 8 ++ [ra], rasSpill := s.me.rasSpill + 8,
      spillOvf := s.me.spillOvf + 64#64, spillQuota := s.me.spillQuota - 64#64 })) ∧
  (∀ (s : State) (k : Word → State → Out) (ts : List (Target × Word)), s.me.ras = [] → s.me.rasSpill ≠ 0 →
    s.me.rasSpill / 8 - 1 < 16 →
    s.rasGroup 1 needR (s.me.spillBase + BitVec.ofNat 64 (64 * (s.me.rasSpill / 8 - 1))) = .inr ts →
    (ts.flatMap fun t => s.owedBank t.1) = [] → s.me.rasBlocked ts = false →
    let r := s.rasRead 1 ts
    popRas s k = k (r.1.getD 7 0#64) (r.2.setMe { r.2.me with ras := r.1.take 7, rasSpill := s.me.rasSpill - 8 })) ∧
  (∀ (s : State) (k : Word → State → Out) (ts : List (Target × Word)), s.me.ras = [] → 16 ≤ s.me.rasSpill / 8 - 1 →
    s.rasGroup 2 needR (s.me.spillOvf - 64#64) = .inr ts →
    (ts.flatMap fun t => s.owedBank t.1) = [] → s.me.rasBlocked ts = false →
    let r := s.rasRead 2 ts
    popRas s k = k (r.1.getD 7 0#64) (r.2.setMe { r.2.me with
      ras := r.1.take 7, rasSpill := s.me.rasSpill - 8,
      spillOvf := s.me.spillOvf - 64#64, spillQuota := s.me.spillQuota + 64#64 })) ∧
  (∀ (s : State) (k : Word → State → Out), s.me.ras = [] → s.me.rasSpill = 0 → popRas s k = trapOut cRASEMPTY 0#64 s)

/-- R109, R193: the group of a spill in the own scratchpad is eight doublewords at its address; a spill leaves entry `i` in doubleword `i` and
changes no other byte, and a refill gives the doublewords as they stand and changes no byte. -/
def Sys2Proof.Claims.SpilledEntriesReadBack : Prop :=
  ∀ (s : State) (need : Need) (a : Word) (ra : List Word), a.toNat + 64 ≤ 2 ^ 22 → a.toNat % 8 = 0 →
    (∀ i, i < 64 → s.me.spmAllot.getLsbD ((a.toNat + i) / 65536) = true) → (s.die (dieOf s.cur)).copies = [] → Memory.wf s.mem = true →
    let key (i : Nat) : Nat := spKey s.cur a.toNat + 8 * i
    let ts := (List.range 8).map fun i => (Target.mem (key i), a + BitVec.ofNat 64 (8 * i))
    s.rasGroup 1 need a = .inr ts ∧
    (8 ≤ ra.length → (∀ i, i < 8 → (s.rasWrite 1 ts ra).rd (key i) 8 = (ra.getD i 0#64).toNat) ∧
      ∀ b, b < key 0 ∨ key 8 ≤ b → Memory.get (s.rasWrite 1 ts ra).mem b = Memory.get s.mem b) ∧
    (s.rasRead 1 ts).1 = (List.range 8).map (fun i => BitVec.ofNat 64 (s.rd (key i) 8)) ∧ (s.rasRead 1 ts).2.mem = s.mem

/-- The return-address store (R108 to R110): spills to the spill area and to SPILLOVF, their quota, refills, and that what is spilled reads back. -/
def Obligations.ReturnStoreSpillsAndRefills : Prop :=
  Claims.ReturnStoreSpillsAndRefills ∧ Claims.SpilledEntriesReadBack

/-- R116 to R120: the system instructions. -/
def Sys2Proof.Claims.SystemInstructions : Prop :=
  (∀ (o : Ctl) (s : State), Clear o.gw [] s →
    exec (.nop o) s = .next s ∧ exec (.joinAll o) s = .next (s.after (.join false o.i6)) ∧
    exec (.joinAny o) s = .next (s.after (.join true o.i6)) ∧ exec (.ifence o) s = .next (s.after .ifence) ∧
    (s.me.inTrap = true → exec (.rft o) s = .next (s.after .rft)) ∧
    (s.me.inTrap = false → exec (.rft o) s = trapOut cILLOP (encInfo s) s) ∧
    (s.postedBefore = [] → (∀ a ∈ s.before, a.isRemote = true → a.isWrite = false) → s.me.rejects = [] →
      exec (.exit o) s = .next (s.after .exit))) ∧
  (∀ (o : PfxM) (s : State), ∃ t, exec (.pfxm o) s = .next t ∧ t.issue.pm = some o ∧
    t = { s with issue := { s.issue with pm := t.issue.pm } }) ∧
  (∀ (o : PfxA) (s : State), ∃ t, exec (.pfxa o) s = .next t ∧ t.issue.pa = some o ∧
    t = { s with issue := { s.issue with pa := t.issue.pa } })

/-- R116, R160, R184: the dome-uniform instructions of an attached dome. -/
def Sys2Proof.Claims.UniformInstructionsOfAnAttachedDome : Prop :=
  ∀ (o : Ctl) (s : State), isSup s.cur = false →
    (∀ x ∈ s.cur :: domeCores (domeKey s.cur), (s.core x).join = .attached ∧ (s.core x).run ≠ .stopped) →
    let u := s.showGuard true
    Clear o.gw [] s →
    (fixedGuard o.gw = true ∨ (∀ g ∈ u.guardsShown, g.2 = true) ∧ ∀ x ∈ domeCores (domeKey s.cur), x ∈ u.guardsShown.map Prod.fst) →
    exec (.dsync o) s = .next (u.after .dsync) ∧
    ((s.dome (domeKey s.cur)).run ≠ .priv → s.postedBefore = [] → (∀ a ∈ s.before, a.isRemote = true → a.isWrite = false) →
      s.me.rejects = [] →
      exec (.suspend o) s = .next (u.after .suspend) ∧ exec (.yield o) s = .next (u.after .yield))

/-- R160: a core that is not attached and executes a dome-uniform instruction raises DETACHED. -/
def Sys2Proof.Claims.UniformInstructionOfADetachedCore : Prop :=
  ∀ (o : Ctl) (s : State), s.me.join ≠ .attached → Clear o.gw [] s →
    exec (.dsync o) s = trapOut cDETACHED 0#64 s ∧ exec (.suspend o) s = trapOut cDETACHED 0#64 s ∧
    exec (.yield o) s = trapOut cDETACHED 0#64 s

/-- System instructions, prefixes and the dome-uniform instructions (R116 to R119, R160). -/
def Obligations.SystemAndUniformInstructions : Prop :=
  Claims.SystemInstructions ∧ Claims.UniformInstructionsOfAnAttachedDome ∧ Claims.UniformInstructionOfADetachedCore

/-- R120: SEGHINT has no architectural effect: nothing but the loader's list of hinted segments, which no instruction reads, and the noted
latch reads may differ; a number beyond the segment table is ignored. -/
def Obligations.SegmentHintHasNoEffect : Prop :=
  ∀ (o : Ctl) (s : State), Clear o.gw (srcReg o.a) s →
    let s1 := s.noteLatches [o.a]
    ∃ t, exec (.seghint o) s = .next t ∧ t = { s1 with domes := t.domes } ∧
      (∀ k, t.dome k = { s1.dome k with hints := (t.dome k).hints }) ∧
      (s1.dev (dieOf s.cur) s1.me.segTab.toNat 8 % 2 ^ 12 ≤ (s.me.src o.a).toNat → t = s1)

/-- R117, R310: TRAP and BRK raise their causes on their own bundle, and the core enters its handler. -/
def Sys2Proof.Claims.TrapAndBreakpointEnterTheHandler : Prop :=
  ∀ (o : Ctl) (s : State), Clear o.gw [] s → s.me.inTrap = false → s.me.trapVec ≠ 0#64 → s.issue.drop = false →
    (s.me.settle).trapVec = s.me.trapVec →
    (∃ t, exec (.trap o) s = .next t ∧ t.me.trapCause = 0x11#6 ∧ t.me.trapPc = s.issue.addr ∧
      t.me.trapInfo = BitVec.ofNat 64 (s.issue.len * 256 + o.i6.toNat) ∧ t.me.inTrap = true ∧ t.me.next = s.me.trapVec ∧
      t.issue.res = .trapped 0x11#6 t.me.trapInfo ∧ t.mem = s.mem) ∧
    ((s.me.settle).pmcCfg.getLsbD 63 = false →
      ∃ t, exec (.brk o) s = .next t ∧ t.me.trapCause = 0x10#6 ∧ t.me.trapPc = s.issue.addr ∧
      t.me.trapInfo = BitVec.ofNat 64 (s.issue.len * 256) ∧ t.me.inTrap = true ∧ t.me.next = s.me.trapVec ∧
      t.issue.res = .trapped 0x10#6 t.me.trapInfo ∧ t.mem = s.mem)

/-- R310, R311, R313, R158, R216, R247: a core that takes a trap with a handler saves cause, address and information, sets INTRAP and goes on at TRAPVEC, held where it was attached; in a
handler, or without one, the trap is forwarded: the core stops and a record of KIND 1 arises, and in a handler the trap registers keep their values. A WAITM that it ends
gives code 3, and a wait at a phaser is over. TRAP_ENTRY takes the trap that the bundle in issue has raised and no other (log entry 113). Stated for the causes but
BUDGET and BRK, and a core with nothing in flight. -/
def Sys2Proof.Claims.TrapsAreTakenOrForwarded : Prop :=
  ∀ (c : Nat) (cause : BitVec 6) (info : Word) (s : State), isSup c = false → (s.core c).outs = [] → (s.core c).pend = [] →
    let x := s.core c
    (c ≠ s.cur ∨ s.executes c = false ∨ s.issue.res ≠ .trapped cause info → exec (.trapEntry c cause info) s = .next s) ∧
    (c = s.cur → s.executes c = true → s.issue.res = .trapped cause info → s.issue.told = none → s.issue.drop = false →
      cause ≠ 9#6 → cause ≠ 16#6 →
      ∃ t, exec (.trapEntry c cause info) s = .next t ∧ t.mem = s.mem ∧
      (x.wait = .none → (t.core c).s = x.s) ∧
      (∀ cls d w pos, x.wait = .waitm cls d w pos → (t.core c).wait = .none ∧ (t.core c).monitor.armed = false ∧
        ∀ r, (t.core c).getS r = if w = true ∧ r = d ∧ d ≠ 0#6 then 3#64 else x.getS r) ∧
      (∀ key ph, x.wait = .phwait key ph ∨ x.wait = .phsw key → (t.core c).wait = .none ∧ (t.core c).s = x.s) ∧
      (t.core c).latches = Vector.replicate 8 none ∧
      (x.inTrap = false → (t.core c).trapCause = cause ∧ (t.core c).trapPc = s.issue.addr ∧ (t.core c).trapInfo = info) ∧
      (x.inTrap = false → x.trapVec ≠ 0#64 → (t.core c).inTrap = true ∧ (t.core c).next = x.trapVec ∧
        (t.core c).join = (if x.join = .attached then .held else x.join) ∧ (t.core c).run = x.run) ∧
      (x.inTrap = true → (t.core c).trapCause = x.trapCause ∧ (t.core c).trapPc = x.trapPc ∧ (t.core c).trapInfo = x.trapInfo) ∧
      (x.inTrap = true ∨ x.trapVec = 0#64 → (t.core c).run = .stopped ∧ (t.core c).inTrap = x.inTrap ∧
        (t.core c).resumePc = s.issue.addr &&& 0xFFFFFFFFFFFFF#64 ∧
        ∃ r, (t.die (dieOf c)).records = (s.die (dieOf c)).records ++ [r] ∧ fld (r.words.getD 0 0#64) 56 8 = 1 ∧
          fld (r.words.getD 0 0#64) 50 6 = cause.toNat ∧ r.words.getD 3 0#64 = info))

/-- Taking an exception (R117, R310, R311, R313, R158, R216, R247). What TRAP_ENTRY takes is the model's (log entry 113). -/
def Obligations.TrapsEnterTheirHandler : Prop :=
  Claims.TrapAndBreakpointEnterTheHandler ∧ Claims.TrapsAreTakenOrForwarded

/-- R121, R122, R26, R15: control registers. A bundle reads them as they stand before any of its syllables. -/
def Sys2Proof.Claims.ControlRegisterAccess : Prop :=
  (∀ (s : State) (n : Nat), s.issue.crs = [] ∨ s.issue.crs = s.crsNow s.cur → s.crNow n = s.readCr s.cur n) ∧
  (∀ (o : Ctl) (s : State), Clear o.gw (dstReg o.w o.d) s →
    exec (.mfc o) s = .next (s.putS o.w o.d 1 (s.crNow o.i6.toNat))) ∧
  (∀ r ∈ [(Instr.mtc, fun (_ a : Word) => a), (.mset, fun x a => x ||| a), (.mclr, fun x a => x &&& ~~~a)],
    ∀ (o : Ctl) (s : State), Clear o.gw (srcReg o.a) s →
    exec (r.1 o) s =
      if o.i6.toNat ∈ [4, 8, 16, 18, 23] ∧ isSup s.cur = false then
        trapOut cPRIV (BitVec.ofNat 64 o.i6.toNat) (s.noteLatches [o.a])
      else .next ((s.noteLatches [o.a]).post (if o.i6.toNat = 2 then 4 else 1)
        (.cr o.i6 (r.2 (s.crNow o.i6.toNat) (s.me.src o.a)))))

/-- R26, R29, R30 and Table 1-4: the field rules of control-register writes. -/
def Sys2Proof.Claims.ControlRegisterFieldRules : Prop :=
  ∀ (c : Core) (x : Word),
    (c.writeCr 0 x).flags = x.setWidth 7 ∧
    (∀ (lo len dflt resv : Nat), (lo, len, dflt, resv) ∈ [(8, 2, 1, 4), (6, 2, 2, 4), (3, 3, 2, 6), (0, 3, 1, 6)] →
      let n := (x >>> lo).toNat % 2 ^ len
      ((c.writeCr 1 x).ctlDef >>> lo).toNat % 2 ^ len =
        if n = 0 then dflt else if resv ≤ n then (c.ctlDef >>> lo).toNat % 2 ^ len else n) ∧
    ((c.writeCr 2 x).fmt.extractLsb' 9 4 = if (x.extractLsb' 9 4).toNat < 5 then c.fmt.extractLsb' 9 4 else x.extractLsb' 9 4) ∧
    ((c.writeCr 2 x).fmt.extractLsb' 3 3 = if x.extractLsb' 3 3 = 7#3 then c.fmt.extractLsb' 3 3 else x.extractLsb' 3 3) ∧
    ((c.writeCr 2 x).fmt &&& 0x1C7#13 = x.setWidth 13 &&& 0x1C7#13) ∧
    ((c.writeCr 21 x).srSeed = if x.setWidth 32 = 0#32 then 1#32 else x.setWidth 32) ∧
    (∀ n ∈ [9, 10, 11, 12, 13, 14, 15, 19, 20, 22, 33], c.writeCr n x = c)

/-- Control registers (R15, R121, R122, R26, R29, R30). -/
def Obligations.ControlRegisters : Prop :=
  Claims.ControlRegisterAccess ∧ Claims.ControlRegisterFieldRules

/-- The model's memory: what is written is read, other bytes stay, and the canonical form is kept. -/
def Obligations.MemoryReadsWhatWasWritten : Prop :=
  ∀ (m : List Host.Cell) (k n x : Nat), Memory.wf m = true →
    Memory.wf (Memory.write m k n x) = true ∧ Memory.read (Memory.write m k n x) k n = x % 256 ^ n ∧
    ∀ a, a < k ∨ k + n ≤ a → Memory.get (Memory.write m k n x) a = Memory.get m a

/-- R206, R21: a load that resolves at its aligned address issues its access; it never changes a register at once. -/
def Sys2Proof.Claims.LoadsIssueTheirAccess : Prop :=
  ∀ r ∈ loadRules, ∀ (o : Mem) (s : State) (t : Target), Clear (o.ext.map Prod.snd) (srcReg o.a ++ dstReg o.w o.d) s →
    let s1 := s.noteLatches [o.a]
    let ea := eaRule o r.2.1 s
    ea.toNat % r.2.1 = 0 → s1.resolve s1.cur s1.space needR (r.2.1 = 8 && !r.2.2) ea = .ok t → s1.owedBank t = [] → isRemoteT t = false →
    exec (r.1 o) s = .next (s1.issueOne State.perform
      (s1.mkAccess (.read (if o.w then .s o.d r.2.2 else .none)) t r.2.1 ea (r.2.1 = 8)))

/-- R206: a store that resolves at its aligned address issues its access with the low bytes of its register. -/
def Sys2Proof.Claims.StoresIssueTheirAccess : Prop :=
  ∀ r ∈ storeRules, ∀ (o : Mem) (s : State) (t : Target), Clear (o.ext.map Prod.snd) (srcReg o.a ++ [.s o.d]) s →
    let s1 := s.noteLatches [o.a]
    let ea := eaRule o r.2 s
    ea.toNat % r.2 = 0 → s1.resolve s1.cur s1.space needW (r.2 = 8) ea = .ok t → s1.owedBank t = [] →
    exec (r.1 o) s = .next (s1.issueOne State.perform
      (s1.mkAccess (.write (BitVec.ofNat 256 ((s.me.getS o.d).toNat % 2 ^ (8 * r.2)))) t r.2 ea (r.2 = 8)))

/-- R147 to R150: vector accesses check every address before any event, and issue one access for each part in element order. -/
def Sys2Proof.Claims.VectorAccessesIssueTheirParts : Prop :=
  (∀ (o : VMem) (s : State) (ts : List (Target × Word × Nat)), Clear none (srcReg o.a ++ [.v o.v]) s →
    let s1 := s.noteLatches [o.a]
    let n := 32 * 2 ^ o.wd.toNat
    let ea := s.me.src o.a + BitVec.ofInt 64 (o.off.toInt * n)
    let parts := (List.range (2 ^ o.wd.toNat)).map fun i => (ea + BitVec.ofNat 64 (32 * i), 256 * o.lg.toNat + 256 * i)
    ea.toNat % n = 0 →
    (s1.resolveAll needR 32 parts = (ts, none) → (ts.flatMap fun t => s1.owedBank t.1) = [] → (∀ t ∈ ts, isRemoteT t.1 = false) →
      exec (.vld o) s = .next (ts.foldl (fun a t => a.issueOne State.perform (s1.mkAccess (.read (.v o.v t.2.2)) t.1 32 t.2.1 false)) s1)) ∧
    (s1.resolveAll needW 32 parts = (ts, none) → (ts.flatMap fun t => s1.owedBank t.1) = [] →
      exec (.vst o) s = .next (ts.foldl (fun a t => a.issueOne State.perform
        (s1.mkAccess (.write (BitVec.ofNat 256 (vGet (s.me.getV o.v) t.2.2 256))) t.1 32 t.2.1 false)) s1))) ∧
  (∀ (o : VIdx) (s : State) (ts : List (Target × Word × Nat)),
    Clear (some o.x.g) (srcReg o.a ++ [.v o.v, .v o.x.vc] ++ maskReg o.x.msk) s →
    let s1 := s.noteLatches [o.a]
    let w := elBits (s.elType o.x.fmto)
    let parts := ((List.range (256 * 2 ^ o.wd.toNat / w)).filter fun i => laneOn (s.me.getM o.x.msk) (256 * o.lg.toNat + w * i)).map
      fun i => (s.me.src o.a + BitVec.ofInt 64 (toInt w (vGet (s.me.getV o.x.vc) (256 * o.lg.toNat + w * i) w) * (w / 8 : Nat)),
        256 * o.lg.toNat + w * i)
    (s1.resolveAll needR (w / 8) parts = (ts, none) → (ts.flatMap fun t => s1.owedBank t.1) = [] → (∀ t ∈ ts, isRemoteT t.1 = false) →
      exec (.vgath o) s = .next (ts.foldl (fun a t => a.issueOne State.perform
        (s1.mkAccess (.read (.v o.v t.2.2)) t.1 (w / 8) t.2.1 false)) s1)) ∧
    (s1.resolveAll needW (w / 8) parts = (ts, none) → (ts.flatMap fun t => s1.owedBank t.1) = [] →
      exec (.vscat o) s = .next (ts.foldl (fun a t => a.issueOne State.perform
        (s1.mkAccess (.write (BitVec.ofNat 256 (vGet (s.me.getV o.v) t.2.2 w))) t.1 (w / 8) t.2.1 false)) s1)))

/-- R209, R213: an atomic issues one read-modify-write of its operation at a + sext(X8) times its size. -/
def Sys2Proof.Claims.AtomicsIssueTheirAccess : Prop :=
  (∀ r ∈ atomRules, ∀ (o : Atom) (s : State) (t : Target),
    Clear (o.ext.map AtomX.g) (srcReg o.a ++ srcReg o.b ++ dstReg o.w o.d) s →
    let s1 := s.noteLatches [o.a, o.b]
    let n : Nat := match o.ext with | none => 8 | some x => if x.sz then 4 else 8
    let ea := s.me.src o.a + BitVec.ofInt 64 ((match o.ext with | none => 0 | some x => x.x8.toInt) * n)
    ea.toNat % n = 0 → s1.resolve s1.cur s1.space needRW false ea = .ok t → s1.owedBank t = [] → isRemoteT t = false →
    exec (r.1 o) s = .next (s1.issueOne State.perform
      (s1.mkAccess (.rmw r.2 (BitVec.ofNat 64 ((s.me.src o.b).toNat % 2 ^ (8 * n))) (if o.w then some o.d else none)) t n ea false))) ∧
  (∀ (o : Acas) (s : State) (t : Target),
    Clear (some o.x.g) (srcReg o.x.a ++ srcReg o.x.b ++ srcReg o.x.c ++ dstReg o.x.w o.x.d) s →
    let s1 := s.noteLatches [o.x.a, o.x.b, o.x.c]
    let n : Nat := if o.sz then 4 else 8
    let ea := s.me.src o.x.a + BitVec.ofInt 64 (o.x.x8.toInt * n)
    ea.toNat % n = 0 → s1.resolve s1.cur s1.space needRW false ea = .ok t → s1.owedBank t = [] → isRemoteT t = false →
    exec (.acas o) s = .next (s1.issueOne State.perform
      (s1.mkAccess (.rmw (.cas (s.me.src o.x.c)) (BitVec.ofNat 64 ((s.me.src o.x.b).toNat % 2 ^ (8 * n)))
        (if o.x.w then some o.x.d else none)) t n ea false)))

/-- R195: a load of another device is remembered with its bundle, and when the bundle has all else it needs its request, under the XKEY of
its issue (R122), is in line for the transport and the core waits; with the answer the load completes, and a rejection or the transport
timeout raises REMOTE or TIMEOUT with the flat address. That the bundle waits to issue and the form of its request in the line are the
model's (log entries 39 and 102). -/
def Sys2Proof.Claims.RemoteLoadsWaitForTheirAnswer : Prop :=
  (∀ r ∈ loadRules, ∀ (o : Mem) (s : State) (rank : BitVec 12) (va : BitVec 52), Clear (o.ext.map Prod.snd) (srcReg o.a ++ dstReg o.w o.d) s →
    let s1 := s.noteLatches [o.a]
    let ea := eaRule o r.2.1 s
    let a := s1.mkAccess (.read (if o.w then .s o.d r.2.2 else .none)) (.remote rank va) r.2.1 ea (r.2.1 = 8)
    ea.toNat % r.2.1 = 0 → s1.resolve s1.cur s1.space needR (r.2.1 = 8 && !r.2.2) ea = .ok (.remote rank va) →
    (s.me.answer = none → s.before = [] → s.postedBefore = [] →
      exec (r.1 o) s = .next { s1 with issue := { s1.issue with far := s1.issue.far ++ [a] } }) ∧
    (s1.sendRemote s.cur a).outq = s.outq ++
      [{ core := 4096 + s.cur, ord := 0, entropy := 0, key := { target := false, peer := rank, mode := 1#2, sec := false, sdi := 0#12, pd := 0 },
         body := .rma 0 (rank ++ va) r.2.1 s.me.xkey [] 0 false 0#64, bytes := r.2.1, resp := true }] ∧
    (∀ v, s.me.answer = some (.value v) → o.w = true → ∃ t, exec (r.1 o) s = .next t ∧ t.issue.res = s.issue.res ∧ t.me.answer = none ∧
      t.me.pend = s1.me.pend ++ [{ left := 1, w := .s o.d (extendRule r.2.2 (8 * r.2.1) v.toNat) }] ∧
      ((s.die (dieOf s.cur)).copies = [] → t.mem = s.mem)) ∧
    (∀ i, s.me.answer = some (.reject i) → exec (r.1 o) s = trapOut cREMOTE ea s1) ∧
    (∀ i, s.me.answer = some (.timeout i) → exec (r.1 o) s = trapOut cTIMEOUT ea s1)) ∧
  (∀ (s t : State) (c : Nat) (addr : Word), ((s.askTurn t c addr).core c).wait = .remote)

/-- The accesses of the memory instructions (R206, R209, R147 to R150, R195). The line of requests and the bundle that waits are the model's (log entries 39 and 102). -/
def Obligations.AccessesAreIssued : Prop :=
  Claims.LoadsIssueTheirAccess ∧ Claims.StoresIssueTheirAccess ∧ Claims.VectorAccessesIssueTheirParts ∧
  Claims.AtomicsIssueTheirAccess ∧ Claims.RemoteLoadsWaitForTheirAnswer

/-- R206, R4: what a load of memory writes: the little-endian value of its bytes, extended as its mnemonic says. -/
def Sys2Proof.Claims.LoadReturnsMemoryBytes : Prop :=
  ∀ r ∈ loadRules, ∀ (o : Mem) (s : State) (k : Nat), Clear (o.ext.map Prod.snd) (srcReg o.a ++ dstReg o.w o.d) s → o.w = true →
    let s1 := s.noteLatches [o.a]
    let ea := eaRule o r.2.1 s
    ea.toNat % r.2.1 = 0 → s1.resolve s1.cur s1.space needR (r.2.1 = 8 && !r.2.2) ea = .ok (.mem k) → s1.owedBank (.mem k) = [] →
    s.eager = true → s.me.outs = [] → s.me.fenced = false → s.me.jobsBefore s.efenced = false → ¬((s1.ord ∈ [2, 4, 5] ∨ s1.fencing = true) ∧ 4 ≤ s1.scope) →
    ∃ t, exec (r.1 o) s = .next t ∧ t.mem = s.mem ∧
      t.me.pend = s1.me.pend ++ [{ left := 1, w := .s o.d (extendRule r.2.2 (8 * r.2.1) (s.seen (dieOf s.cur) k r.2.1)) }]

/-- R206, R4: a store to the core's own scratchpad, with nothing outstanding, leaves its bytes there. -/
def Sys2Proof.Claims.StoreLeavesItsBytes : Prop :=
  ∀ r ∈ storeRules, ∀ (o : Mem) (s : State), Clear (o.ext.map Prod.snd) (srcReg o.a ++ [.s o.d]) s →
    let s1 := s.noteLatches [o.a]
    let ea := eaRule o r.2 s
    s1.space = 1 → ea.toNat < 2 ^ 22 → ea.toNat % r.2 = 0 → s.me.spmAllot.getLsbD (ea.toNat / 2 ^ 16) = true →
    s1.owedBank (.mem (spKey s.cur ea.toNat)) = [] → s.eager = true → s.me.outs = [] → s.me.posted = [] → s.me.jobsBefore s.efenced = false → (s.die (dieOf s.cur)).copies = [] →
    Memory.wf s.mem = true →
    ∃ t, exec (r.1 o) s = .next t ∧ t.rd (spKey s.cur ea.toNat) r.2 = (s.me.getS o.d).toNat % 2 ^ (8 * r.2) ∧
      ∀ a, a < spKey s.cur ea.toNat ∨ spKey s.cur ea.toNat + r.2 ≤ a → Memory.get t.mem a = Memory.get s.mem a

/-- R209, R211, R213: what an atomic leaves at its home, and the old value it returns. -/
def Sys2Proof.Claims.AtomicUpdatesItsLocation : Prop :=
  ∀ (s : State) (d k n : Nat) (b : Word), (s.die d).copies = [] → Memory.wf s.mem = true → n = 4 ∨ n = 8 →
    let old := BitVec.ofNat (8 * n) (s.rd k n)
    let x := b.setWidth (8 * n)
    (∀ r ∈ [(Rmw.add, old + x), (.smin, if old.toInt ≤ x.toInt then old else x), (.smax, if old.toInt ≤ x.toInt then x else old),
        (.and, old &&& x), (.or, old ||| x), (.xor, old ^^^ x), (.xchg, x)],
      (s.atomic d k n r.1 b.toNat).1 = s.rd k n ∧ (s.atomic d k n r.1 b.toNat).2.rd k n = r.2.toNat) ∧
    (∀ new : Word, (s.atomic d k n (.cas new) b.toNat).1 = s.rd k n ∧
      (s.atomic d k n (.cas new) b.toNat).2.rd k n = if old = x then (new.setWidth (8 * n)).toNat else s.rd k n) ∧
    (∀ op a, a < k ∨ k + n ≤ a → Memory.get (s.atomic d k n op b.toNat).2.mem a = Memory.get s.mem a)

/-- What loads, stores and atomics do to bytes (R206, R209, R211, R213, R4). The eager mode in which an access is performed at once is the model's (log entry 5). -/
def Obligations.AccessesMoveTheirBytes : Prop :=
  Claims.LoadReturnsMemoryBytes ∧ Claims.StoreLeavesItsBytes ∧ Claims.AtomicUpdatesItsLocation

/-- R206, R207: a misaligned access raises ALIGN, and one that does not resolve raises its fault, with the address. -/
def Sys2Proof.Claims.AccessFaults : Prop :=
  (∀ r ∈ loadRules, ∀ (o : Mem) (s : State), Clear (o.ext.map Prod.snd) (srcReg o.a ++ dstReg o.w o.d) s →
    let s1 := s.noteLatches [o.a]
    let ea := eaRule o r.2.1 s
    (ea.toNat % r.2.1 ≠ 0 → exec (r.1 o) s = trapOut cALIGN ea s1) ∧
    (∀ cause info, ea.toNat % r.2.1 = 0 →
      s1.resolve s1.cur s1.space needR (r.2.1 = 8 && !r.2.2) ea = .bad cause info → exec (r.1 o) s = trapOut cause info s1)) ∧
  (∀ r ∈ storeRules, ∀ (o : Mem) (s : State), Clear (o.ext.map Prod.snd) (srcReg o.a ++ [.s o.d]) s →
    let s1 := s.noteLatches [o.a]
    let ea := eaRule o r.2 s
    (ea.toNat % r.2 ≠ 0 → exec (r.1 o) s = trapOut cALIGN ea s1) ∧
    (∀ cause info, ea.toNat % r.2 = 0 → s1.resolve s1.cur s1.space needW (r.2 = 8) ea = .bad cause info →
      exec (r.1 o) s = trapOut cause info s1))

/-- R191, R193, R313: the local scratchpad space. -/
def Sys2Proof.Claims.LocalSpaceResolves : Prop :=
  ∀ (s : State) (c : Nat) (n : Need) (whole : Bool) (ea : Word),
    s.resolve c 1 n whole ea =
      if 2 ^ 22 ≤ ea.toNat then .bad cPROT ea
      else if (s.core c).spmAllot.getLsbD (ea.toNat / 65536) then .ok (.mem (spKey c ea.toNat)) else .bad cALLOT ea

/-- Access faults (R207) and the local space (R191, R193, R313). -/
def Obligations.AccessFaultsAndLocalSpace : Prop :=
  Claims.AccessFaults ∧ Claims.LocalSpaceResolves

/-- The frame of the loads LD, VLD and VGATH of memory or a wake port: memory, predicates, masks, every other register and every other core
stay, but for a write in flight to the destination and of LATINV. A load with acquire semantics at package or system scope also drops
the die's copies of other dies' lines (R355), so of it this holds where the die has none. -/
def Sys2Proof.Claims.LoadFrame : Prop :=
  ∀ s t : State, t.issue.res = .ran →
    ¬((s.ord ∈ [2, 4, 5] ∨ s.fencing = true) ∧ 4 ≤ s.scope) ∨ (s.die (dieOf s.cur)).copies = [] →
    let near (x : Target) : Bool := match x with | .mem _ => true | .port _ _ => true | _ => false
    (∀ r ∈ loadRules, ∀ (o : Mem) (x : Target), exec (r.1 o) s = .next t →
      (s.noteLatches [o.a]).resolve s.cur s.space needR (r.2.1 = 8 && !r.2.2) (eaRule o r.2.1 s) = .ok x → near x = true →
      ReadFrame s t fun w => mayS o.w o.d w || onlyFlags fLATINV w) ∧
    (∀ o : VMem, exec (.vld o) s = .next t →
      let n := 32 * 2 ^ o.wd.toNat
      let ea := s.me.src o.a + BitVec.ofInt 64 (o.off.toInt * n)
      let parts := (List.range (2 ^ o.wd.toNat)).map fun i => (ea + BitVec.ofNat 64 (32 * i), 256 * o.lg.toNat + 256 * i)
      (∀ x ∈ ((s.noteLatches [o.a]).resolveAll needR 32 parts).1, near x.1 = true) →
      ReadFrame s t fun w => mayV o.lg o.wd o.v w || onlyFlags fLATINV w) ∧
    (∀ o : VIdx, exec (.vgath o) s = .next t →
      let w := elBits (s.elType o.x.fmto)
      let parts := ((List.range (256 * 2 ^ o.wd.toNat / w)).filter fun i => laneOn (s.me.getM o.x.msk) (256 * o.lg.toNat + w * i)).map
        fun i => (s.me.src o.a + BitVec.ofInt 64 (toInt w (vGet (s.me.getV o.x.vc) (256 * o.lg.toNat + w * i) w) * (w / 8 : Nat)),
          256 * o.lg.toNat + w * i)
      (∀ x ∈ ((s.noteLatches [o.a]).resolveAll needR (w / 8) parts).1, near x.1 = true) →
      ReadFrame s t fun w => mayV o.lg o.wd o.v w || onlyFlags fLATINV w)

/-- The frame of the stores ST, VST and VSCAT to memory: every byte outside those stored to is seen as before, and every register, predicate,
mask, latch and control register stays. A seq store at package or system scope also drops the die's copies of other dies' lines (R232),
so of it this holds where the die has none. -/
def Sys2Proof.Claims.StoreFrame : Prop :=
  ∀ s t : State, t.issue.res = .ran →
    ¬((s.ord = 5 ∨ s.fencing = true) ∧ 4 ≤ s.scope) ∨ (s.die (dieOf s.cur)).copies = [] →
    (∀ r ∈ storeRules, ∀ (o : Mem) (k : Nat), exec (r.1 o) s = .next t →
      (s.noteLatches [o.a]).resolve s.cur s.space needW (r.2 = 8) (eaRule o r.2 s) = .ok (.mem k) →
      WriteFrame s t [(k, r.2)] (onlyFlags fLATINV)) ∧
    (∀ (o : VMem) (ks : List Nat), exec (.vst o) s = .next t →
      let n := 32 * 2 ^ o.wd.toNat
      let ea := s.me.src o.a + BitVec.ofInt 64 (o.off.toInt * n)
      let parts := (List.range (2 ^ o.wd.toNat)).map fun i => (ea + BitVec.ofNat 64 (32 * i), 256 * o.lg.toNat + 256 * i)
      ((s.noteLatches [o.a]).resolveAll needW 32 parts).1.map Prod.fst = ks.map .mem →
      WriteFrame s t (ks.map fun k => (k, 32)) (onlyFlags fLATINV)) ∧
    (∀ (o : VIdx) (ks : List Nat), exec (.vscat o) s = .next t →
      let w := elBits (s.elType o.x.fmto)
      let parts := ((List.range (256 * 2 ^ o.wd.toNat / w)).filter fun i => laneOn (s.me.getM o.x.msk) (256 * o.lg.toNat + w * i)).map
        fun i => (s.me.src o.a + BitVec.ofInt 64 (toInt w (vGet (s.me.getV o.x.vc) (256 * o.lg.toNat + w * i) w) * (w / 8 : Nat)),
          256 * o.lg.toNat + w * i)
      ((s.noteLatches [o.a]).resolveAll needW (w / 8) parts).1.map Prod.fst = ks.map .mem →
      WriteFrame s t (ks.map fun k => (k, w / 8)) (onlyFlags fLATINV))

/-- The frame of the atomics ATOM and ACAS on memory: as that of the stores, for the bytes of the location, or of its line where the die
holds a copy of it, which goes home (R211, R358); a result may be in flight to the destination. -/
def Sys2Proof.Claims.AtomicFrame : Prop :=
  ∀ (s t : State) (k : Nat), t.issue.res = .ran →
    ¬((s.ord ∈ [2, 4, 5] ∨ s.fencing = true) ∧ 4 ≤ s.scope) ∨ (s.die (dieOf s.cur)).copies = [] →
    let at' (n : Nat) : Nat × Nat := if s.copy? (dieOf s.cur) k = none then (k, n) else (k / 64 * 64, 64)
    (∀ r ∈ atomRules, ∀ o : Atom, exec (r.1 o) s = .next t →
      let n : Nat := match o.ext with | none => 8 | some x => if x.sz then 4 else 8
      let ea := s.me.src o.a + BitVec.ofInt 64 ((match o.ext with | none => 0 | some x => x.x8.toInt) * n)
      (s.noteLatches [o.a, o.b]).resolve s.cur s.space needRW false ea = .ok (.mem k) →
      WriteFrame s t [at' n] fun w => mayS o.w o.d w || onlyFlags fLATINV w) ∧
    (∀ o : Acas, exec (.acas o) s = .next t →
      let n : Nat := if o.sz then 4 else 8
      let ea := s.me.src o.x.a + BitVec.ofInt 64 (o.x.x8.toInt * n)
      (s.noteLatches [o.x.a, o.x.b, o.x.c]).resolve s.cur s.space needRW false ea = .ok (.mem k) →
      WriteFrame s t [at' n] fun w => mayS o.x.w o.x.d w || onlyFlags fLATINV w)

/-- What loads, stores and atomics leave unchanged. -/
def Obligations.AccessFrames : Prop :=
  Claims.LoadFrame ∧ Claims.StoreFrame ∧ Claims.AtomicFrame

/-- R199, R201: the tag table. -/
def Obligations.TagTableInstructions : Prop :=
  ∀ (o : Ctl) (s : State),
    let a := s.me.src o.a
    let s1 := s.noteLatches [o.a]
    (Clear o.gw (srcReg o.a ++ dstReg o.w o.d) s →
      exec (.tlook o) s = .next (if o.w then s1.post 1 (.s o.d
        (match s.me.tagHit a with | some i => BitVec.ofNat 64 i | none => 0xFFFFFFFFFFFFFFFF#64)) else s1)) ∧
    (Clear o.gw (srcReg o.a ++ [.s o.d]) s →
      let sl := (s.me.getS o.d).toNat
      (1023 < sl → exec (.tset o) s = trapOut cPROT (spmInfo 1 a) s1) ∧
      (sl ≤ 1023 → sl / 8 ≠ tagSet a → exec (.tset o) s = trapOut cPROT (spmInfo 2 a) s1) ∧
      (sl ≤ 1023 → sl / 8 = tagSet a → (s.me.tag sl).pin = true → exec (.tset o) s = trapOut cPROT (spmInfo 3 a) s1) ∧
      (sl ≤ 1023 → sl / 8 = tagSet a → (s.me.tag sl).pin = false → s.me.spmAllot.getLsbD (sl / 16) = false →
        exec (.tset o) s = trapOut cALLOT (spmInfo 5 a) s1) ∧
      (sl ≤ 1023 → sl / 8 = tagSet a → (s.me.tag sl).pin = false → s.me.spmAllot.getLsbD (sl / 16) = true →
        ∃ t, exec (.tset o) s = .next t ∧ t.me.tag sl = { v := true, pin := false, tag := tagOf a } ∧
          (∀ i, i ≠ sl → t.me.tag i = if s.me.tagHit a = some i then { s.me.tag i with v := false } else s.me.tag i) ∧
          t.me = { s1.me with tags := t.me.tags } ∧ t = s1.setMe t.me)) ∧
    (Clear o.gw (srcReg o.a) s →
      (s.me.tagHit a = none → exec (.tinv o) s = .next s1 ∧ exec (.tpin o) s = .next s1 ∧ exec (.tunpin o) s = .next s1) ∧
      (∀ i, s.me.tagHit a = some i →
        ((s.me.tag i).pin = true → exec (.tinv o) s = trapOut cPROT (spmInfo 4 a) s1) ∧
        ((s.me.tag i).pin = false → exec (.tinv o) s = .next (s1.setMe (s1.me.setTag i { s.me.tag i with v := false }))) ∧
        exec (.tpin o) s = .next (s1.setMe (s1.me.setTag i { s.me.tag i with pin := true })) ∧
        exec (.tunpin o) s = .next (s1.setMe (s1.me.setTag i { s.me.tag i with pin := false }))))

/-- R214 to R216: MONITOR arms the one monitor, and WAITM ends at once with code 4 or with the lowest pending code, or waits. That an arming is confirmed at once in an
eager state is the model's (log entry 5). -/
def Sys2Proof.Claims.MonitoredWait : Prop :=
  (∀ (o : Ctl) (s : State) (k : Nat), Clear o.gw (srcReg o.a) s →
    let s1 := s.noteLatches [o.a]
    s1.resolve s1.cur s.me.ctlSpace needR false (s.me.src o.a) = .ok (.mem k) → s1.owedBank (.mem k) = [] →
    exec (.monitor o) s = .next (s1.setMe { s1.me with monitor :=
      { armed := true, conf := s.eager, space := if s.me.ctlSpace = 1 then 1#2 else 2#2,
        line := (s.me.src o.a).extractLsb' 6 46, key := k, codes := [] } })) ∧
  (∀ (o : Ctl) (s : State), Clear o.gw (dstReg o.w o.d) s →
    (s.me.monitor.armed = false → exec (.waitm o) s = .next (s.putS o.w o.d 1 4#64)) ∧
    (s.me.monitor.armed = true → s.me.monitor.codes = [] →
      ∃ t, exec (.waitm o) s = .next t ∧ t.me.wait = .waitm (o.i6.toNat % 4) o.d o.w s.issue.pos ∧ t.me.waited = 0 ∧
        t = s.setMe { s.me with wait := t.me.wait, waited := 0 }) ∧
    (s.me.monitor.armed = true → s.me.monitor.codes ≠ [] → (∀ x ∈ s.me.monitor.codes, x < 4) →
      ∃ t n, exec (.waitm o) s = .next t ∧ n ∈ s.me.monitor.codes ∧ (∀ x ∈ s.me.monitor.codes, n ≤ x) ∧
        t.me.pend = (s.putS o.w o.d 1 (BitVec.ofNat 64 n)).me.pend ∧ t.me.monitor.armed = false ∧ t.me.monitor.codes = []))

/-- R215: a write that reaches its home leaves code 0 in every monitor that is armed and confirmed on its line, and in no other. -/
def Sys2Proof.Claims.WritesReachMonitors : Prop :=
  ∀ (s : State) (k n x c : Nat),
    ((s.store k n x).core c).monitor.codes =
      (s.core c).monitor.codes ++ (if (s.core c).monitor.armed ∧ (s.core c).monitor.conf ∧ (s.core c).monitor.key / 64 = k / 64
        then [0] else [])

/-- R214 to R216: the home confirms an arming; a dropped or spurious event leaves its code in an armed and confirmed monitor and nowhere else;
a WAITM whose time has run ends with code 2, or with the lowest pending code, and disarms. -/
def Sys2Proof.Claims.MonitorEventsEndWaits : Prop :=
  ∀ (c : Nat) (s : State),
    let x := s.core c
    let m := x.monitor
    exec (.monitorConfirm c) s = .next (s.setCore c { x with monitor := { m with conf := m.armed } }) ∧
    (∀ code, m.armed = true → m.conf = true → code = 3 ∨ code = 1 ∧ m.key < spKey 0 0 →
      exec (.monitorEvent c code) s = .next (s.setCore c { x with monitor := { m with codes := m.codes ++ [code] } })) ∧
    (∀ code, m.armed = false ∨ m.conf = false → exec (.monitorEvent c code) s = .next s) ∧
    (∀ cls d w pos, x.wait = .waitm cls d w pos → (∀ n ∈ m.codes, n < 4) → x.outs = [] → x.pend = [] →
      (x.waited < 2 ^ (10 + 4 * cls) → exec (.waitmTimeout c) s = .next s) ∧
      (2 ^ (10 + 4 * cls) ≤ x.waited → ∃ t n, exec (.waitmTimeout c) s = .next t ∧ (m.codes = [] → n = 2) ∧
        (m.codes ≠ [] → n ∈ m.codes ∧ ∀ i ∈ m.codes, n ≤ i) ∧ (t.core c).wait = .none ∧ (t.core c).monitor.armed = false ∧
        (t.core c).monitor.codes = [] ∧ (t.core c).getS d = (if w = true ∧ d ≠ 0#6 then BitVec.ofNat 64 n else x.getS d) ∧
        (∀ r, r ≠ d → (t.core c).getS r = x.getS r) ∧ (0 ∉ m.codes ∨ foreign (dieOf c) m.key = false → isSup c = false → t.mem = s.mem)))

/-- The monitored wait (R214 to R216). That an eager state confirms an arming at once is the model's (log entry 5). -/
def Obligations.MonitorsAndWaits : Prop :=
  Claims.MonitoredWait ∧ Claims.WritesReachMonitors ∧ Claims.MonitorEventsEndWaits

/-- R218, R219: fences complete when what they wait for is done, and a relaxed FENCE does nothing. One that stands behind accesses or
submits of its own bundle alone lets the bundle issue and waits after it (the model's, log entry 103). -/
def Sys2Proof.Claims.FencesComplete : Prop :=
  ∀ (o : Ctl) (s : State), Clear o.gw [] s →
    let ord := orCode (o.i6.toNat % 8) s.me.ctlOrd
    let scope := orCode (o.i6.toNat / 8) s.me.ctlScope
    (ord = 1 → exec (.fence o) s = .next s) ∧
    (ord ∈ [2, 3, 4, 5] → scope < 3 → s.me.outs = [] → exec (.fence o) s = .next s) ∧
    (ord ∈ [3, 4, 5] → scope < 5 → s.before ≠ [] → exec (.fence o) s = stallOut s) ∧
    (ord ∈ [3, 4, 5] → scope < 5 → s.before = [] → s.me.outs ≠ [] → exec (.fence o) s = .next (s.after (.fence ord scope))) ∧
    (ord ∈ [2, 3, 4, 5] → scope = 4 → s.me.outs = [] → s.me.trace = [] →
      exec (.fence o) s = .next (let r := if ord = 2 then s else s.release (dieOf s.cur)
        if ord = 3 then r else r.acquire (dieOf s.cur))) ∧
    (ord ∈ [2, 3, 4, 5] → scope = 3 → s.me.outs = [] → exec (.fence o) s = .next (if ord = 2 then s else s.traceAll s.cur 16)) ∧
    (ord ∈ [2, 3, 4, 5] → scope = 4 ∨ scope = 5 ∧ s.me.posted = [] ∧ s.me.rejects = [] → s.me.outs = [] →
      exec (.fence o) s = .next (let r := if ord = 2 then s else (s.traceAll s.cur 16).release (dieOf s.cur)
        if ord = 3 then r else r.acquire (dieOf s.cur))) ∧
    (ord ∈ [2, 3, 4, 5] → scope = 5 → s.postedBefore ≠ [] → exec (.fence o) s = stallOut s) ∧
    (scope < 4 → (∀ j ∈ s.me.eng.jobs, j.2.kind = .xarm ∧ j.2.st ≠ .waiting) → exec (.efence o) s = .next s) ∧
    (scope = 4 ∨ scope = 5 ∧ s.me.outs = [] ∧ s.me.posted = [] ∧ s.me.rejects = [] →
      (∀ j ∈ s.me.eng.jobs, j.2.kind = .xarm ∧ j.2.st ≠ .waiting) → exec (.efence o) s = .next (s.release (dieOf s.cur))) ∧
    (scope < 5 → (∃ j ∈ s.me.eng.jobs, j.2.kind ≠ .xarm ∧ j.2.ord < s.issue.job0) → exec (.efence o) s = stallOut s) ∧
    (scope < 5 → (∀ j ∈ s.me.eng.jobs, s.issue.job0 ≤ j.2.ord) → (∃ j ∈ s.me.eng.jobs, j.2.kind ≠ .xarm ∧ j.2.ord < s.me.eng.ordNext) →
      exec (.efence o) s = .next (s.after (.efence scope s.me.eng.ordNext)))

/-- R220, R221: cache maintenance on memory homed on the core's die or in a scratchpad does nothing; on a line of another die at
package or system scope it sends the die's copy home, and CINV drops it; CPREF has no architected effect and never stalls or
traps. -/
def Sys2Proof.Claims.CacheMaintenance : Prop :=
  (∀ (o : Ctl) (s : State), exec (.cpref o) s = .next (if s.me.guardTrue o.gw = true then s.noteLatches [o.a] else s.event 5)) ∧
  (∀ (o : Ctl) (s : State) (k : Nat), Clear o.gw (srcReg o.a) s →
    let s1 := s.noteLatches [o.a]
    let wide := 4 ≤ orCode (o.i6.toNat / 8) s.me.ctlScope ∧ foreign (dieOf s.cur) k = true
    s1.resolve s1.cur s.me.ctlSpace needR false (s.me.src o.a) = .ok (.mem k) →
      exec (.cinv o) s = .next (if wide then s1.flushLine (dieOf s.cur) (k / 64) else s1) ∧
      exec (.cwb o) s = .next (if wide then s1.sendLine (dieOf s.cur) (k / 64) else s1))

/-- R354, R355: what a die sends home is what its agents saw, and after an acquire of package or system scope they see the homes. -/
def Sys2Proof.Claims.CopiesGoHome : Prop :=
  ∀ (s : State) (d a : Nat), Memory.wf s.mem = true → tabSorted (s.die d).copies = true →
    (s.release d).seen d a 1 = s.seen d a 1 ∧
    (∀ c, s.copy? d a = some c → c.dirty.getLsbD (a % 64) = true → (s.release d).rd a 1 = s.seen d a 1) ∧
    (s.acquire d).seen d a 1 = (s.acquire d).rd a 1 ∧ (s.acquire d).mem = (s.release d).mem

/-- R354 (DIE_BATCH_WRITEBACK): the bytes of a copy that agents of its die have written go home, no other byte changes, and the copy is kept
clean, or dropped where it is evicted. -/
def Sys2Proof.Claims.ACopyGoesHomeByLines : Prop :=
  ∀ (d line : Nat) (s : State), Memory.wf s.mem = true →
    (∀ evict, tabGet? (s.die d).copies line = none → exec (.dieBatchWriteback d ⟨line, evict⟩) s = .next s) ∧
    (∀ evict cp, tabGet? (s.die d).copies line = some cp → ∃ t, exec (.dieBatchWriteback d ⟨line, evict⟩) s = .next t ∧ Memory.wf t.mem = true ∧
      (evict = false → tabGet? (t.die d).copies line = some { cp with dirty := 0#64 }) ∧
      (evict = true → tabSorted (s.die d).copies = true → tabGet? (t.die d).copies line = none) ∧
      (∀ i, i < 64 → Memory.get t.mem (line * 64 + i) =
        if cp.dirty.getLsbD i then cp.bytes.extractLsb' (8 * i) 8 else Memory.get s.mem (line * 64 + i)) ∧
      (∀ a, a / 64 ≠ line → Memory.get t.mem a = Memory.get s.mem a))

/-- Fences and die copies (R218 to R221, R354, R355). That a fence behind accesses of its own bundle waits after it is the model's (log entry 103). -/
def Obligations.FencesAndDieCopies : Prop :=
  Claims.FencesComplete ∧ Claims.CacheMaintenance ∧ Claims.CopiesGoHome ∧ Claims.ACopyGoesHomeByLines

/-- R168, R169: DEFER appends one element for each active lane, in lane order, on chip where there is room and else behind what is spilled,
where QPOOL holds 32 bytes for each; DQDRAIN removes the oldest on chip, whatever is spilled; DQCNT counts the elements that the path
held, on chip and in all, at the issue of its bundle. That the tags are written last is the model's (log entry 46). -/
def Sys2Proof.Claims.DeferralQueueIsFirstInFirstOut : Prop :=
  (∀ (o : Vec) (s : State),
    let regs := (List.range (dqNv o + 1)).map fun k => Reg.v (o.va + BitVec.ofNat 5 k)
    Clear (o.ext.map VecX.g) (.v o.vb :: regs ++ maskReg (vx o).msk) s →
    let b := 256 * o.lg.toNat
    let els := ((List.range (8 * 2 ^ o.wd.toNat)).filter fun i => laneOn (s.vMask o) (b + 32 * i)).map fun i =>
      { tag := BitVec.ofNat 16 (vGet (s.me.getV o.vb) (b + 32 * i) 32),
        vals := (List.range (dqNv o + 1)).map fun k =>
          BitVec.ofNat 32 (vGet (s.me.getV (o.va + BitVec.ofNat 5 k)) (b + 32 * i) 32) : DqElem }
    let p := dqPath o
    (s.me.spilled p = [] → s.me.onChip + els.length ≤ 4096 →
      ∃ t, exec (.defer o) s = .next t ∧ t.me.path p = s.me.path p ++ els ∧
        (∀ q, q ≠ p → t.me.path q = s.me.path q) ∧ t.me = { s.me with dq := t.me.dq } ∧ t.mem = s.mem) ∧
    (∀ g, s.me.region = some g → 32 * els.length ≤ s.dev (dieOf s.cur) g.pool 8 →
      (s.me.path p).length + (s.me.spilled p).length + els.length < 2 ^ 32 →
      ∃ t, exec (.defer o) s = .next t ∧ t.issue.res = s.issue.res ∧
        t.me.path p ++ t.me.spilled p = s.me.path p ++ s.me.spilled p ++ els ∧
        ∀ q, q ≠ p → t.me.path q = s.me.path q ∧ t.me.spilled q = s.me.spilled q)) ∧
  (∀ (o : Vec) (s : State),
    let regs := (List.range (dqNv o + 1)).map fun k => Reg.v (o.vd + BitVec.ofNat 5 k)
    Clear (o.ext.map VecX.g) (.v o.vb :: regs) s →
    let n := 8 * 2 ^ o.wd.toNat
    let b := 256 * o.lg.toNat
    let got := (s.me.path (dqPath o)).take n
    ∃ t, exec (.dqdrain o) s = .next t ∧ t.me.path (dqPath o) = (s.me.path (dqPath o)).drop n ∧
      (∀ p, p ≠ dqPath o → t.me.path p = s.me.path p) ∧
      t.me.pend = s.me.pend ++ ((List.range (dqNv o + 1)).map fun k =>
          { left := 1, w := .v (o.vd + BitVec.ofNat 5 k) (vOnes b (32 * n)) (lanesRule b n fun i =>
            ((got[i]?).map fun e => (e.vals.getD k 0#32).toNat).getD 0) : Pend }) ++
        [{ left := 1, w := .v o.vb (vOnes b (32 * n)) (lanesRule b n fun i => ((got[i]?).map fun e => e.tag.toNat).getD 0xFFFFFFFF) }]) ∧
  (∀ (o : Vec) (s : State), Clear (o.ext.map VecX.g) [.v o.vd] s →
    let n := s.issue.dqc.getD (dqPath o) (0, 0)
    exec (.dqcnt o) s = .next (s.post 1 (.v o.vd (vOnes (256 * o.lg.toNat) 64)
      (vAt (256 * o.lg.toNat) 32 n.1 ||| vAt (256 * o.lg.toNat + 32) 32 (min (n.1 + n.2) 0xFFFFFFFF)))))

/-- R168, R187, R188: what returns on chip from a spilled queue keeps its order, and the chip's limits hold: 4,096 elements of a deferral
queue, 512 events of a link core, 512 entries of a ready queue's level; a completion ring that has room takes the oldest entry held
for it. That QPOOL is one word of memory, and who is charged, is the model's (log entry 78). -/
def Sys2Proof.Claims.SpilledQueuesRefillInOrder : Prop :=
  (∀ q s, ∃ t, exec (.queueSpillRefill q) s = .next t) ∧
  (∀ (win : Nat) (s : State), (s.window win).spill = [] → exec (.queueSpillRefill (.ring win)) s = .next s) ∧
  (∀ (c p : Nat) (s : State), p < 4 → (s.core c).onChip ≤ 4096 →
    ∃ t, exec (.queueSpillRefill (.deferral c p)) s = .next t ∧
      (t.core c).path p ++ (t.core c).spilled p = (s.core c).path p ++ (s.core c).spilled p ∧ (t.core c).onChip ≤ 4096 ∧
      ((t.core c).spilled p = [] ∨ (t.core c).onChip = 4096) ∧ (∀ q, q ≠ p → (t.core c).path q = (s.core c).path q)) ∧
  (∀ (k : Nat) (s : State), (s.linkCore k).events.length ≤ 512 →
    ∃ t, exec (.queueSpillRefill (.link k)) s = .next t ∧
      (t.linkCore k).events ++ (t.linkCore k).spill = (s.linkCore k).events ++ (s.linkCore k).spill ∧
      (t.linkCore k).events.length ≤ 512 ∧ ((t.linkCore k).spill = [] ∨ (t.linkCore k).events.length = 512) ∧
      ∀ a, (∀ q, s.root.fwPool? = some q → a < q ∨ q + 8 ≤ a) → t.rd a 1 = s.rd a 1) ∧
  (∀ (l d lvl : Nat) (s : State),
    let mine (e : Ready) : Bool := e.launch = l && e.level = lvl
    let on := (s.die d).ready.countP fun e => mine e && !e.off
    (512 ≤ on → exec (.queueSpillRefill (.ready l d lvl)) s = .next s) ∧
    ((∀ e ∈ (s.die d).ready, mine e = true → e.off = false) → exec (.queueSpillRefill (.ready l d lvl)) s = .next s) ∧
    (∀ pre e post, on < 512 → (s.die d).ready = pre ++ e :: post → mine e = true → e.off = true →
      (∀ x ∈ pre, mine x = true → x.off = false) → e ∉ post →
      ∃ t, exec (.queueSpillRefill (.ready l d lvl)) s = .next t ∧ (t.die d).ready = pre ++ { e with off := false } :: post)) ∧
  (∀ (win : Nat) (e : RingEnt) (rest : List RingEnt) (s : State), (s.window win).spill = e :: rest →
    let w := s.window win
    let tail := s.rd (s.entKey e e.base) 8
    let at' := e.base + 16 + 16 * (tail % e.size)
    let u := ((s.store (s.entKey e at') 8 e.x.toNat).store (s.entKey e (at' + 8)) 8 e.y.toNat).store (s.entKey e e.base) 8 ((tail + 1) % 2 ^ 64)
    let v := match e.paid with | some q => u.pool q.1 q.2 32 | none => u
    let owed (l : List RingEnt) : Prop := w.pool ≠ none ∧ ∃ x ∈ l, x.paid = none
    ((tail + 2 ^ 64 - s.rd (s.entKey e (e.base + 8)) 8) % 2 ^ 64 = e.size → ¬owed (e :: rest) →
      exec (.queueSpillRefill (.ring win)) s = .next s) ∧
    ((tail + 2 ^ 64 - s.rd (s.entKey e (e.base + 8)) 8) % 2 ^ 64 ≠ e.size →
      (∃ t, exec (.queueSpillRefill (.ring win)) s = .next t ∧
        (t.window win).spill.map (fun x => { x with paid := none }) = rest.map fun x => { x with paid := none }) ∧
      (¬owed rest → exec (.queueSpillRefill (.ring win)) s = .next (v.setWindow win { w with spill := rest }))) ∧
    (Memory.wf s.mem = true →
      (∀ p ∈ [(s.entKey e at', s.entKey e (at' + 8)), (s.entKey e at', s.entKey e e.base), (s.entKey e (at' + 8), s.entKey e e.base)],
        p.1 + 8 ≤ p.2 ∨ p.2 + 8 ≤ p.1) →
      u.rd (s.entKey e at') 8 = e.x.toNat ∧ u.rd (s.entKey e (at' + 8)) 8 = e.y.toNat ∧
        u.rd (s.entKey e e.base) 8 = (tail + 1) % 2 ^ 64))

/-- Deferral queues (R168, R169) and the refill of what was spilled (R187, R188). That tags are written last (log entry 46) and the QPOOL word (log entry 78) are the model's. -/
def Obligations.DeferralAndSpilledQueues : Prop :=
  Claims.DeferralQueueIsFirstInFirstOut ∧ Claims.SpilledQueuesRefillInOrder

/-- R129 to R133 and R139: each element-wise vector instruction, and each complex product (R138), writes its function of the parts of
its operands to the active elements after its latency. Which minima, VABS and VNEG are limited or draw (log entry 98), and the order of the NaNs in a
complex product (log entry 99), are the model's. -/
def Sys2Proof.Claims.VectorElementResults : Prop :=
  (∀ r ∈ vRules, ∀ (o : Vec) (s : State), s.typeFault (r.op o) = none →
    Clear (o.ext.map VecX.g) (.v o.vd :: r.reads o ++ maskReg (vx o).msk) s →
    exec (r.op o) s = .next (vDone o r.l r.draws s fun t c q w pos =>
      r.f t c q w (vGet (s.me.getV o.va) pos w) (vGet (s.me.getV o.vb) pos w) (vGet (s.me.getV (vx o).vc) pos w) (vx o).x8)) ∧
  (∀ r ∈ cplxRules, ∀ (o : Vec) (s : State), 6 ≤ s.elType (vx o).fmto →
    Clear (o.ext.map VecX.g) (.v o.vd :: ([.v o.va, .v o.vb] ++ if r.2.2 then [.v (vx o).vc] else []) ++ maskReg (vx o).msk) s →
    exec (r.1 o) s = .next (vDone o 6 drawsFloat s fun t c q w pos =>
      let re := pos - pos % (2 * w)
      cplxRule r.2.1 t c q (pos = re) (vGet (s.me.getV o.va) re w) (vGet (s.me.getV o.va) (re + w) w) (vGet (s.me.getV o.vb) re w)
        (vGet (s.me.getV o.vb) (re + w) w) (if r.2.2 then some (vGet (s.me.getV (vx o).vc) pos w) else none)))

/-- R130 with Table 3-7 (R74): an exact integer is brought to `w` bits by wrapping under codes 0 and 1, by clamping under codes 2 and 3, and SATF is set
where it changes. -/
def Sys2Proof.Claims.IntegerResultsReduce : Prop :=
  ∀ (w sat : Nat) (v : Int), 2 ≤ w →
    (sat < 2 → ((intReduce w sat v).bits : Int) = v % 2 ^ w ∧ (intReduce w sat v).fl = 0#7) ∧
    (sat = 2 → toInt w (intReduce w sat v).bits = (if v < -2 ^ (w - 1) then -2 ^ (w - 1) else if 2 ^ (w - 1) ≤ v then 2 ^ (w - 1) - 1 else v) ∧
      ((intReduce w sat v).fl = fSATF ↔ toInt w (intReduce w sat v).bits ≠ v)) ∧
    (sat = 3 → toInt w (intReduce w sat v).bits = (if v < 0 then 0 else if 2 ^ (w - 1) ≤ v then 2 ^ (w - 1) - 1 else v) ∧
      ((intReduce w sat v).fl = fSATF ↔ toInt w (intReduce w sat v).bits ≠ v))

/-- R127: the types that each instruction takes, and the limits of element indexes, slides and parts; what lies outside raises ILLOP
or ILLRSV whatever the guard. -/
def Sys2Proof.Claims.VectorTypeChecks : Prop :=
  (∀ r ∈ vTypeRules, ∀ (o : Vec) (s : State), r.2 (s.elType (vx o).fmto) = false → exec (r.1 o) s = trapOut cILLOP (encInfo s) s) ∧
  (∀ (o : Vec) (s : State),
    let w := elBits (s.elType (vx o).fmto)
    let n := 256 * 2 ^ o.wd.toNat / w
    let x := (vx o).x8.toNat
    (n ≤ x → exec (.vslideu o) s = trapOut cILLRSV (encInfo s) s ∧ exec (.vslided o) s = trapOut cILLRSV (encInfo s) s) ∧
    (n ≤ x % 128 → exec (.vmovToScalar o) s = trapOut cILLRSV (encInfo s) s ∧ exec (.vbcst o) s = trapOut cILLRSV (encInfo s) s) ∧
    (8 ≤ x % 16 → exec (.vcvt o) s = trapOut cILLRSV (encInfo s) s) ∧
    (x % 16 < 8 → isCplx (s.elType (vx o).fmto) ≠ isCplx (x % 16) → exec (.vcvt o) s = trapOut cILLOP (encInfo s) s) ∧
    (isCplx (s.elType (vx o).fmto) = isCplx (x % 16) → max w (elBits (x % 16)) / min w (elBits (x % 16)) ≤ x / 16 % 4 →
      exec (.vcvt o) s = trapOut cILLRSV (encInfo s) s) ∧
    (s.elType (vx o).fmto < 3 → w < (x % 4 + 1) * (Nf.ofCode s.me.fmtQf).width →
      exec (.vcvtq o) s = trapOut cILLRSV (encInfo s) s ∧ exec (.vdq o) s = trapOut cILLRSV (encInfo s) s))

/-- Element-wise vector arithmetic (R129 to R133, R138, R139), integer reduction (R130, R74) and type checks (R127). Limits and draws of minima, VABS and VNEG, and the order of NaNs in products, are the model's (log entries 98 and 99). -/
def Obligations.VectorArithmeticResults : Prop :=
  Claims.VectorElementResults ∧ Claims.IntegerResultsReduce ∧ Claims.VectorTypeChecks

/-- R134: the mask bits that a vector compare writes: those of the byte lanes of the active elements, each with its element's
condition. -/
def Sys2Proof.Claims.VectorCompareResults : Prop :=
  ∀ r ∈ vCmpRules, ∀ (o : Vec) (s : State), s.typeFault (r.1 o) = none →
    Clear (o.ext.map VecX.g) ([.v o.va, .v o.vb, .m] ++ maskReg (vx o).msk) s →
    let t := s.elType (vx o).fmto
    let w := elBits t
    let p := partRule t
    let n := 256 * 2 ^ o.wd.toNat / w
    let m := s.me.getM (vx o).msk
    let cmp (at' : Nat) := (fcmp (Nf.ofType t) s.me.fmtFtz r.2.1 (vGet (s.me.getV o.va) at' p) (vGet (s.me.getV o.vb) at' p)).1
    let cond (pos : Nat) : Bool :=
      if isIntT t then r.2.2.2.2 (toInt w (vGet (s.me.getV o.va) pos w)) (toInt w (vGet (s.me.getV o.vb) pos w))
      else if isCplx t then r.2.2.2.1 (cmp pos) (cmp (pos + p)) else r.2.2.1 (cmp pos)
    ∃ bits vals fl, exec (r.1 o) s = .next ((s.post 2 (.m (o.vd.setWidth 3) bits vals)).postFlags 2 fl) ∧
      (fl = 0#7 ∨ fl = fNV) ∧ (isIntT t = true → fl = 0#7) ∧
      ∀ k, k < 128 →
        let pos := 256 * o.lg.toNat + (8 * k - 256 * o.lg.toNat) / w * w
        let hit := 256 * o.lg.toNat ≤ 8 * k ∧ 8 * k < 256 * o.lg.toNat + w * n ∧ laneOn m pos = true
        (bits.getLsbD k = true ↔ hit) ∧ (vals.getLsbD k = true ↔ hit ∧ cond pos = true)

/-- R84, R135: a reduction writes element 0 of its groups; where nothing draws, it combines its elements, an inactive lane giving the
identity, in the pairwise tree, the two parts of a complex element separately; where it draws, one draw for each step; with no lane active it
is the identity and raises no flag. That an integer minimum or maximum is not limited is the model's (log entry 98). -/
def Sys2Proof.Claims.ReductionResults : Prop :=
  (∀ r ∈ redRules, ∀ (o : Vec) (s : State), s.typeFault (r.op o) = none →
    Clear (o.ext.map VecX.g) ([.v o.va, .v o.vd] ++ maskReg (vx o).msk) s →
    let t := s.elType (vx o).fmto
    let w := elBits t
    let p := partRule t
    let b := 256 * o.lg.toNat
    let dr := r.draws t && s.codes.mode = 6
    let f := r.f t s.codes
    let el (j : Nat) : Nat := if laneOn (s.me.getM (vx o).msk) (b + w * j) then vGet (s.me.getV o.va) (b + w * j) w
      else r.ident t + if isCplx t then 2 ^ p * r.ident t else 0
    let els := (List.range (256 * 2 ^ o.wd.toNat / w)).map el
    let active : Prop := ∃ j, j < 256 * 2 ^ o.wd.toNat / w ∧ laneOn (s.me.getM (vx o).msk) (b + w * j) = true
    (isCplx t = false → active →
      let q := redTree dr f 7 els s.seedNow 0#7
      exec (r.op o) s = .next (vPut s o.vd 6 dr { bits := vOnes b w, x := vAt b w q.1, fl := q.2.2, seed := q.2.1 })) ∧
    (¬active → ∃ sd, exec (r.op o) s = .next (vPut s o.vd 6 dr
      { bits := vOnes b w, x := vAt b w (r.ident t + if isCplx t then 2 ^ p * r.ident t else 0), fl := 0#7, seed := sd })) ∧
    (isCplx t = true → active → dr = false → ∃ x fl, exec (r.op o) s = .next ((s.post 6 (.v o.vd (vOnes b w) (vAt b w x))).postFlags 6 fl) ∧
      x = (redTree false (fun q a c => let re := f q (a % 2 ^ p) (c % 2 ^ p)
                                       let im := f q (a / 2 ^ p) (c / 2 ^ p)
                                       { bits := re.bits + 2 ^ p * im.bits, fl := re.fl ||| im.fl }) 7 els s.seedNow 0#7).1) ∧
    (isCplx t = true → dr = true → ∃ a, exec (r.op o) s = .next (vPut s o.vd 6 true a) ∧ a.bits = vOnes b w)) ∧
  (∀ (f : Nat → Nat → Nat → Res) (k : Nat) (x y : Nat) (l r : List Nat) (sd : BitVec 32) (fl : Flags), l.length = 2 ^ k →
    r.length = 2 ^ k → (∀ q a b, (f q a b).fl = 0#7) →
    x = (redTree false f k l sd fl).1 → y = (redTree false f k r sd fl).1 →
    (redTree false f (k + 1) (l ++ r) sd fl).1 = (f 0 x y).bits)

/-- Vector compares (R134) and reductions (R84, R135). -/
def Obligations.VectorComparesAndReductions : Prop :=
  Claims.VectorCompareResults ∧ Claims.ReductionResults

/-- R126, R129: where an operation draws nothing, each active element of the groups holds its result and every other bit of the
register is unchanged once the write is made. -/
def Sys2Proof.Claims.ElementsAreWrittenLaneByLane : Prop :=
  ∀ (x : Core) (r : BitVec 5) (m : Mask) (b n w : Nat) (sd : BitVec 32) (f : Nat → Nat → Res), b + w * n ≤ 1024 → 0 < w →
    let a := vLoop m b n w 1 false sd f
    let v := (x.apply (.v r a.bits a.x)).getV r
    (∀ i, i < n → vGet v (b + w * i) w = if laneOn m (b + w * i) then (f (b + w * i) 0).bits % 2 ^ w else vGet (x.getV r) (b + w * i) w) ∧
    (∀ k, k < b ∨ b + w * n ≤ k → v.getLsbD k = (x.getV r).getLsbD k) ∧ a.seed = sd

/-- R135 on integers: VRADD without saturation is the sum of the active elements modulo the element's range, and VRAND their
conjunction. -/
def Sys2Proof.Claims.IntegerReductionsAreOrderFree : Prop :=
  ∀ (o : Vec) (s : State), isIntT (s.elType (vx o).fmto) = true → s.codes.sat < 2 →
    o.lg.toNat + 2 ^ o.wd.toNat ≤ 4 → Clear (o.ext.map VecX.g) ([.v o.va, .v o.vd] ++ maskReg (vx o).msk) s →
    let w := elBits (s.elType (vx o).fmto)
    let b := 256 * o.lg.toNat
    let els := ((List.range (256 * 2 ^ o.wd.toNat / w)).filter fun j => laneOn (s.me.getM (vx o).msk) (b + w * j)).map fun j =>
      vGet (s.me.getV o.va) (b + w * j) w
    exec (.vradd o) s = .next (s.post 6 (.v o.vd (vOnes b w) (vAt b w (els.sum % 2 ^ w)))) ∧
    exec (.vrand o) s = .next (s.post 6 (.v o.vd (vOnes b w) (vAt b w (els.foldl (fun a x => a &&& x) (2 ^ w - 1)))))

/-- Lane by lane (R126, R129), and the order-free integer reductions (R135). -/
def Obligations.LanesAndIntegerReductions : Prop :=
  Claims.ElementsAreWrittenLaneByLane ∧ Claims.IntegerReductionsAreOrderFree

/-- R136, R137: permutes and moves of whole elements; VMOV to a scalar writes whatever the mask. -/
def Sys2Proof.Claims.PermuteResults : Prop :=
  (∀ r ∈ permRules, ∀ (o : Vec) (s : State), s.typeFault (r.1 o) = none →
    Clear (o.ext.map VecX.g) (.v o.vd :: r.2.1 o ++ maskReg (vx o).msk) s →
    let w := elBits (s.elType (vx o).fmto)
    let n := 256 * 2 ^ o.wd.toNat / w
    let b := 256 * o.lg.toNat
    exec (r.1 o) s = .next (vPut s o.vd 2 false (vLoop (s.me.getM (vx o).msk) b n w 1 false 0#32 fun pos _ =>
      exact (r.2.2 (fun j => vGet (s.me.getV o.va) (b + w * j) w) (fun j => vGet (s.me.getV o.vb) (b + w * j) w) n w
        (s.me.getS (o.va.setWidth 6)) (vx o).x8.toNat ((pos - b) / w))))) ∧
  (∀ (o : Vec) (s : State), s.typeFault (.vmovToScalar o) = none →
    Clear (o.ext.map VecX.g) [.s (o.vd.setWidth 6), .v o.va] s →
    let w := elBits (s.elType (vx o).fmto)
    exec (.vmovToScalar o) s = .next (s.post 2 (.s (o.vd.setWidth 6)
      (BitVec.ofNat 64 (vGet (s.me.getV o.va) (256 * o.lg.toNat + w * ((vx o).x8.toNat % 128)) w)))))

/-- R140: operations on masks, the count and the first of the bits that are set. -/
def Sys2Proof.Claims.MaskResults : Prop :=
  (∀ r ∈ maskRules, ∀ (o : Vec) (s : State), Clear (o.ext.map VecX.g) ([.m] ++ maskReg (vx o).msk) s →
    ∃ bits, exec (r.1 o) s = .next (s.post 2 (.m (o.vd.setWidth 3) bits (r.2 (s.me.getM (o.va.setWidth 3)) (s.me.getM (o.vb.setWidth 3))))) ∧
      ∀ k, k < 128 → (bits.getLsbD k = true ↔
        32 * o.lg.toNat ≤ k ∧ k < 32 * o.lg.toNat + 32 * 2 ^ o.wd.toNat ∧ (s.me.getM (vx o).msk).getLsbD k = true)) ∧
  (∀ (o : Vec) (s : State), Clear (o.ext.map VecX.g) ([.m, .v o.vd] ++ maskReg (vx o).msk) s →
    let b := 256 * o.lg.toNat
    let on := (List.range (32 * 2 ^ o.wd.toNat)).filter fun k => 32 * o.lg.toNat + k < 128 &&
      (s.me.getM (o.va.setWidth 3)).getLsbD (32 * o.lg.toNat + k) && (s.me.getM (vx o).msk).getLsbD (32 * o.lg.toNat + k)
    exec (.mpopc o) s = .next (s.post 2 (.v o.vd (vOnes b 32) (vAt b 32 on.length))) ∧
    exec (.mfirst o) s = .next (s.post 2 (.v o.vd (vOnes b 32) (vAt b 32 (on.headD 0xFFFFFFFF)))))

/-- Permutes (R136, R137) and mask operations (R140). -/
def Obligations.PermutesAndMasks : Prop :=
  Claims.PermuteResults ∧ Claims.MaskResults

/-- R141: VCVT converts part P of the wider register; each result stands in its destination element. That a widening VCVT draws nothing is the model's (log entry 13). -/
def Sys2Proof.Claims.VectorConversionResults : Prop :=
  ∀ (o : Vec) (s : State), s.typeFault (.vcvt o) = none → (vx o).x8.toNat % 16 < 8 →
    Clear (o.ext.map VecX.g) ([.v o.va, .v o.vd] ++ maskReg (vx o).msk) s →
    let t := s.elType (vx o).fmto
    let d := (vx o).x8.toNat % 16
    let p := (vx o).x8.toNat / 16 % 4
    let ws := elBits t
    let wt := elBits d
    let n := 256 * 2 ^ o.wd.toNat / max ws wt
    let b := 256 * o.lg.toNat
    let lo := b + if wt < ws then wt * (p * n) else 0
    let dr := !widens (Nf.ofType t) (Nf.ofType d) && s.codes.mode = 6
    exec (.vcvt o) s = .next (vPut s o.vd 4 dr (vLoop (s.me.getM (vx o).msk) lo n wt (vParts t) dr s.seedNow fun pos q =>
      let i := (pos - lo) / wt + if ws < wt then p * n else 0
      let k := (pos - lo) % wt / partRule d
      convert (Nf.ofType t) (Nf.ofType d) s.codes q (vGet (s.me.getV o.va) (b + ws * i + partRule t * k) (partRule t))))

/-- R142 to R146: quantisation. VCVTQ packs codes, VDQ unpacks them, each with the scale of its block of 32; VMAXEXP writes one S24
for each block, and a block with a NaN or an infinity gives 0xFF0000; VSCLMV moves the scales. -/
def Sys2Proof.Claims.QuantisationResults : Prop :=
  (∀ (o : Vec) (s : State), Clear (o.ext.map VecX.g) ([.v o.va, .v o.vd] ++ maskReg (vx o).msk) s →
    let t := s.elType (vx o).fmto
    let w := elBits t
    let n := 256 * 2 ^ o.wd.toNat / w
    let b := 256 * o.lg.toNat
    let q := Nf.ofCode s.me.fmtQf
    let lo := b + (vx o).x8.toNat % 4 * n * q.width
    let dr := s.codes.mode = 6
    let acc : VAcc := { bits := 0#1024, x := 0#1024, fl := 0#7, seed := s.seedNow }
    let scale (i : Nat) : Nat := (s.me.scl >>> (24 * (i / 32))).toNat % 2 ^ 24
    let on (i : Nat) : Bool := laneOn (s.me.getM (vx o).msk) (b + w * i)
    (s.typeFault (.vcvtq o) = none → exec (.vcvtq o) s = .next (vPut s o.vd 4 dr (((List.range n).filter on).foldl (fun a i =>
      a.add dr (lo + q.width * i) q.width fun r => quantise (Nf.ofType t) q s.codes r (vGet (s.me.getV o.va) (b + w * i) w) (scale i)) acc))) ∧
    (s.typeFault (.vdq o) = none → exec (.vdq o) s = .next (vPut s o.vd 4 dr (((List.range n).filter on).foldl (fun a i =>
      a.add dr (b + w * i) w fun r => dequantise q (Nf.ofType t) s.codes r (vGet (s.me.getV o.va) (lo + q.width * i) q.width) (scale i)) acc)))) ∧
  (∀ (o : Vec) (s : State), s.typeFault (.vmaxexp o) = none → Clear (o.ext.map VecX.g) ([.v o.va] ++ maskReg (vx o).msk) s →
    let w := elBits (s.elType (vx o).fmto)
    let n := 256 * 2 ^ o.wd.toNat / w
    (∃ keep x fl, exec (.vmaxexp o) s = .next ((s.post 3 (.scl keep x)).postFlags 3 fl) ∧
      keep = (if n ≤ 32 then 0xFFFFFF#48 else 0xFFFFFFFFFFFF#48) ∧ x.extractLsb' 0 24 = BitVec.ofNat 24 (maxExpBlock s o 0).1 ∧
      (32 < n → x.extractLsb' 24 24 = BitVec.ofNat 24 (maxExpBlock s o 1).1)) ∧
    (∀ k i, i < min 32 n → laneOn (s.me.getM (vx o).msk) (256 * o.lg.toNat + w * (32 * k + i)) = true →
      ((Nf.ofType (s.elType (vx o).fmto)).read s.codes.ftz (vGet (s.me.getV o.va) (256 * o.lg.toNat + w * (32 * k + i)) w)).isInf = true →
      (maxExpBlock s o k).1 = 0xFF0000)) ∧
  (∀ (o : Vec) (s : State), Clear (o.ext.map VecX.g) [.v o.vd] s →
    exec (.vsclmvToVector o) s = .next (s.post 4 (.v o.vd (vOnes (256 * o.lg.toNat) 64)
      (vAt (256 * o.lg.toNat) 64 (s.me.scl.toNat % 2 ^ 24 + 2 ^ 32 * (s.me.scl.toNat / 2 ^ 24)))))) ∧
  (∀ (o : Vec) (s : State), Clear (o.ext.map VecX.g) [.v o.va] s →
    exec (.vsclmvToScl o) s = .next (s.post 4 (.scl (BitVec.allOnes 48)
      (BitVec.ofNat 48 (vGet (s.me.getV o.va) (256 * o.lg.toNat) 24 + 2 ^ 24 * vGet (s.me.getV o.va) (256 * o.lg.toNat + 32) 24)))))

/-- Conversion (R141) and quantisation (R142 to R146). That a widening VCVT draws nothing is the model's (log entry 13). -/
def Obligations.VectorConversionsAndQuantisation : Prop :=
  Claims.VectorConversionResults ∧ Claims.QuantisationResults

/-- R295 and R297 to R302: SKUPDV sends one update for each row of each active lane whose quantity is not zero, SKQRYV one query
for each active lane, after the accesses of their own bundle that stand before them (R229); an update adds its signed quantity, clamped,
at the counter, and records a clamp in the status word. -/
def Sys2Proof.Claims.SketchVectorInstructions : Prop :=
  (∀ (o : Vec) (s : State) (key : Nat) (d : SkDesc), s.elType (vx o).fmto = 0 →
    let a := s.me.src (skSrc o)
    let s1 := (s.noteLatches [skSrc o]).ownFirst State.perform
    a.toNat % 32 = 0 → s1.space = 2 → s1.resolve s1.cur 2 needR false a = .ok (.mem key) → s1.readHeld s1.cur key 16 = false →
    skDesc a (s1.readNow s1.cur key 8) (s1.readNow s1.cur (key + 8) 8) = .inr d → s1.codes.mode ≠ 6 →
    (∀ lanes, Clear (o.ext.map VecX.g) (srcReg (skSrc o) ++ [.v o.va, .v o.vb, .v (vx o).vc] ++ maskReg (vx o).msk) s →
      s1.skLanes needRW o d = .inr lanes →
      let q (ln : SkLane) := quantity .f32 s1.codes.mode 0 d.f (vGet (s1.me.getV o.va) ln.pos 32)
      let evs := lanes.flatMap fun ln =>
        if (q ln).1 = 0 then
          (if (q ln).2.2 = 0 then [] else
            [s1.skEvent (.sketch 0 d.base key (q ln).2.2 (a.toNat % 2 ^ 52 + 16)) (key + 16) (a.toNat % 2 ^ 52 + 16) 8])
        else ln.rows.map fun x => s1.skEvent (.sketch (if x.1 then -(q ln).1 else (q ln).1) d.base key (q ln).2.2 (a.toNat % 2 ^ 52 + 16)) x.2.1 x.2.2 4
      exec (.skupdv o) s = .next ((evs.foldl (fun t e => t.issueOne State.perform e) s1).postFlags 1
        (lanes.foldl (fun f ln => f ||| (q ln).2.1) 0#7))) ∧
    (∀ lanes, Clear (o.ext.map VecX.g) (srcReg (skSrc o) ++ [.v o.vd, .v o.vb, .v (vx o).vc] ++ maskReg (vx o).msk) s →
      s1.skLanes needR o d = .inr lanes →
      exec (.skqryv o) s = .next (lanes.foldl (fun t ln => t.issueOne State.perform
        (s1.skEvent (.query o.vd ln.pos (ln.rows.map fun x => (x.1, x.2.1)) d.base d.f s1.codes.mode 0 [])
          (ln.rows.headD (false, 0, 0)).2.1 (ln.rows.headD (false, 0, 0)).2.2 4)) s1))) ∧
  (∀ (s : State) (d k desc : Nat) (q : Int), (s.die d).copies = [] → Memory.wf s.mem = true → k + 4 ≤ desc + 16 ∨ desc + 24 ≤ k →
    let c := toInt 32 (s.rd k 4) + q
    let r := if 2 ^ 31 - 1 < c then 2 ^ 31 - 1 else if c < -(2 ^ 31 - 1) then -(2 ^ 31 - 1) else c
    toInt 32 ((s.skUpdate d k desc q 0).rd k 4) = r ∧
    (s.skUpdate d k desc q 0).rd (desc + 16) 8 = s.rd (desc + 16) 8 ||| (if r = c then 0 else 1))

/-- R296: the median of an odd number of values is one of them, with at most half of them below it and at most half above. -/
def Sys2Proof.Claims.TheMedianHalvesItsValues : Prop :=
  ∀ (xs : List Int), xs.length % 2 = 1 → median xs ∈ xs ∧ 2 * xs.countP (fun x => x < median xs) < xs.length ∧
    2 * xs.countP (fun x => median xs < x) < xs.length

/-- Sketch instructions (R295 to R302) and the median (R296). -/
def Obligations.SketchInstructions : Prop :=
  Claims.SketchVectorInstructions ∧ Claims.TheMedianHalvesItsValues

/-- R262, R274, R275, R281, R340: ESET writes one pair of parameters, and none for a number above 7 (the model's, log entry 105); TWAIT waits, reports the lowest unreported fault or goes on; TDEP
and MCFG are kept for later; TCANCEL cancels its slots; TMARK queues a MARK record. -/
def Sys2Proof.Claims.EngineCommands : Prop :=
  (∀ (o : Eset) (s : State), 8 ≤ o.n.toNat → Clear o.e.gw [.s o.e.sa, .s o.e.sb] s → exec (.eset o) s = .next s) ∧
  (∀ (o : Eset) (s : State), o.n.toNat < 8 → o.e.eng.toNat < 8 → Clear o.e.gw [.s o.e.sa, .s o.e.sb] s →
    ∃ t, exec (.eset o) s = .next t ∧ t = s.setMe { s.me with eng := { s.me.eng with params := t.me.eng.params } } ∧
      ∀ g n, g < 8 → n < 16 → t.me.eng.param g n =
        if g = o.e.eng.toNat ∧ n = 2 * o.n.toNat then s.me.getS o.e.sa
        else if g = o.e.eng.toNat ∧ n = 2 * o.n.toNat + 1 then s.me.getS o.e.sb else s.me.eng.param g n) ∧
  (∀ (o : En) (s : State), Clear o.gw [.s o.sa] s →
    let m := s.me.getS o.sa
    ((∃ k, k < 64 ∧ m.getLsbD k = true ∧ (tabGet? s.me.eng.jobs k).isSome = true) →
      ∃ t, exec (.twait o) s = .next t ∧ t.issue.res = .stalled ∧ t = { s with issue := t.issue }) ∧
    ((∀ k, k < 64 → m.getLsbD k = true → tabGet? s.me.eng.jobs k = none) →
      (m &&& s.me.eng.unrep = 0#64 → exec (.twait o) s = .next s) ∧
      (∀ k, k < 64 → m.getLsbD k = true → s.me.eng.unrep.getLsbD k = true →
        (∀ i, i < k → m.getLsbD i = true → s.me.eng.unrep.getLsbD i = false) →
        exec (.twait o) s = trapOut cENGFAULT (BitVec.ofNat 64 (k * 256 + 48)) { s with issue := { s.issue with told := some k } })) ∧
    exec (.tdep o) s = .next (s.setMe { s.me with eng := { s.me.eng with tdep := s.me.eng.tdep ||| m } }) ∧
    exec (.tcancel o) s =
      .next (((List.range 64).filter fun k => m.getLsbD k).foldl (fun a k => a.endJob a.cur k 2 0#6) s) ∧
    (s.me.trace.length < 16 → s.me.pmcCfg.getLsbD 61 = true →
      ∃ t, exec (.tmark o) s = .next t ∧ t = s.setMe { s.me with trace := t.me.trace } ∧
        ∃ r, t.me.trace = s.me.trace ++ [r] ∧ r.kind = 1#4 ∧ r.pc = s.issue.addr.setWidth 52 ∧ r.data = m ∧ r.cycle = s.me.cycle) ∧
    (16 ≤ s.me.trace.length → exec (.tmark o) s = stallOut s)) ∧
  (∀ (o : En) (s : State), Clear o.gw [] s →
    let m := (s.me.eng.ordNext, o.eng.toNat, o.sa.setWidth 2)
    exec (.mcfg o) s = .next (s.setMe { s.me with
      eng := { s.me.eng with ordNext := s.me.eng.ordNext + 1, mcfgs := s.me.eng.mcfgs ++ [m] } }))

/-- R264, R268, R273: a submit that no check stops puts a waiting job, with its parameters and footprints, into its free slot, takes
the next job number, and clears the TDEP mask and the slot's unreported fault. -/
def Sys2Proof.Claims.SubmitsTakeAFreeSlot : Prop :=
  ∀ r ∈ submitRules, ∀ (o : En) (s : State), Clear o.gw [] s → tabGet? s.me.eng.jobs o.sa.toNat = none → Accepted (r.2 o s) s →
    (readsAtSubmit (r.2 o s).kind = true → s.issue.mine = 0) → ((r.2 o s).kind = .xcoll → ∀ j, ((r.2 o s).fill j).coll.bind Coll.refuse = none) →
    ∃ t j, exec (r.1 o) s = .next t ∧ t.issue.res = s.issue.res ∧ t.mem = s.mem ∧ tabGet? t.me.eng.jobs o.sa.toNat = some j ∧
      j.kind = (r.2 o s).kind ∧ j.eng = o.eng.toNat ∧ j.ord = s.me.eng.ordNext ∧ j.st = .waiting ∧ j.prog = 0 ∧
      j.reads = (r.2 o s).reads ∧ j.writes = (r.2 o s).writes ∧ (j.kind ≠ .xcoll → j.ps = s.me.eng.all o.eng.toNat) ∧
      t.me.eng.ordNext = s.me.eng.ordNext + 1 ∧ t.me.eng.tdep = 0#64 ∧ t.me.eng.unrep.getLsbD o.sa.toNat = false ∧
      (∀ k, k ≠ o.sa.toNat → tabGet? t.me.eng.jobs k = tabGet? s.me.eng.jobs k) ∧ t.me.s = s.me.s ∧ t.me.pend = s.me.pend

/-- R264, R267: the order of the checks of a submit: a slot in use, then its parameters, then the status area with REASON 4, then the array's
mode, then the scratchpad banks and the tiles. That the status area comes after the parameters, that one which runs past the scratchpad has
REASON 4, and that banks come before tiles is the model's (log entry 30). -/
def Sys2Proof.Claims.SubmitsFailInOrder : Prop :=
  ∀ r ∈ submitRules, ∀ (o : En) (s : State), Clear o.gw [] s → (readsAtSubmit (r.2 o s).kind = true → s.issue.mine = 0) →
    ((tabGet? s.me.eng.jobs o.sa.toNat).isSome = true →
      exec (r.1 o) s = trapOut cENGFAULT (BitVec.ofNat 64 (o.sa.toNat * 256 + 16)) s) ∧
    (∀ n, tabGet? s.me.eng.jobs o.sa.toNat = none → (r.2 o s).hold = false → (r.2 o s).early = none → (r.2 o s).bad = some n →
      exec (r.1 o) s = trapOut cENGFAULT (BitVec.ofNat 64 n) s) ∧
    (tabGet? s.me.eng.jobs o.sa.toNat = none → (r.2 o s).hold = false → (r.2 o s).early = none → (r.2 o s).bad = none →
      let p0 := s.me.eng.param 5 0
      let u := r.2 o s
      let whole : Prop := ∀ p ∈ u.locals ++ statusArea p0, lowRefused s.me.spmAllot p = none
      (fld p0 22 41 ≠ 0 ∨ p0.getLsbD 63 = true ∧ (fld p0 0 3 ≠ 0 ∨ 2 ^ 22 < fld p0 0 22 + 512) →
        exec (r.1 o) s = trapOut cENGFAULT (BitVec.ofNat 64 (o.sa.toNat * 256 + 64)) s) ∧
      (fld p0 22 41 = 0 → (p0.getLsbD 63 = true → fld p0 0 3 = 0 ∧ fld p0 0 22 + 512 ≤ 2 ^ 22) →
        (u.mode = true → exec (r.1 o) s = trapOut cENGFAULT (BitVec.ofNat 64 (o.sa.toNat * 256 + 32)) s) ∧
        (u.mode = false → ∀ p ∈ u.locals ++ statusArea p0, 0 < p.len → (∀ x ∈ p.dims, 0 < x.1) → p.base < 2 ^ 22 → s.me.spmAllot = 0#64 →
          ∃ off, exec (r.1 o) s = trapOut cALLOT (BitVec.ofNat 64 off) s ∧ off ≤ p.base) ∧
        (u.mode = false → whole → (∃ t ∈ u.tiles, s.me.accAllot.getLsbD t = false) →
          ∃ t ∈ u.tiles, s.me.accAllot.getLsbD t = false ∧ exec (r.1 o) s = trapOut cALLOT (BitVec.ofNat 64 (2 ^ 63 + t)) s)))

/-- Engine commands and submits (R262, R264, R268, R273 to R275, R281, R340). That ESET with a number above 7 writes nothing (log entry 105) and the order around the status area and the tiles (log entry 30) are the model's choice. -/
def Obligations.EngineCommandsAndSubmits : Prop :=
  Claims.EngineCommands ∧ Claims.SubmitsTakeAFreeSlot ∧ Claims.SubmitsFailInOrder

/-- R242 to R249: the phaser commands. In a state in which nothing waits before it (the model's `eager` state, log entry 5), a command
is made at the phaser's home: PHINIT sets BYTES, EXPECTED and nothing else; PHREG and PHDROP change what is pending; PHSIG signals;
PHWAIT goes on where the phase has changed or ERR is set, and else waits. -/
def Sys2Proof.Claims.PhaserCommandsReachTheirHome : Prop :=
  (∀ (o : En) (s : State), let a := (s.me.getS o.sa).toNat
    let x := s.me.getS o.sb
    let k := spKey s.cur a
    Clear o.gw [.s o.sa, .s o.sb] s → a < 2 ^ 22 → s.me.spmAllot.getLsbD (a / 2 ^ 16) = true → s.owedBank (.mem k) = [] →
    s.eager = true → s.me.outs = [] → s.me.eng.phq = [] → s.cur < 2056 → Memory.wf s.mem = true →
    (a % 16 ≤ 1 → ∃ t, exec (.phinit o) s = .next t ∧ t.phGet (spKey s.cur (a / 16 * 16)) =
      (if a % 2 = 1 then 2 ^ 61 else 0, x.toNat)) ∧
    (a % 16 = 0 →
      (∀ m, m ∈ [1, 2, 3] → x = BitVec.ofNat 64 m →
        (∃ t, exec (.phreg o) s = .next t ∧ t.phGet k = (phChange (s.phGet k).1 m 1, (s.phGet k).2)) ∧
        (∃ t, exec (.phdrop o) s = .next t ∧ t.phGet k = (phChange (s.phGet k).1 m (-1), (s.phGet k).2))) ∧
      (∃ t, exec (.phsig o) s = .next t ∧
        t.phGet k = phSignal (s.phGet k).1 (s.phGet k).2 (if phBytes (s.phGet k).1 then x.toNat % 2 ^ 48 else 1)) ∧
      (∃ t, exec (.phsw o) s = .next t ∧
        (t.phGet k = phSignal (s.phGet k).1 (s.phGet k).2 (if phBytes (s.phGet k).1 then x.toNat % 2 ^ 48 else 1)) ∧
        (t.me.wait = .none ∨ t.me.wait = .phwait k (phP (s.phGet k).1))) ∧
      (phP (s.phGet k).1 ≠ x.getLsbD 0 ∨ phErr (s.phGet k).1 = true →
        ∃ t, exec (.phwait o) s = .next t ∧ t.me.wait = .none ∧ t.mem = s.mem) ∧
      (phP (s.phGet k).1 = x.getLsbD 0 → phErr (s.phGet k).1 = false →
        ∃ t, exec (.phwait o) s = .next t ∧ t.me.wait = .phwait k (x.getLsbD 0) ∧ t.mem = s.mem))) ∧
  (∀ (o : En) (s : State), Clear o.gw [.s o.sa, .s o.sb] s → (s.me.getS o.sb = 0#64 ∨ 4 ≤ (s.me.getS o.sb).toNat) →
    exec (.phreg o) s = trapOut cENGFAULT (s.me.getS o.sb) s ∧ exec (.phdrop o) s = trapOut cENGFAULT (s.me.getS o.sb) s)

/-- R246: what a signal does to a phaser's words: it counts, and at EXPECTED the phase changes, ARRIVED and what is pending return to 0,
and EXPECTED and WAITERS take the pending changes. -/
def Sys2Proof.Claims.SignalCompletesAPhase : Prop :=
  ∀ (w0 w1 n : Nat), w0 < 2 ^ 64 → w1 < 2 ^ 64 → 0 < n → 0 < phExpected w1 → phArrived w0 + n < 2 ^ 48 →
    let r := phSignal w0 w1 n
    (phArrived w0 + n < phExpected w1 →
      phArrived r.1 = phArrived w0 + n ∧ phP r.1 = phP w0 ∧ phErr r.1 = phErr w0 ∧ phBytes r.1 = phBytes w0 ∧
        phSpend r.1 = phSpend w0 ∧ phWpend r.1 = phWpend w0 ∧ r.2 = w1) ∧
    (phExpected w1 ≤ phArrived w0 + n → 0 ≤ (phExpected w1 : Int) + phSpend w0 → (phExpected w1 : Int) + phSpend w0 < 2 ^ 48 →
      0 ≤ (phWaiters w1 : Int) + phWpend w0 → (phWaiters w1 : Int) + phWpend w0 < 2 ^ 16 →
      phP r.1 = !phP w0 ∧ phArrived r.1 = 0 ∧ phSpend r.1 = 0 ∧ phWpend r.1 = 0 ∧ phBytes r.1 = phBytes w0 ∧
        phErr r.1 = (phErr w0 || decide (phExpected w1 < phArrived w0 + n)) ∧
        (phExpected r.2 : Int) = phExpected w1 + phSpend w0 ∧ (phWaiters r.2 : Int) = phWaiters w1 + phWpend w0)

/-- R243 to R249: a posted phaser command that nothing holds back is made at its home and leaves the queue; one that is held back stays. What
a job does to a phaser, behind commands of its core, is among them: its signal sets ERR at a phaser of the other kind. A wait that is
registered at its home ends when the phase has changed or ERR is set. -/
def Sys2Proof.Claims.QueuedPhaserCommandsArrive : Prop :=
  (∀ (c i : Nat) (p : PhCmd) (s : State), (s.core c).eng.phq[i]? = some p →
    let signals := p.op.signals
    ((s.core c).phReady i p = false → exec (.phaserCommandArrive c i) s = .next s ∧ exec (.phaserSignal c i) s = .next s) ∧
    ((s.core c).phReady i p = true → farPhaser c p.key = false → Memory.wf s.mem = true →
      let w := s.phGet p.key
      (signals = false → ∃ t, exec (.phaserCommandArrive c i) s = .next t ∧ (t.core c).eng.phq = (s.core c).eng.phq.eraseIdx i ∧
        exec (.phaserSignal c i) s = .next s ∧ t.phGet p.key = (match p.op with
          | .init => (if p.bytes then 2 ^ 61 else 0, p.x.toNat)
          | .reg => (phChange w.1 (p.x.toNat % 4) 1, w.2)
          | .drop => (phChange w.1 (p.x.toNat % 4) (-1), w.2)
          | .fail => (phWithErr w.1, w.2)
          | _ => w)) ∧
      (signals = true → ∃ t, exec (.phaserSignal c i) s = .next t ∧ (t.core c).eng.phq = (s.core c).eng.phq.eraseIdx i ∧
        exec (.phaserCommandArrive c i) s = .next s ∧
        t.phGet p.key = (match p.op with
          | .job => if phBytes w.1 = p.bytes then phSignal w.1 w.2 p.x.toNat else (phWithErr w.1, w.2)
          | _ => phSignal w.1 w.2 (if phBytes w.1 then p.x.toNat % 2 ^ 48 else 1))))) ∧
  (∀ (c key : Nat) (phase : Bool) (s : State), (s.core c).wait = .phwait key phase → farPhaser c key = false → (s.core c).outs = [] → isSup c = false →
    ∃ t, exec (.phaserWaitComplete c) s = .next t ∧ t.mem = s.mem ∧
      ((t.core c).wait = .none ↔ s.phOver key phase = true)) ∧
  (∀ (c key : Nat) (boundary : Bool) (s : State), (s.core c).wait = .phdone key boundary → farPhaser c key = false → (s.core c).outs = [] → isSup c = false →
    ∃ t, exec (.phaserWaitComplete c) s = .next t ∧ t.mem = s.mem ∧ (t.core c).wait = .none)

/-- Phasers (R242 to R249). The eager mode in which a command is made at once is the model's (log entry 5). -/
def Obligations.Phasers : Prop :=
  Claims.PhaserCommandsReachTheirHome ∧ Claims.SignalCompletesAPhase ∧ Claims.QueuedPhaserCommandsArrive

/-- R264, R271: an engine starts the ready job that was submitted first: one whose edges are gone, that nothing of its array holds
back, and whose footprint no access outstanding at its submit still meets (R237). An XARM that starts arms its window under the next arming number (R374). With no ready job nothing happens. -/
def Sys2Proof.Claims.JobsStartInSubmitOrder : Prop :=
  ∀ (c eng slot : Nat) (s : State),
    let ready (x : Nat × Job) : Prop := x.2.eng = eng ∧ x.2.st = .waiting ∧ x.2.edges = [] ∧ (s.eng c).held x.2 = false ∧
      (s.core c).jobHeld c x.2 = false
    ((∀ x ∈ (s.eng c).jobs, ¬ ready x) → exec (.jobStart c eng) s = .next s) ∧
    (∀ j, s.job? c slot = some j → ready (slot, j) → (∀ x ∈ (s.eng c).jobs, ready x → x = (slot, j) ∨ j.ord < x.2.ord) →
      j.kind ≠ .xcoll →
      ∃ t j', exec (.jobStart c eng) s = .next t ∧ t.job? c slot = some j' ∧
        j' = { j with st := .running, start := (s.core c).cycle, seed := j'.seed } ∧
        (∀ k, k ≠ slot → t.job? c k = s.job? c k) ∧ (t.core c).s = (s.core c).s ∧
        (j.kind ≠ .xarm → t.mem = s.mem ∧ t.windows = s.windows) ∧
        (j.kind = .xarm → let w := t.window (fld (j.p 1) 32 10)
          w.st = .armed ∧ w.arm = (s.window (fld (j.p 1) 32 10)).arm + 1#16 ∧ w.core = c ∧ w.ord = j.ord ∧ w.ps = j.ps ∧
            w.got = 0 ∧ w.tiles = 0))

/-- R266, R267, R271: a job that has done its work leaves its slot free, releases every job that waited for it, and leaves PROGRESS,
FLAGS and CODE 1 in its status doubleword. -/
def Sys2Proof.Claims.FinishedJobsReleaseTheirSuccessors : Prop :=
  ∀ (c slot : Nat) (j : Job) (s : State), s.job? c slot = some j → tabSorted (s.eng c).jobs = true → j.st = .running →
    (j.kind ∈ [.copy, .cstrm] ∧ granules j.ps ≤ j.prog ∨ j.kind ∈ [.xwr, .xwrPlace, .xrd, .xamo] ∧ j.packets ≤ j.prog ∨
      j.kind = .mma ∧ (mmaOf j.ps j.sb).steps ≤ j.prog ∧ j.p 4 = 0#64) →
    ∃ t, exec (.jobEnd c slot) s = .next t ∧ t.job? c slot = none ∧
      (∀ k i, k ≠ slot → s.job? c k = some i →
        t.job? c k = some { i with edges := i.edges.filter fun g => g.ord ≠ j.ord }) ∧
      (t.eng c).unrep = (s.eng c).unrep ∧ (j.status = none → t.mem = s.mem) ∧
      (∀ b, j.status = some b → Memory.wf s.mem = true →
        t.rd (spKey c (b + 8 * slot)) 8 = j.prog % 2 ^ 32 * 2 ^ 32 + j.fl.toNat % 64 * 2 ^ 8 + 1)

/-- Starting and finishing jobs (R237, R264, R266, R267, R271, R374). -/
def Obligations.JobsStartAndEnd : Prop :=
  Claims.JobsStartInSubmitOrder ∧ Claims.FinishedJobsReleaseTheirSuccessors

/-- R272, R326, R327: a running job that meets a fault ends with CODE 3 and its cause, and its slot's fault is unreported; one that
meets XLATE at its next unit (stated for copies and for jobs of the transport) keeps its slot, parked at its boundary, and a record of KIND 3 arises, and no other
address parks it. JOBRESUME lets a parked job go on; JOBKILL ends it with
CODE 3. The status of a reduction's job holds PROGRESS 0 (the model's, log entry 48). Both answer in CMDSTAT, with 3 where the slot holds no parked job. -/
def Obligations.JobsMeetFaults : Prop :=
  ∀ (c slot : Nat) (j : Job) (s : State), slot < 64 → s.job? c slot = some j → tabSorted (s.eng c).jobs = true →
    (j.st = .running → j.kind ∉ [.mma, .cstrm, .xarm, .xcoll] → (∀ x ∈ (s.eng c).jobs, ∀ g ∈ x.2.edges, g.ord ≠ j.ord) →
      ∀ cause, cause = cSOFTERR ∨ cause ∈ [cREMOTE, cTIMEOUT] ∧ j.sends = true ∧ j.prog < j.packets →
      ∃ t, exec (.jobFault c slot cause) s = .next t ∧ t.job? c slot = none ∧ (t.eng c).unrep.getLsbD slot = true ∧
        (∀ k, k ≠ slot → t.job? c k = s.job? c k) ∧
        (∀ b, j.status = some b → Memory.wf s.mem = true → t.rd (spKey c (b + 8 * slot)) 8 =
          (if j.kind = .rdsend then 0 else j.prog) % 2 ^ 32 * 2 ^ 32 + cause.toNat * 2 ^ 24 + j.fl.toNat % 64 * 2 ^ 8 + 3)) ∧
    (j.st = .running → j.sends = false ∨ j.packets ≤ j.prog →
      ∀ cause, cause ∈ [cREMOTE, cTIMEOUT] → exec (.jobFault c slot cause) s = .next s) ∧
    (j.st = .running → j.kind = .copy → j.prog < granules j.ps → (∀ x ∈ (s.eng c).jobs, ∀ g ∈ x.2.edges, g.ord ≠ j.ord) →
      (∀ a, s.granuleFault c j true = some (cPROT, a) → ∃ t, exec (.jobFault c slot cPROT) s = .next t ∧ t.job? c slot = none ∧
        (t.eng c).unrep.getLsbD slot = true ∧ ∀ k, k ≠ slot → t.job? c k = s.job? c k) ∧
      (∀ a b, s.granuleFault c j true = some (cXLATE, b) → a ≠ b → exec (.jobPark c slot a) s = .next s) ∧
      (s.granuleFault c j true = none → exec (.jobFault c slot cPROT) s = .next s ∧ ∀ a, exec (.jobPark c slot a) s = .next s)) ∧
    (j.st = .running → j.eng < 16 → ∀ a, (j.kind = .copy ∧ j.prog < granules j.ps ∧ s.granuleFault c j true = some (cXLATE, a) ∨
        j.sends = true ∧ (cXLATE, a) ∈ s.linkFaults c j) → ∃ t r, exec (.jobPark c slot a) s = .next t ∧
      t.job? c slot = some { j with st := .parked a } ∧ (∀ k, k ≠ slot → t.job? c k = s.job? c k) ∧
      (t.die (dieOf c)).records = (s.die (dieOf c)).records ++ [r] ∧ fld (r.words.getD 0 0#64) 56 8 = 3 ∧
      fld (r.words.getD 0 0#64) 50 6 = cXLATE.toNat ∧ fld (r.words.getD 0 0#64) 44 6 = slot ∧ r.words.getD 3 0#64 = a ∧
      t.mem = s.mem) ∧
    (∀ a, j.st = .parked a →
      (j.kind ≠ .xcoll → ∃ t, exec (.jobresume c slot) s = .next t ∧ (t.core c).cmdStat = 0#8 ∧
        t.job? c slot = some { j with st := .running } ∧ t.mem = s.mem) ∧
      (j.kind ∉ [.mma, .cstrm, .xarm, .xcoll] → (∀ x ∈ (s.eng c).jobs, ∀ g ∈ x.2.edges, g.ord ≠ j.ord) →
        ∃ t, exec (.jobkill c slot) s = .next t ∧ (t.core c).cmdStat = 0#8 ∧ t.job? c slot = none ∧
          (t.eng c).unrep.getLsbD slot = true)) ∧
    ((∀ a, j.st ≠ .parked a) → j.kind ≠ .xcoll →
      (∃ t, exec (.jobresume c slot) s = .next t ∧ (t.core c).cmdStat = 3#8 ∧ t.job? c slot = some j) ∧
      (∃ t, exec (.jobkill c slot) s = .next t ∧ (t.core c).cmdStat = 3#8 ∧ t.job? c slot = some j))

/-- R277, R279, R280: a granule of a copy moves up to 4,096 bytes in delivery order and counts in PROGRESS; a CSTRM's granule enters its
stream, where the stream has room for it. Stated for one row within a scratchpad, source and destination apart, with no phaser. -/
def Sys2Proof.Claims.CopiesMoveGranules : Prop :=
  ∀ (c slot len src : Nat) (j : Job) (s : State), s.job? c slot = some j → j.st = .running → c < 2048 → 0 < len → len < 2 ^ 24 →
    j.p 2 = BitVec.ofNat 64 len → j.p 0 = BitVec.ofNat 64 src → src + len ≤ 2 ^ 22 → j.p 6 = 0#64 → j.prog * 4096 < len →
    (s.die (dieOf c)).copies = [] → Memory.wf s.mem = true →
    let n := min 4096 (len - 4096 * j.prog)
    (∀ dst, j.kind = .copy → j.p 5 = 5#64 → j.p 1 = BitVec.ofNat 64 dst → dst + len ≤ 2 ^ 22 → src + len ≤ dst ∨ dst + len ≤ src →
      ∃ t, exec (.copyGranule c slot) s = .next t ∧ t.job? c slot = some { j with prog := j.prog + 1 } ∧
        (∀ i, i < n → t.rd (spKey c (dst + 4096 * j.prog + i)) 1 = s.rd (spKey c (src + 4096 * j.prog + i)) 1) ∧
        (∀ k, k < spKey c (dst + 4096 * j.prog) ∨ spKey c (dst + 4096 * j.prog + n) ≤ k → t.rd k 1 = s.rd k 1)) ∧
    (j.kind = .cstrm → fld (j.p 5) 0 2 = 1 →
      let k := streamKey (fld (j.p 5) 10 1) (fld (j.p 5) 8 2) (fld (j.p 5) 11 2)
      ((s.eng c).streamSize (fld (j.p 5) 10 1) < ((s.eng c).stream k).length + n → exec (.cstrmGranule c slot) s = .next s) ∧
      (((s.eng c).stream k).length + n ≤ (s.eng c).streamSize (fld (j.p 5) 10 1) →
        ∃ t, exec (.cstrmGranule c slot) s = .next t ∧ t.job? c slot = some { j with prog := j.prog + 1 } ∧ t.mem = s.mem ∧
          (t.eng c).stream k = (s.eng c).stream k ++
            (List.range n).map fun i => BitVec.ofNat 8 (s.rd (spKey c (src + 4096 * j.prog + i)) 1)))

/-- R306 to R309: a step of a sketch job that meets no fault counts one more group or granule in PROGRESS; SKCLR writes zeros to the bytes
of its granule. -/
def Sys2Proof.Claims.SketchJobsAdvance : Prop :=
  ∀ (c slot : Nat) (j : Job) (d : SkDesc) (ds : List SkDesc) (s : State), s.job? c slot = some j → j.st = .running → j.desc = d :: ds →
    j.prog < skGroups j →
    (j.kind = .skupd → s.suFault c j d (256 * j.prog) (min 256 (suCount j.ps - 256 * j.prog)) = none →
      ∃ t j', exec (.sketchJobGroup c slot) s = .next t ∧ t.job? c slot = some j' ∧
        j' = { j with prog := j.prog + 1, seed := j'.seed, fl := j'.fl } ∧ (∀ k, k ≠ slot → t.job? c k = s.job? c k)) ∧
    (j.kind = .skclr → s.runFault c needW (.dev (d.base + 4096 * j.prog)) (min 4096 (skArea d.d d.logw - 4096 * j.prog)) = none →
      ∃ t, exec (.sketchJobGroup c slot) s = .next t ∧ t.job? c slot = some { j with prog := j.prog + 1 } ∧
        t.mem = (s.jobWrites c ((List.range (min 4096 (skArea d.d d.logw - 4096 * j.prog))).map fun i =>
          (.dev (d.base + 4096 * j.prog + i), 0))).mem) ∧
    (∀ b dk, j.kind = .skadd → ds = [b] →
      (∀ i, i < min 1024 (skArea d.d d.logw / 4 - 1024 * j.prog) →
        (∃ k, s.skKey c needR (b.base + 4 * (1024 * j.prog + i)) = .inr k) ∧
        (∃ k, s.skKey c needRW (d.base + 4 * (1024 * j.prog + i)) = .inr k)) → s.skKey c needRW d.addr.toNat = .inr dk →
      ∃ t, exec (.sketchJobGroup c slot) s = .next t ∧ t.job? c slot = some { j with prog := j.prog + 1 })

/-- Steps of copy, stream and sketch jobs (R277, R279, R280, R306 to R309). -/
def Obligations.CopyAndSketchJobs : Prop :=
  Claims.CopiesMoveGranules ∧ Claims.SketchJobsAdvance

/-- R281, R285, R286: an MMA step takes the bytes it needs of A and B and adds its summation block, rounded once, to the accumulator, from
0 in a first step that does not accumulate; while bytes are missing the job stays where it is. Stated for one element of a real format
without scales. MCFG takes effect, and empties the streams of its array, when the earlier jobs of the array have ended. -/
def Sys2Proof.Claims.MatrixStepsAccumulate : Prop :=
  (∀ (c slot : Nat) (j : Job) (s : State), s.job? c slot = some j → j.kind = .mma → j.st = .running →
    let x := mmaOf j.ps j.sb
    let q := j.sb.toNat / 4
    let r := x.range j.prog
    let na := rowBytes x.af (r.2 - r.1)
    let nb := rowBytes x.bf (r.2 - r.1)
    let sa := (s.eng c).stream (streamKey j.eng 0 q)
    let sb := (s.eng c).stream (streamKey j.eng 1 q)
    j.eng < 2 → x.m = 1 → x.n = 1 → x.cplx = false → fmtCplx x.bf = false → x.scaled = false → x.cacc = false → j.sums = [] →
    j.intake = [[], [], []] → j.prog < x.steps → tabSorted (s.eng c).streams = true → tabSorted (s.eng c).acc = true →
    (na ≤ sa.length → nb ≤ sb.length →
      let el (f : Nat) (bs : List Byte) (i : Nat) : Val := (Nf.ofCode f).decode (leNat bs / 2 ^ (i * fmtBits f) % 2 ^ (Nf.ofCode f).width)
      let blk := ((List.range (r.2 - r.1)).foldl (fun t i => t.add false (el x.af (sa.take na) i) (el x.bf (sb.take nb) i))
        BlockSum.zero).round
      let old := if j.prog = 0 ∧ x.acc = false then 0 else (s.eng c).accGet j.eng (4096 * x.t0)
      ∃ t j', exec (.mmaStep c slot) s = .next t ∧ t.job? c slot = some j' ∧ j'.prog = j.prog + 1 ∧ j'.st = .running ∧ t.mem = s.mem ∧
        (t.eng c).accGet j.eng (4096 * x.t0) = (fop .add .f32 rne 0 old blk.bits).bits % 2 ^ 32 ∧
        j'.fl = j.fl ||| blk.fl ||| (fop .add .f32 rne 0 old blk.bits).fl ∧
        (t.eng c).stream (streamKey j.eng 0 q) = sa.drop na ∧ (t.eng c).stream (streamKey j.eng 1 q) = sb.drop nb ∧
        (∀ w, w ≠ 4096 * x.t0 → (t.eng c).accGet j.eng w = (s.eng c).accGet j.eng w)) ∧
    (sa.length < na → ∃ t j', exec (.mmaStep c slot) s = .next t ∧ t.job? c slot = some j' ∧ j'.prog = j.prog ∧
      j'.intake = [sa, [], []] ∧ (t.eng c).acc = (s.eng c).acc ∧ t.mem = s.mem)) ∧
  (∀ (c arr : Nat) (s : State) (m : Nat × Nat × BitVec 2), arr < 2 → (s.eng c).mcfgs.find? (fun m => m.2.1 = arr) = some m →
    ((∃ x ∈ (s.eng c).jobs, x.2.ofArray arr = true ∧ x.2.ord < m.1) → exec (.mcfgApply c arr) s = .next s) ∧
    ((∀ x ∈ (s.eng c).jobs, x.2.ofArray arr = true → m.1 ≤ x.2.ord) → tabSorted (s.eng c).streams = true →
      ∃ t, exec (.mcfgApply c arr) s = .next t ∧ (t.eng c).modes[arr]? = some m.2.2 ∧ (t.eng c).mcfgs = (s.eng c).mcfgs.filter (· ≠ m) ∧
        (∀ st q, st < 3 → q < 4 → (t.eng c).stream (streamKey arr st q) = []) ∧ (t.eng c).jobs = (s.eng c).jobs ∧ t.mem = s.mem))

/-- R86, R282, R285, R286: a step of an MMA of any shape, real or complex, adds to every part of every element the block of its row of A and its column of B, scaled
where the job is, and consumes its bytes; no other word of the accumulator changes, and LOK of the hi tiles follows CACC. Stated for a job whose blocks are its
steps: an unscaled one, and a scaled one of at most 32 elements in one step. -/
def Sys2Proof.Claims.MatrixTilesAccumulate : Prop :=
  ∀ (c slot : Nat) (j : Job) (s : State), s.job? c slot = some j → j.kind = .mma → j.st = .running →
    let x := mmaOf j.ps j.sb
    let quarter := j.sb.toNat / 4
    let lim := x.range j.prog
    let ns := lim.2 - lim.1
    let na := x.m * rowBytes x.af ns
    let nb := x.n * rowBytes x.bf ns
    let nz := if x.scaled then 3 * (x.m + x.n) else 0
    let key (st : Nat) : Nat := streamKey j.eng st quarter
    let sa := (s.eng c).stream (key 0)
    let sb := (s.eng c).stream (key 1)
    let sz := (s.eng c).stream (key 2)
    j.eng < 2 → x.fitsTiles = true → fmtCplx x.bf = x.cplx → (x.scaled = true → x.k ≤ 32 ∧ x.k ≤ x.kb) → j.sums = [] → j.intake = [[], [], []] →
    j.prog < x.steps → tabSorted (s.eng c).streams = true → tabSorted (s.eng c).acc = true → na ≤ sa.length → nb ≤ sb.length → nz ≤ sz.length →
    let row (bs : List Byte) (w i : Nat) : Nat := leNat ((bs.drop (i * w)).take w)
    let el (f rw k p : Nat) : Val :=
      (Nf.ofCode f).decode (rw / 2 ^ (k * fmtBits f + p * (Nf.ofCode f).width) % 2 ^ (Nf.ofCode f).width)
    let a (i k p : Nat) : Val := el x.af (row sa (rowBytes x.af ns) i) k p
    let b (i k p : Nat) : Val := el x.bf (row sb (rowBytes x.bf ns) i) k p
    let prods (i l part k : Nat) : List (Bool × Val × Val) :=
      if x.cplx = false then [(false, a i k 0, b l k 0)]
      else if part = 0 then [(false, a i k 0, b l k 0), (true, a i k 1, b l k 1)]
      else [(false, a i k 0, b l k 1), (false, a i k 1, b l k 0)]
    let sum (i l part : Nat) : BlockSum := ((List.range ns).flatMap (prods i l part)).foldl (fun t q => t.add q.1 q.2.1 q.2.2) BlockSum.zero
    let con (i l part : Nat) : Res :=
      if x.scaled then (sum i l part).scaled (scaleAt sz i) (scaleAt sz (x.m + l)) else (sum i l part).round
    let first : Bool := decide (j.prog = 0) && !x.acc
    let hi (i l part : Nat) : Nat := if first then 0 else (s.eng c).accGet j.eng (x.word part i l)
    let lo (i l part : Nat) : Nat :=
      if first || !x.cacc then 0 else (s.eng c).loGet j.eng (x.word part i l) (x.word (x.parts + part) i l)
    let new (i l part : Nat) : Nat × Nat × Flags := accStep x.cacc (hi i l part) (lo i l part) (con i l part).bits
    ∃ t j', exec (.mmaStep c slot) s = .next t ∧ t.job? c slot = some j' ∧ j'.prog = j.prog + 1 ∧ j'.st = .running ∧ j'.sums = [] ∧ t.mem = s.mem ∧
      (∀ i l part, i < x.m → l < x.n → part < x.parts →
        (t.eng c).accGet j.eng (x.word part i l) = (new i l part).1 % 2 ^ 32 ∧
        (x.cacc = true → (t.eng c).accGet j.eng (x.word (x.parts + part) i l) = (new i l part).2.1 % 2 ^ 32)) ∧
      (∀ w, w < 4096 * x.t0 ∨ 4096 * x.t0 + x.words ≤ w → (t.eng c).accGet j.eng w = (s.eng c).accGet j.eng w) ∧
      (∀ n, n < (x.parts * x.m * x.n + 4095) / 4096 → (t.eng c).lok.getLsbD (16 * j.eng + x.t0 + n) = x.cacc) ∧
      j'.fl = (List.range (x.m * x.n * x.parts)).foldl (fun fl q =>
        fl ||| (con (q / x.parts / x.n) (q / x.parts % x.n) (q % x.parts)).fl |||
          (new (q / x.parts / x.n) (q / x.parts % x.n) (q % x.parts)).2.2) j.fl ∧
      (t.eng c).stream (key 0) = sa.drop na ∧ (t.eng c).stream (key 1) = sb.drop nb ∧ (t.eng c).stream (key 2) = sz.drop nz

/-- R86, R89: without CACC a block is added with one rounding; with CACC hi is that sum too and lo takes, rounded once, the exact rest of it, and is +0 where the sum is
not finite. -/
def Sys2Proof.Claims.AccumulatorPairs : Prop :=
  ∀ (hi lo x : Nat),
    let s := fop .add .f32 rne 0 hi x
    accStep false hi lo x = (s.bits, 0, s.fl) ∧ (accStep true hi lo x).1 = s.bits ∧
    (finite32 s.bits = none → (accStep true hi lo x).2.1 = 0) ∧
    ∀ h l y r, finite32 hi = some h → finite32 lo = some l → finite32 x = some y → finite32 s.bits = some r →
      let rest : ℚ := exactQ l.1 l.2.1 l.2.2 + (exactQ h.1 h.2.1 h.2.2 + exactQ y.1 y.2.1 y.2.2 - exactQ r.1 r.2.1 r.2.2)
      (rest = 0 → (accStep true hi lo x).2.1 % 2 ^ 31 = 0) ∧
      (rest ≠ 0 → ∃ neg m e, exactQ neg m e = rest ∧ (accStep true hi lo x).2.1 = (roundDyad .f32 rne 0 neg m e).bits)

/-- R288, R289: an MZERO leaves +0 in every word of its tiles and clears LOK there, and changes nothing else; an MDRAIN writes to row i of DEST the converted parts of
row i of its region, the real part first, packed, and leaves the accumulator as it is. Stated for jobs without status and phaser, and for a rounding code that
draws nothing. -/
def Sys2Proof.Claims.ZeroAndDrain : Prop :=
  ∀ (c slot : Nat) (j : Job) (s : State), s.job? c slot = some j → j.st = .running → j.status = none → j.p 4 = 0#64 → j.eng < 2 → c < 2048 →
    tabSorted (s.eng c).jobs = true → tabSorted (s.eng c).acc = true →
    (j.kind = .mzero →
      let t0 := fld (j.p 0) 32 4
      let n := j.sb.toNat + 1
      t0 + n ≤ 16 → ∃ t, exec (.jobEnd c slot) s = .next t ∧ t.job? c slot = none ∧ t.mem = s.mem ∧
        (∀ w, 4096 * t0 ≤ w → w < 4096 * (t0 + n) → (t.eng c).accGet j.eng w = 0) ∧
        (∀ arr w, w < 65536 → arr ≠ j.eng ∨ w < 4096 * t0 ∨ 4096 * (t0 + n) ≤ w → (t.eng c).accGet arr w = (s.eng c).accGet arr w) ∧
        (∀ b, b < 32 → (t.eng c).lok.getLsbD b =
          ((s.eng c).lok.getLsbD b && !(decide (16 * j.eng + t0 ≤ b) && decide (b < 16 * j.eng + t0 + n))))) ∧
    (j.kind = .mdrain →
      let x := drainOf j.ps
      let p2 := j.p 2
      let f := Nf.ofCode (fld p2 48 4)
      let bytes := drainRow j.ps x
      let at' (i : Nat) : Nat := spKey c (fld p2 0 22 + i * drainStride j.ps)
      let code (i q : Nat) : Nat :=
        let hi := (s.eng c).accGet j.eng (x.word (q % x.parts) i (q / x.parts))
        let v := if x.cacc then
            (fop .add .f32 rne 0 hi ((s.eng c).loGet j.eng (x.word (q % x.parts) i (q / x.parts)) (x.word (x.parts + q % x.parts) i (q / x.parts)))).bits
          else hi
        (convert .f32 f (Codes.engine (fld p2 52 3) (fld p2 55 2)) 0 v).bits
      fld p2 52 3 ≠ 6 → x.m = 1 ∨ bytes ≤ drainStride j.ps → fld p2 0 22 + drainHull j.ps x ≤ 2 ^ 22 → (s.die (dieOf c)).copies = [] →
      Memory.wf s.mem = true →
      ∃ t, exec (.jobEnd c slot) s = .next t ∧ t.job? c slot = none ∧ (t.eng c).acc = (s.eng c).acc ∧ (t.eng c).lok = (s.eng c).lok ∧
        (∀ i, i < x.m → t.rd (at' i) bytes = ((List.range (x.n * x.parts)).map fun q => code i q * 2 ^ (q * f.width)).sum % 256 ^ bytes) ∧
        (∀ k, (∀ i, i < x.m → k < at' i ∨ at' i + bytes ≤ k) → t.rd k 1 = s.rd k 1))

/-- R86, R88: a summation block of finite products is their exact sum, which is rounded once. -/
def Sys2Proof.Claims.SummationBlocksAreExact : Prop :=
  ∀ (ps : List (Bool × (Bool × Nat × Int) × (Bool × Nat × Int))),
    let t := ps.foldl (fun t p => t.add p.1 (.num p.2.1.1 p.2.1.2.1 p.2.1.2.2) (.num p.2.2.1 p.2.2.2.1 p.2.2.2.2)) BlockSum.zero
    t.nan = false ∧ t.pinf = false ∧ t.ninf = false ∧
      (t.m : ℚ) * (2 : ℚ) ^ t.e = (ps.map fun p => (if p.1 then -1 else 1) * exactQ p.2.1.1 p.2.1.2.1 p.2.1.2.2 *
        exactQ p.2.2.1 p.2.2.2.1 p.2.2.2.2).sum ∧
      (t.m ≠ 0 → t.round = roundDyad .f32 rne 0 (t.m < 0) t.m.natAbs t.e)

/-- Matrix jobs (R281, R282, R285, R286, R288, R289, R86, R88, R89). -/
def Obligations.MatrixJobs : Prop :=
  Claims.MatrixStepsAccumulate ∧ Claims.MatrixTilesAccumulate ∧ Claims.AccumulatorPairs ∧ Claims.ZeroAndDrain ∧
  Claims.SummationBlocksAreExact

/-- R255 to R258, R260: a member hands its contribution to its router and, but for the root, is done; a router whose expected inputs are
all present combines them, element by element, and sends one partial on; at the root the result is written and the job ends; a root whose
timer runs out with the result not complete ends with a fault. -/
def Obligations.ReductionsCombineAlongTheTree : Prop :=
  (∀ (c slot : Nat) (j : Job) (s : State), s.job? c slot = some j → j.kind = .rdsend → j.st = .running → tabSorted (s.eng c).jobs = true →
    let k := j.redKey
    let d := s.die (dieOf c)
    (j.prog = 0 → d.badRed = [] → d.deadRed = [] → j.status = none →
      (∀ q ∈ d.partials, q.router = routerNo (routerRow c) (routerCol c) → q.key.tag ≠ k.tag) →
      ∃ t p, exec (.reductionHandover c slot) s = .next t ∧ (t.die (dieOf c)).partials = d.partials ++ [p] ∧
        p.router = routerNo (routerRow c) (routerCol c) ∧ p.stage = 1 ∧ p.dir = 4 ∧ p.key = k ∧ p.count = 1 ∧
        p.vals = (List.range k.nelem).map (fun i => BitVec.ofNat 32 (s.rd (spKey c (fld (j.p 0) 0 22 + 4 * i)) 4)) ∧ t.mem = s.mem ∧
        (k.isRoot c = true → t.job? c slot = some { j with prog := 1 }) ∧ (k.isRoot c = false → t.job? c slot = none)) ∧
    (∀ p, k.isRoot c = true → d.partials = [p] → p.router = k.root → p.stage = 3 → p.key = k → p.vals.length = k.nelem → j.status = none → j.made = 0 →
      j.p 5 = 0#64 → j.p 6 = 0#64 → (j.p 3).toNat + 4 * k.nelem ≤ 2 ^ 22 → 0 < k.nelem → Memory.wf s.mem = true →
      ∃ t, exec (.reductionDone c slot) s = .next t ∧ t.job? c slot = none ∧ (t.die (dieOf c)).partials = [] ∧
        (∀ i v, p.vals[i]? = some v → t.rd (spKey c ((j.p 3).toNat + 4 * i)) 4 = v.toNat) ∧
        (∀ a, a < spKey c (j.p 3).toNat ∨ spKey c ((j.p 3).toNat + 4 * k.nelem) ≤ a → t.rd a 1 = s.rd a 1)) ∧
    (k.isRoot c = true → (s.redResult (dieOf c) k).isSome = true → j.made < 2 → exec (.reductionTimeout c slot) s = .next s) ∧
    (slot < 64 → k.isRoot c = true → s.redResult (dieOf c) k = none → fld (j.p 4) 0 32 ≠ 0 → j.p 5 = 0#64 → j.p 6 = 0#64 → j.status = none →
      (∀ x ∈ (s.eng c).jobs, ∀ g ∈ x.2.edges, g.ord ≠ j.ord) →
      ∃ t, exec (.reductionTimeout c slot) s = .next t ∧ t.job? c slot = none ∧ (t.eng c).unrep.getLsbD slot = true ∧
        k ∈ (t.die (dieOf c)).deadRed ∧ t.mem = s.mem)) ∧
  (∀ (d r st : Nat) (k : RedKey) (a : Partial) (rest : List Partial) (s : State), (s.die d).partials = a :: rest → (s.die d).deadRed = [] →
    st < 3 → (∀ p ∈ a :: rest, p.router = r ∧ p.stage = st ∧ p.key = k) →
    (a :: rest).map Partial.dir = expected k st (r / 16) (r % 16) →
    ∃ t p, exec (.routerCombine d r) s = .next t ∧ (t.die d).partials = [p] ∧ (p.router, p.stage, p.dir) = outputTo k st (r / 16) (r % 16) ∧
      p.key = k ∧ p.count = ((a :: rest).map Partial.count).sum ∧ p.vals = (rest.foldl (combine2 k.op) a).vals ∧ t.mem = s.mem) ∧
  (∀ (op : Nat) (p q : Partial), p.vals.length = q.vals.length →
    (combine2 op p q).vals = (List.zip p.vals q.vals).map fun v => BitVec.ofNat 32 (redOp op v.1.toNat v.2.toNat).1) ∧
  (∀ (a b : BitVec 32), (redOp 1 a.toNat b.toNat).1 = (a + b).toNat ∧
    (redOp 4 a.toNat b.toNat).1 = (if a.toInt ≤ b.toInt then b else a).toNat ∧
    (redOp 5 a.toNat b.toNat).1 = (if a.toInt ≤ b.toInt then a else b).toNat)

/-- R21, R223 to R227, R229 and Table 9-3: an access that an earlier one keeps back stays; a read that may be performed reads its bytes as
the agents of its die see them; a write that may be performed leaves its bytes at its home; a performed load that completes writes its
register. -/
def Sys2Proof.Claims.AccessesArePerformed : Prop :=
  ∀ (c i : Nat) (a : Access) (s : State), (s.core c).outs[i]? = some a →
    ((s.core c).mayPerform i a = false → a.done = none → exec (.memoryPerform c i) s = .next s) ∧
    (∀ k, (s.core c).mayPerform i a = true → a.done = none → a.tgt = .mem k → a.ord ∉ [2, 3, 4, 5] →
      (∀ dst, a.kind = .read dst → s.eager = true ∨ foreign (dieOf c) k = false → (∀ b ∈ (s.core c).outs.take i, b.done.isSome = true) →
        ∃ t, exec (.memoryPerform c i) s = .next t ∧ t.mem = s.mem ∧ t.cores = (s.setCore c (t.core c)).cores ∧
          (t.core c).outs = (s.core c).outs.set i { a with done := some (BitVec.ofNat 256 (s.seen (dieOf c) k a.n)) }) ∧
      (∀ x, a.kind = .write x → foreign (dieOf c) k = false → s.fixed k a.n = false → Memory.wf s.mem = true →
        ∃ t, exec (.memoryPerform c i) s = .next t ∧ (t.core c).outs = (s.core c).outs.eraseIdx i ∧
          t.rd k a.n = x.toNat % 2 ^ (8 * a.n) ∧ ∀ j, j < k ∨ k + a.n ≤ j → t.rd j 1 = s.rd j 1)) ∧
    (∀ v r sg, a.done = some v → a.kind = .read (.s r sg) → a.n ∈ [1, 2, 4, 8] → v.toNat < 2 ^ (8 * a.n) →
      ∃ t, exec (.loadComplete c i) s = .next t ∧ (t.core c).outs = (s.core c).outs.eraseIdx i ∧ t.mem = s.mem ∧
        (t.core c).getS r = (if r = 0#6 then 0#64 else extendRule sg (8 * a.n) v.toNat) ∧
        (∀ q, q ≠ r → (t.core c).getS q = (s.core c).getS q) ∧ (t.core c).v = (s.core c).v) ∧
    (a.done = none → exec (.loadComplete c i) s = .next s)

/-- R183, R295, R296, Table 7-12: the accesses with an event of their own. A doubleword store to the port of a die wakes the record it names; a
read of it counts the continuations ready there; an update of a sketch reaches its counter, or, with a quantity of 0, its status word; a
query takes its reads one by one, in an order that is free (the model's, log entry 35), and the last of them writes the median of its
counters. -/
def Sys2Proof.Claims.SpecialAccessesArePerformed : Prop :=
  ∀ (c i : Nat) (a : Access) (s : State), (s.core c).outs[i]? = some a → (s.core c).mayPerform i a = true → a.done = none →
    a.ord ∉ [2, 3, 4, 5] →
    (∀ x l off L, a.kind = .write x → a.tgt = .port l off → tabGet? s.launches l = some L → a.whole = true → a.n = 8 → off % 64 = 0 →
      L.onDie (off / 64) = true →
      (s.wake? (off / 64) l L (x.setWidth 64) = none → exec (.wakePortStore c i) s = .next s) ∧
      (∀ u, s.wake? (off / 64) l L (x.setWidth 64) = some u → exec (.wakePortStore c i) s = .next (u.setCore c ((u.core c).dropOut i)))) ∧
    (∀ dst l off L, a.kind = .read dst → a.tgt = .port l off → tabGet? s.launches l = some L → a.whole = true → a.n = 8 →
      off % 64 = 0 → L.onDie (off / 64) = true →
      let v := BitVec.ofNat 256 ((s.die (off / 64)).ready.countP fun e => e.launch = l)
      ∃ t, exec (.wakePortRead c i) s = .next t ∧ t.mem = s.mem ∧
        (t.core c).outs = (s.core c).outs.set i { a with done := some v }) ∧
    (∀ q base desc ev va k, a.kind = .sketch q base desc ev va → a.tgt = .mem k →
      ∃ t, exec (.sketchUpdateApply c i) s = .next t ∧
        t.mem = (if q = 0 then s.skStatus (dieOf c) desc ev else s.skUpdate (dieOf c) k desc q ev).mem ∧
        (t.core c).outs = (s.core c).outs.eraseIdx i) ∧
    (∀ r pos rows base f mode draw got k, a.kind = .query r pos rows base f mode draw got → a.tgt = .mem k → pos + 32 ≤ 1024 →
      (s.die (dieOf c)).copies = [] → (∀ b ∈ (s.core c).outs.take i, b.done.isSome = true) →
      let val (w : Bool × Nat) : Int := (if w.1 then -1 else 1) * toInt 32 (s.rd w.2 4)
      (rows.length ≤ 1 →
        ∃ t, exec (.sketchQueryDone c i) s = .next t ∧ t.mem = s.mem ∧ (t.core c).outs = (s.core c).outs.eraseIdx i ∧
          vGet ((t.core c).getV r) pos 32 = (queryRes f mode draw (got ++ rows.map val)).bits % 2 ^ 32 ∧
          (∀ n, n < 1024 → n < pos ∨ pos + 32 ≤ n → ((t.core c).getV r).getLsbD n = ((s.core c).getV r).getLsbD n)) ∧
      (1 < rows.length →
        ∃ t n w, exec (.sketchQueryDone c i) s = .next t ∧ t.mem = s.mem ∧ rows[n]? = some w ∧
          (t.core c).outs = (s.core c).outs.set i
            { a with kind := .query r pos (rows.eraseIdx n) base f mode draw (got ++ [val w]) }))

/-- R195, R365, R394: the answer a core waits for lets it issue again; a posted access whose packet is retired is acknowledged and leaves the
core's list; a rejection of one is held. An access that has yet to leave has no answer but the transport timeout, and a posted one of an
address where others still stand waits for them. Stated for a core with no seq access of system scope unacknowledged (R232). That the answer
comes by an event of its own is the model's (log entry 39). -/
def Sys2Proof.Claims.RemoteAnswersReachTheirCore : Prop :=
  ∀ (c : Nat) (s : State),
    let x := s.core c
    (∀ r, (∀ i, r ≠ .posted i) → x.wait = .remote → (∃ i, r = .timeout i) ∨ (∀ q ∈ s.outq, q.core ≠ 4096 + c) →
      exec (.remoteResponse c r) s = .next (s.setCore c { x with wait := .none, answer := some r })) ∧
    (∀ r, (∀ i, r ≠ .posted i) → x.wait ≠ .remote → exec (.remoteResponse c r) s = .next s) ∧
    (∀ r, (∀ i, r ≠ .posted i) → (∀ i, r ≠ .timeout i) → (∃ q ∈ s.outq, q.core = 4096 + c ∧ q.resp = true) →
      exec (.remoteResponse c r) s = .next s) ∧
    (∀ i, x.posted.length ≤ i → exec (.remoteResponse c (.posted i)) s = .next s) ∧
    (∀ i a, x.posted[i]? = some a → x.posted.count a ≤ s.standing c a → exec (.remoteResponse c (.posted i)) s = .next s) ∧
    (∀ i a, x.posted[i]? = some a → s.standing c a = 0 → x.fenced = false →
      exec (.remoteResponse c (.posted i)) s = .next (s.setCore c { x with posted := x.posted.eraseIdx i })) ∧
    (∀ a, a ∈ x.posted → (∀ q ∈ s.outq, q.core ≠ 4096 + c) → x.fenced = false →
      exec (.remoteRejectionHeld c a) s = .next (s.setCore c { x with posted := x.posted.erase a, rejects := x.rejects ++ [a] })) ∧
    (∀ a, a ∉ x.posted → exec (.remoteRejectionHeld c a) s = .next s)

/-- Outstanding accesses (R21, R223 to R229, R183, R295, R296, R195, R365). That an answer comes by an event of its own is the model's (log entry 39), and so is the free order of a query's reads (log entry 35). -/
def Obligations.OutstandingAccesses : Prop :=
  Claims.AccessesArePerformed ∧ Claims.SpecialAccessesArePerformed ∧ Claims.RemoteAnswersReachTheirCore

/-- R322, R323, R324: a walk of four levels ends at the leaf of its page; with the group bit clear everywhere it maps 4 KiB; a completed walk is
kept by the translation cache, the one that the model gives a die, which drops none for it (log entry 24); a leaf is used only with the permissions it gives, and
XLATE is the fate of an entry that is not valid. -/
def Obligations.PageWalksFollowTheTables : Prop :=
  (∀ (s : State) (d : Nat) (va : BitVec 52),
    let e0 := s.rd ((s.die d).ttRoot.toNat + 8 * (va.toNat / 2 ^ 39)) 8
    let e1 := s.rd (pteFrame e0 + 8 * (va.toNat / 2 ^ 30 % 512)) 8
    let e2 := s.rd (pteFrame e1 + 8 * (va.toNat / 2 ^ 21 % 512)) 8
    let e3 := s.rd (pteFrame e2 + 8 * (va.toNat / 2 ^ 12 % 512)) 8
    let table (e : Nat) : Prop := e.testBit 0 = true ∧ e.testBit 1 = false ∧ pteBad e = false
    (e0.testBit 0 = false → s.walk d va.toNat = none ∧ exec (.pageWalk d va) s = .next s ∧
      ((s.die d).tlb = [] → ∀ sup n, s.translate d sup n va.toNat = .xlate)) ∧
    (table e0 → table e1 → table e2 → e3.testBit 0 = true → pteBad e3 = false → leafBad e3 = false →
      (∀ j, j < 16 → (s.rd (pteFrame e2 + 8 * (va.toNat / 2 ^ 12 % 512 / 16 * 16 + j)) 8).testBit 6 = false) →
      let w : TlbEntry := { va := va.toNat / 4096 * 4096, size := 4096, entry := BitVec.ofNat 64 e3, frame := pteFrame e3, group := false }
      s.walk d va.toNat = some w ∧
      (∃ t, exec (.pageWalk d va) s = .next t ∧ t.mem = s.mem ∧ w ∈ (t.die d).tlb ∧ ∀ e ∈ (s.die d).tlb, e ∈ (t.die d).tlb) ∧
      ((s.die d).tlb = [] → ∀ sup n, s.translate d sup n va.toNat =
        if (n.r = true → e3.testBit 2 = true) ∧ (n.w = true → e3.testBit 3 = true) ∧ (n.x = true → e3.testBit 4 = true) ∧
            (sup = false → e3.testBit 5 = false) then .ok (e3 / 128 % 4) (pteFrame e3 + va.toNat % 4096) else .prot)))

/-- R166, R273, R315: every 256th cycle of a wait at a JOIN, a WAITM or a phaser takes one from a BUDGET that is not 0, and a core whose BUDGET
thereby comes to 0 stops at its boundary with cause BUDGET; a cycle of no such wait takes none. BUDGET at 0 stops a core that runs, once
its loads in flight have completed (R25). That the charge and the stop also come as events of their own is the model's (log entry 92). -/
def Sys2Proof.Claims.BudgetEndsWaitsAndRuns : Prop :=
  ∀ (c : Nat) (s : State), isSup c = false →
    let x := s.core c
    let charged : Prop := (∃ cls d w pos, x.wait = .waitm cls d w pos) ∨ (∃ k ph, x.wait = .phwait k ph) ∨ (∃ k, x.wait = .phsw k) ∨
      ∃ any tag a, x.wait = .join any tag a
    (s.executes c = false ∨ x.budget = 0#64 ∨ x.waited % 256 ≠ 255 ∨ x.wait = .none ∧ x.waited = 0 ∨ x.wait = .remote ∨ x.wait = .exit ∨
      (∃ ord scope w, x.wait = .fence ord scope w) → exec (.waitBudgetTick c) s = .next s) ∧
    (s.executes c = true → charged → x.budget ≠ 0#64 → x.waited % 256 = 255 → x.budget ≠ 1#64 →
      exec (.waitBudgetTick c) s = .next (s.setCore c { x with waited := x.waited + 1, budget := x.budget - 1#64 })) ∧
    (s.executes c = true → charged → x.budget = 1#64 → x.waited % 256 = 255 → ((s.charge c).drainInFlight c).landed c = true →
      ∃ t, exec (.waitBudgetTick c) s = .next t ∧ (t.core c).run = .stopped ∧
      (t.core c).trapCause = cBUDGET ∧ (t.core c).trapPc = x.next ∧ (t.core c).resumePc = x.next &&& 0xFFFFFFFFFFFFF#64) ∧
    (s.executes c = true → x.budget = 0#64 → (s.drainInFlight c).landed c = false →
      exec (.budgetStop c) s = .next (s.drainInFlight c)) ∧
    (s.executes c = true → x.budget = 0#64 → (s.drainInFlight c).landed c = true →
      ∃ t, exec (.budgetStop c) s = .next t ∧ (t.core c).run = .stopped ∧
      (t.core c).trapCause = cBUDGET ∧ (t.core c).trapPc = x.next ∧ (t.core c).resumePc = x.next &&& 0xFFFFFFFFFFFFF#64 ∧
      (t.core c).trapInfo = 0#64) ∧
    (s.executes c = false ∨ x.budget ≠ 0#64 → exec (.budgetStop c) s = .next s)

/-- R312, R319, R320, R315, R205, R334: the commands of a core control block. Each has its effect in its state and answers in CMDSTAT, with 1 in any other state. A
RESUME that asks for the trap, where it must be forwarded, stops the core with a record (R310). Whether the device is in test or recovery, in which
PARK may come after the release, a free value tells (the model's, log entry 104), and that STOP and KILL act on a core in CSTATE 4, and KILL on one in
CSTATE 3 or in a dome whose record runs, as they do is the model's too (log entries 20 and 34). Stated for a core with nothing in flight. -/
def Sys2Proof.Claims.CommandsActInTheirState : Prop :=
  ∀ (c : Nat) (s : State), isSup c = false → (s.core c).outs = [] → (s.core c).pend = [] → (s.core c).parked = [] →
    let x := s.core c
    let refused (v : BitVec 8) (t : State) : Prop := t = s.setCore c { x with cmdStat := v }
    let noPark (v : BitVec 8) (t : State) : Prop := t = ({ s with freeCtr := s.freeCtr + 1 } : State).setCore c { x with cmdStat := v }
    (x.run ≠ .running → x.run ≠ .newcomer → ∃ t, exec (.stop c) s = .next t ∧ refused 1#8 t) ∧
    (x.run = .running ∨ x.run = .newcomer → ∃ t, exec (.stop c) s = .next t ∧ (t.core c).run = .stopped ∧
      (t.core c).resumePc = x.next &&& 0xFFFFFFFFFFFFF#64 ∧ (t.core c).cmdStat = 0#8 ∧ (t.core c).trapCause = x.trapCause ∧ (t.core c).trapPc = x.trapPc ∧ (t.core c).trapInfo = x.trapInfo ∧
      t.dies = s.dies ∧ t.mem = s.mem) ∧
    (x.run ≠ .stopped → ∃ t u, exec (.resume c) s = .next t ∧ refused 1#8 t ∧ exec (.park c) s = .next u ∧ noPark 1#8 u) ∧
    (x.run = .stopped → x.budget = 0#64 → ∃ t, exec (.resume c) s = .next t ∧ (t.core c).run = .stopped ∧ (t.core c).trapCause = cBUDGET) ∧
    (x.run = .stopped → x.budget ≠ 0#64 →
      (x.arg.getLsbD 0 = false → ∃ t, exec (.resume c) s = .next t ∧ (t.core c).run = s.runState c ∧ (t.core c).next = x.resumePc ∧
        (t.core c).inTrap = x.inTrap ∧ (t.core c).cmdStat = 0#8 ∧ (t.core c).s = x.s ∧ t.mem = s.mem) ∧
      (x.arg.getLsbD 0 = true → x.trapVec = 0#64 ∨ x.inTrap = true ∨ x.trapCause = cBUDGET → ∃ t r, exec (.resume c) s = .next t ∧
        (t.core c).run = .stopped ∧ (t.die (dieOf c)).records = (s.die (dieOf c)).records ++ [r]) ∧
      (x.arg.getLsbD 0 = true → x.trapVec ≠ 0#64 → x.inTrap = false → x.trapCause ≠ cBUDGET → ∃ t, exec (.resume c) s = .next t ∧ (t.core c).run = s.runState c ∧
        (t.core c).next = x.trapVec ∧ (t.core c).inTrap = true ∧ (t.core c).cmdStat = 0#8 ∧ t.mem = s.mem)) ∧
    (x.run = .idle → ∃ t, exec (.kill c) s = .next t ∧ refused 1#8 t) ∧
    (∀ r, x.run ≠ .idle → x.run ≠ .preempted → (s.dome (domeKey c)).run = .dome r →
      (∀ y ∈ domeCores (domeKey c), (s.core y).outs = [] ∧ (s.core y).trace = [] ∧ (s.eng y).jobs = []) →
      ∃ t, exec (.kill c) s = .next t ∧ (t.core c).cmdStat = 0#8 ∧ (t.dome (domeKey c)).run = .ending ∧
        (∀ y ∈ domeCores (domeKey c), (t.core y).join = .exited) ∧
        (s.launch? (s.dome (domeKey c)).launch = none → t.mem = (s.setWait (domeKey c / 12) r 5).mem) ∧
        (∀ l, s.launch? (s.dome (domeKey c)).launch = some l →
          t.mem = ((s.setWait (domeKey c / 12) r 5).liveAdd (domeKey c / 12) l (-1)).mem)) ∧
    (∀ v, x.run = .preempted → c ∈ domeCores (domeKey c) → tabSorted s.victims = true → tabGet? s.victims (domeKey c) = some v → (∀ e ∈ v.cores, e.2.eng.jobs = []) →
      ∃ t, exec (.kill c) s = .next t ∧ (t.core c).cmdStat = 0#8 ∧ (t.core c).run = .idle ∧ tabGet? t.victims (domeKey c) = none) ∧
    (x.run = .stopped → s.root.released = true → Config.inRecovery s.freeCtr = false → ∃ t, exec (.park c) s = .next t ∧ noPark 1#8 t) ∧
    (x.run = .stopped → s.root.released = false ∨ Config.inRecovery s.freeCtr = true →
      (8 < fld x.arg 0 4 → ∃ t, exec (.park c) s = .next t ∧ noPark 3#8 t) ∧
      (fld x.arg 0 4 ≤ 8 → (∀ l ∈ s.launches, l.2.holds (domeKey c) = false ∨ l.2.acc.getLsbD (fld x.arg 8 5) = false) →
        ∃ t, exec (.park c) s = .next t ∧ (t.core c).cmdStat = 0#8 ∧
          (t.core c).parked = [(fld x.arg 0 4, fld x.arg 8 5, x.bankImage (fld x.arg 0 4))] ∧ t.mem = s.mem) ∧
      (fld x.arg 0 4 ≤ 8 → (∃ l ∈ s.launches, l.2.holds (domeKey c) = true ∧ l.2.acc.getLsbD (fld x.arg 8 5) = true) →
        ∃ t, exec (.park c) s = .next t ∧ noPark 2#8 t))

/-- Budgets (R166, R273) and core commands (R312, R319, R320, R315, R205, R334). That KILL of a core with a pre-empted victim that runs nothing ends the victim is the model's reading (log entry 20), so are STOP and KILL in CSTATE 4 (log entry 34), and whether the device is in test or recovery a free value tells (log entry 104). -/
def Obligations.BudgetsAndCoreCommands : Prop :=
  Claims.BudgetEndsWaitsAndRuns ∧ Claims.CommandsActInTheirState

/-- R153 to R155: the front end delivers its bundle to the queue of every core of the stream, and goes on at the bundle's fixed target, or after
it; a bundle whose successor the lead core resolves, or that holds a JOIN, keeps it waiting. A stream that is held up delivers nothing. -/
def Sys2Proof.Claims.TheStreamDeliversToEveryCore : Prop :=
  ∀ (dm : Nat) (ws : List Half) (s : State), dm < 96 →
    let d := s.dome dm
    (s.canDeliver dm = false → exec (.streamDeliver dm) s = .next s) ∧
    (s.canDeliver dm = true → gather d.word? 9 d.fe.toNat 0 0 = .inr ws → (∀ c ∈ s.inStream dm, ∀ q ∈ (s.core c).queue, q.seq ≠ d.seq) →
      overlong (syllables ws) 0 0 = none →
      let h := shapeOf d.fe ws
      ∃ t, exec (.streamDeliver dm) s = .next t ∧ (t.dome dm).seq = d.seq + 1 ∧ (t.dome dm).fe = h.fixed.getD (bundleNext d.fe ws) ∧
        ((t.dome dm).awaits = none ↔ h.res = false ∧ h.join = false ∧ (h.fixed = none → s.loopEnds dm (bundleNext d.fe ws) = false)) ∧
        (∀ c ∈ s.inStream dm, ∃ q, (t.core c).queue = (s.core c).queue ++ [q] ∧ q.seq = d.seq ∧ q.addr = d.fe ∧ q.ws = ws ∧ q.lead = none) ∧
        (∀ c, c ∉ s.inStream dm → t.core c = s.core c) ∧ t.mem = s.mem)

/-- R157, R173: a finder takes the line of an address from the instruction memory of its dome; the loader brings in the segment that holds an
address, and with it a SEGHINT for that segment is served (R120); instruction memory never holds more than its 512 KiB. -/
def Sys2Proof.Claims.InstructionMemoryServesFetches : Prop :=
  (∀ (c : Nat) (a : BitVec 52) (g : Segment) (s : State), isSup c = false →
    (inWindow a.toNat = false → (s.dome (domeKey c)).server a.toNat = none → exec (.finderFill c a) s = .next s) ∧
    (inWindow a.toNat = false → (s.dome (domeKey c)).server a.toNat = some g → ∃ t, exec (.finderFill c a) s = .next t ∧ t.mem = s.mem ∧
      ∀ w, w < 16 → (t.core c).finderWord (a.toNat / 64 * 64 + 4 * w) =
        some (BitVec.ofNat 32 (Memory.read g.bytes (a.toNat / 64 * 64 - g.base.toNat + 4 * w) 4)))) ∧
  (∀ (dm c : Nat) (a : BitVec 52) (u : State) (s : State), dm < 96 → s.lead? dm = some c → (s.dome dm).server a.toNat = none →
    (s.dome dm).fe.toNat = a.toNat → s.loadSegment c a.toNat = .inr u →
    exec (.segmentLoad dm a) s = .next (u.setDome dm
        { u.dome dm with hints := (s.dome dm).hints.filter fun n => s.segOf (dm / 12) (s.core c).segTab a.toNat ≠ some n }) ∧
      ((u.dome dm).server a.toNat).isSome = true ∧ ((u.dome dm).segs.map Segment.len).sum ≤ 2 ^ 19 ∧ u.mem = s.mem) ∧
  (∀ (dm : Nat) (a : BitVec 52) (s : State), ((s.dome dm).server a.toNat).isSome = true → exec (.segmentLoad dm a) s = .next s)

/-- Instruction delivery (R153 to R155, R157, R173). -/
def Obligations.InstructionDelivery : Prop :=
  Claims.TheStreamDeliversToEveryCore ∧ Claims.InstructionMemoryServesFetches

/-- R162 to R164: a JOIN.ALL completes when every attached core has issued it and no core of the tag's detach set is still away; the window of a
JOIN.ANY closes when its last cycle has come, or no core is detached or held, whether or not every attached core has issued it: the cores that
wait at its address with its tag are attached again, and those that have issued it start with no latch valid. Before that nothing is joined: the
dome only settles. -/
def Sys2Proof.Claims.JoinsReattachCores : Prop :=
  ∀ (dm : Nat) (o : JoinOpen) (s : State), dm < 96 → (s.dome dm).open? = some o → (s.dome dm).barrier = none →
    (∃ c ∈ domeCores dm, (s.core c).join = .attached) →
    let member (c : Nat) : Prop := c ∈ domeCores dm ∧ (s.core c).wait = .join o.any o.tag o.addr ∧
      ((s.core c).join = .attached ∧ (s.core c).run ≠ .stopped ∨ (s.core c).join = .waiting)
    let joined (t : State) : Prop := (t.dome dm).open? = none ∧ (t.dome dm).awaits = none ∧ t.mem = s.mem ∧
      ∀ c, member c → (t.core c).join = .attached ∧ (t.core c).latches = Vector.replicate 8 none ∧ (t.core c).wait = .none
    (o.any = false → s.joinReady dm o = true → ∃ t, exec (.joinComplete dm) s = .next t ∧ joined t ∧
      ((t.dome dm).det[o.tag.toNat]?).getD 0#16 = 0#16) ∧
    (o.any = false → s.joinReady dm o = false → exec (.joinComplete dm) s = .next (s.settleDome dm)) ∧
    (o.any = true → o.left = some 0 ∨ s.joinEarly dm = true → ∃ t, exec (.joinAnyClose dm) s = .next t ∧ joined t ∧
      (t.dome dm).det = (s.dome dm).det) ∧
    (o.any = true → o.left ≠ some 0 → s.joinEarly dm = false → exec (.joinAnyClose dm) s = .next (s.settleDome dm))

/-- R176, R177, R181, R182, R186, R188, R440: an idle dome takes the best ready record and starts it: the entry leaves its queue, a spilled one
gives its bytes back, and banks of the launch that are still to be cleared are; then every core runs attached at the record's address, with the
record's registers and its launch's number, and every other register at its reset value. A dome that runs a continuation takes nothing, nor
does one that leaves the record to a lower-numbered idle dome of its die. -/
def Sys2Proof.Claims.ContinuationsStart : Prop :=
  ∀ (dm : Nat) (s : State), dm < 96 →
    (∀ r, (s.dome dm).run = .dome r → exec (.continuationStart dm) s = .next s) ∧
    ((s.dome dm).run = .priv → exec (.continuationStart dm) s = .next s) ∧
    (∀ e, (s.dome dm).run = .idle → tabGet? s.victims dm = none → (s.dome dm).pending = [] → s.bestReady dm = some e → s.firstIdle dm e = false →
      exec (.continuationStart dm) s = .next s) ∧
    (∀ e l g, (s.dome dm).run = .idle → tabGet? s.victims dm = none → (s.dome dm).pending = [] → s.bestReady dm = some e →
      tabGet? s.launches e.launch = some l →
      let x := s.die (dm / 12)
      let u := ((s.setDie (dm / 12) { x with ready := dropReady e x.ready }).unspill (dm / 12) e).readyBanks dm e.launch l
      u.recValid (dm / 12) l e.record = true → recKind (u.recWord (dm / 12) e.record 1) = 0 →
      u.region? (dm / 12) l (recRegion (u.recWord (dm / 12) e.record 1)) = some g → (u.die (dm / 12)).copies = [] →
      s.firstIdle dm e = true →
      let w (i : Nat) : Word := u.recWord (dm / 12) e.record i
      ∃ t, exec (.continuationStart dm) s = .next t ∧ (t.dome dm).run = .dome e.record ∧ (t.dome dm).fe = w 0 &&& 0xFFFFFFFFFFFFF#64 ∧
        ∀ c ∈ domeCores dm, (t.core c).run = .running ∧ (t.core c).join = .attached ∧ (t.core c).next = w 0 &&& 0xFFFFFFFFFFFFF#64 ∧
          (t.core c).launchId = l.id ∧ (t.core c).record = e.record ∧ (t.core c).launch = some e.launch ∧
          (t.core c).regAllot = g.reg ∧ (t.core c).spmAllot = g.spm ∧ (t.core c).accAllot = g.acc ∧
          (∀ i, i < 4 → (t.core c).getS (BitVec.ofNat 6 (i + 1)) = w (2 + i)) ∧ (t.core c).getS 63#6 = w 6 ∧
          (∀ i, i < 23 → (t.core c).getP (BitVec.ofNat 5 (i + 1)) = (w 1).getLsbD i) ∧
          (t.core c).getS 5#6 = 0#64 ∧ (t.core c).flags = 0#7 ∧ (t.core c).ctlDef = 0x191#10 ∧ (t.core c).fmt = 0xC08#13 ∧
          (t.core c).inTrap = false ∧ (t.core c).cycle = (s.core c).cycle)

/-- R187: the entry that has waited longest below level 6 rises to the tail of the next level. -/
def Sys2Proof.Claims.ReadyEntriesAge : Prop :=
  ∀ (d : Nat) (s : State),
    ((∀ e ∈ (s.die d).ready, 6 ≤ e.level) → exec (.readyAging d) s = .next s) ∧
    (∀ e l, (s.die d).ready.find? (fun e => e.level < 6) = some e → tabGet? s.launches e.launch = some l → e.off = false →
      (s.die d).ready.length ≤ 512 → (∀ x ∈ (s.die d).ready, x.off = false) →
      ∃ t, exec (.readyAging d) s = .next t ∧ t.mem = s.mem ∧
        (t.die d).ready = dropReady e (s.die d).ready ++ [{ e with level := e.level + 1 }])

/-- R181, R424: a launch completes when its LIVE is 0 and then runs no longer; else nothing happens. Where no job, copy or queue of it is left, its
completion word then holds LAUNCHID and code 1. -/
def Sys2Proof.Claims.LaunchesComplete : Prop :=
  ∀ (l : Nat) (x : Launch) (s : State), tabGet? s.launches l = some x → tabSorted s.launches = true →
    (s.dev 0 (x.rcb 0 + 0x58) 4 ≠ 0 → exec (.launchComplete l) s = .next s) ∧
    (s.dev 0 (x.rcb 0 + 0x58) 4 = 0 → ∃ t, exec (.launchComplete l) s = .next t ∧ tabGet? t.launches l = none ∧
      (∀ m, m ≠ l → tabGet? t.launches m = tabGet? s.launches m) ∧
      ((∀ d, (s.die d).copies = []) → (∀ c, (s.eng c).jobs = []) → s.queueOf l = none → x.done ≠ 0#64 → Memory.wf s.mem = true →
        ∀ k, s.qMeet needW x.done = .key k → s.fixed k 8 = false → t.rd k 8 = x.id.toNat * 2 ^ 32 + 1))

/-- Joins (R162 to R164), continuations (R176, R177, R181, R182, R186, R188, R440), aging (R187) and completion of launches (R181, R424). -/
def Obligations.JoinsAndContinuations : Prop :=
  Claims.JoinsReattachCores ∧ Claims.ContinuationsStart ∧ Claims.ReadyEntriesAge ∧ Claims.LaunchesComplete

/-- Tables 17-1 and 17-7: the register and immediate instructions of Dolelm, and what a result does: the register of the link core in turn, unless
it is l0, and its PC, which goes on by 4; nothing else. -/
def Sys2Proof.Claims.LinkCoreArithmetic : Prop :=
  (∀ r ∈ [(Instr.dolAdd, fun (a b : Half) => a + b), (.dolSub, fun a b => a - b), (.dolAnd, fun a b => a &&& b), (.dolOr, fun a b => a ||| b),
      (.dolXor, fun a b => a ^^^ b), (.dolSll, fun a b => a <<< (b.setWidth 5).toNat), (.dolSrl, fun a b => a >>> (b.setWidth 5).toNat)],
    ∀ (o : DReg) (s : State), exec (r.1 o) s = .next (s.lkPut o.d (r.2 (s.lk.get o.a) (s.lk.get o.b)))) ∧
  (∀ r ∈ [(Instr.dolAddi, fun (a b : Half) => a + b), (.dolAndi, fun a b => a &&& b), (.dolOri, fun a b => a ||| b)],
    ∀ (o : DImm) (s : State), exec (r.1 o) s = .next (s.lkPut o.d (r.2 (s.lk.get o.a) (BitVec.ofInt 32 o.i.toInt)))) ∧
  (∀ r ∈ [(Instr.dolSlli, fun (a : Half) n => a <<< n), (.dolSrli, fun a n => a >>> n)], ∀ (o : DImm) (s : State),
    exec (r.1 o) s = if o.i.toNat < 32 then .next (s.lkPut o.d (r.2 (s.lk.get o.a) o.i.toNat)) else lkStop lcILLRSV s) ∧
  (∀ (o : DImm) (s : State), exec (.dolLui o) s =
    if o.a = 0#4 then .next (s.lkPut o.d (BitVec.ofNat 32 (o.i.toNat * 2 ^ 14))) else lkStop lcILLRSV s) ∧
  (∀ (s : State) (d q : BitVec 4) (v : Half),
    (s.lkPut d v).lk.get q = (if q = 0#4 then 0#32 else if q = d then v else s.lk.get q) ∧ (s.lkPut d v).lk.pc = s.lk.pc + 4#18 ∧
      (s.lkPut d v).lk.mem = s.lk.mem ∧ (s.lkPut d v).lk.events = s.lk.events ∧ (∀ k, k ≠ s.cur → (s.lkPut d v).linkCore k = s.linkCore k) ∧
      s.lkPut d v = { s with links := (s.lkPut d v).links })

/-- R384, Table 17-7: LW and SW reach the word of local memory at a + sext(I18): ALIGN and RANGE stop the link core; a store writes its word and
no other byte; branches and JALR go to their targets. -/
def Sys2Proof.Claims.LinkCoreMemoryAndBranches : Prop :=
  (∀ (o : DImm) (s : State),
    let e := (s.lk.get o.a + BitVec.ofInt 32 o.i.toInt).toNat
    (e % 4 ≠ 0 → exec (.dolLw o) s = lkStop lcALIGN s ∧ exec (.dolSw o) s = lkStop lcALIGN s) ∧
    (e % 4 = 0 → 2 ^ 18 ≤ e → exec (.dolLw o) s = lkStop lcRANGE s ∧ exec (.dolSw o) s = lkStop lcRANGE s) ∧
    (e % 4 = 0 → e < 2 ^ 18 → exec (.dolLw o) s = .next (s.lkPut o.d (BitVec.ofNat 32 (Memory.read s.lk.mem e 4))) ∧
      (Memory.wf s.lk.mem = true → ∃ t, exec (.dolSw o) s = .next t ∧ Memory.read t.lk.mem e 4 = (s.lk.get o.d).toNat ∧
        (∀ a, a < e ∨ e + 4 ≤ a → Memory.get t.lk.mem a = Memory.get s.lk.mem a) ∧ t.lk.l = s.lk.l ∧ t.lk.pc = s.lk.pc + 4#18 ∧
        t = { s with links := t.links } ∧ ∀ k, k ≠ s.cur → t.linkCore k = s.linkCore k))) ∧
  (∀ r ∈ [(Instr.dolBeq, fun (a b : Half) => a == b), (.dolBne, fun a b => a != b), (.dolBlt, fun a b => decide (a.toInt < b.toInt)),
      (.dolBltu, fun a b => decide (a.toNat < b.toNat))], ∀ (o : DBr) (s : State),
    let t : Half := s.lk.pc.setWidth 32 + BitVec.ofInt 32 (4 * o.off.toInt)
    exec (r.1 o) s = if r.2 (s.lk.get o.a) (s.lk.get o.b) = false then .next (s.setLk { s.lk with pc := s.lk.pc + 4#18 })
      else if 2 ^ 18 ≤ t.toNat then lkStop lcRANGE s else .next (s.setLk { s.lk with pc := t.setWidth 18 })) ∧
  (∀ (o : DImm) (s : State),
    let t : Half := s.lk.get o.a + BitVec.ofInt 32 (4 * o.i.toInt)
    (t.toNat % 4 = 0 → t.toNat < 2 ^ 18 → ∃ u, exec (.dolJalr o) s = .next u ∧ u.lk.pc = t.setWidth 18 ∧
      ∀ q, u.lk.get q = if q = 0#4 then 0#32 else if q = o.d then s.lk.pc.setWidth 32 + 4#32 else s.lk.get q) ∧
    (t.toNat % 4 ≠ 0 → exec (.dolJalr o) s = lkStop lcALIGN s) ∧ (t.toNat % 4 = 0 → 2 ^ 18 ≤ t.toNat → exec (.dolJalr o) s = lkStop lcRANGE s))

/-- R385, R386, R393, R394, Tables 17-2, 17-8 and 17-9: the instructions on packet delivery contexts. A context number above 4,094 is BADPDC; STC
reaches words 6 to 15 only; an instruction on a closed context does nothing, and one of the other side is BADOPND. -/
def Sys2Proof.Claims.ContextInstructions : Prop :=
  (∀ (o : DImm) (s : State), let a := (s.lk.get o.a).toNat
    (o.i.toNat < 16 → 4094 < a → exec (.dolLdc o) s = lkStop lcBADPDC s ∧ exec (.dolStc o) s = lkStop lcBADPDC s) ∧
    (16 ≤ o.i.toNat → exec (.dolLdc o) s = lkStop lcILLRSV s ∧ exec (.dolStc o) s = lkStop lcILLRSV s) ∧
    (o.i.toNat < 16 → a ≤ 4094 → exec (.dolLdc o) s = .next (s.lkPut o.d ((s.record a).word o.i.toNat)) ∧
      (o.i.toNat ≤ 5 → exec (.dolStc o) s = lkStop lcBADREC s) ∧
      (6 ≤ o.i.toNat → ∃ t, exec (.dolStc o) s = .next t ∧ t.lk = { s.lk with pc := s.lk.pc + 4#18 } ∧
        ∀ w, (t.record a).word w = if w = o.i.toNat then s.lk.get o.d else (s.record a).word w))) ∧
  (∀ (o : DReg) (s : State) (x : Pdc), let i := (s.lk.get o.a).toNat
    let b := s.lk.get o.b
    (4094 < i → ∀ op ∈ [Instr.dolRetx, .dolSetwin, .dolSetpath, .dolArmtmr, .dolSack, .dolNaksend, .dolPostc, .dolFailc],
      exec (op o) s = lkStop lcBADPDC s) ∧
    (i ≤ 4094 → s.pdc? s.cur i = some x → x.isOpen = true → x.isTarget = false →
      (exec (.dolSack o) s = lkBadOpnd (s.lk.get o.a) s ∧ exec (.dolNaksend o) s = lkBadOpnd (s.lk.get o.a) s) ∧
      (∀ w, w = (if b.toNat < 4096 then 4096#32 else if 2 ^ 24 < b.toNat then 0x1000000#32 else b) →
        exec (.dolSetwin o) s = .next ((s.setPdc s.cur i (x.setWord 4 w)).lkPut o.d w)) ∧
      (x.unanswered b = false → exec (.dolRetx o) s = .next (s.lkPut o.d 0#32)) ∧
      (x.unanswered b = true → ∃ t y, exec (.dolRetx o) s = .next t ∧ t.lk = (s.lkPut o.d 1#32).lk ∧ t.pdc? s.cur i = some y ∧
        y.pkts = x.pkts.map fun p => { p with again := p.again || decide (p.psn = b) }) ∧
      (∀ ps rest, x.pkts = ps ++ rest → (∀ p ∈ ps, p.acked = true ∧ psnUpTo p.psn b = true) →
        (∀ p ∈ rest.head?, ¬(p.acked = true ∧ psnUpTo p.psn b = true)) → (∀ p ∈ ps, s.jobOf? p.core p.ord = none) →
        ∃ t y, exec (.dolPostc o) s = .next t ∧ t.lk = (s.lkPut o.d (BitVec.ofNat 32 ps.length)).lk ∧ t.pdc? s.cur i = some y ∧
          y.pkts = rest ∧ y.word 2 = x.word 2 + BitVec.ofNat 32 ps.length)) ∧
    (i ≤ 4094 → s.pdc? s.cur i = some x → x.isOpen = true → x.isTarget = true →
      (exec (.dolRetx o) s = lkBadOpnd (s.lk.get o.a) s ∧ exec (.dolSetwin o) s = lkBadOpnd (s.lk.get o.a) s ∧
        exec (.dolPostc o) s = lkBadOpnd (s.lk.get o.a) s) ∧
      exec (.dolSack o) s = .next (s.sendAck s.cur i x).lkNext ∧
      exec (.dolNaksend o) s = .next (if x.seenPsn b then s else s.answer s.cur i x b (.nak b .trim)).lkNext) ∧
    (i ≤ 4094 → s.pdc? s.cur i = some x → x.isOpen = true →
      (b.toNat < 2 ^ 11 → b.toNat / 2 ^ 8 ≤ 5 → exec (.dolSetpath o) s = .next (s.setPdc s.cur i (x.setWord 5 b)).lkNext) ∧
      (2 ^ 11 ≤ b.toNat ∨ 5 < b.toNat / 2 ^ 8 → exec (.dolSetpath o) s = lkBadOpnd b s) ∧
      (b.toNat < 2 ^ 20 → exec (.dolArmtmr o) s =
        .next (s.setPdc s.cur i { x with timer := if b = 0#32 then none else some b.toNat }).lkNext) ∧
      (2 ^ 20 ≤ b.toNat → exec (.dolArmtmr o) s = lkBadOpnd b s) ∧
      (b ∉ [13#32, 14#32] → exec (.dolFailc o) s = lkBadOpnd b s) ∧
      (b ∈ [13#32, 14#32] → x.pkts = [] → ∃ t y, exec (.dolFailc o) s = .next t ∧ t.pdc? s.cur i = some y ∧ y.isOpen = false ∧
        t.lk.pc = s.lk.pc + 4#18)) ∧
    (i ≤ 4094 → s.pdc? s.cur i = some x → x.isOpen = false →
      (∀ op ∈ [Instr.dolSetwin, .dolSack, .dolNaksend], exec (op o) s = .next s.lkNext) ∧
      (∀ op ∈ [Instr.dolRetx, .dolPostc], exec (op o) s = .next (s.lkPut o.d 0#32)))) ∧
  (∀ (o : DReg) (s : State), let a := s.lk.get o.a
    let pd := s.portDie (s.cur / 2)
    (11 < a.toNat → exec (.dolRdstat o) s = lkBadOpnd a s) ∧ (a.toNat < 2 ∨ 10 < a.toNat → exec (.dolWrstat o) s = lkBadOpnd a s) ∧
    (a = 0#32 → exec (.dolRdstat o) s = .next ((s.setPort (s.cur / 2) { pd with latch := pd.cycle.extractLsb' 32 32 }).lkPut o.d
      (pd.cycle.setWidth 32))) ∧
    (a = 1#32 → exec (.dolRdstat o) s = .next (s.lkPut o.d pd.latch)) ∧
    (∀ n, a.toNat = n → 2 ≤ n → n ≤ 10 → exec (.dolRdstat o) s = .next (s.lkPut o.d ((pd.stats[n]?).getD 0#32)) ∧
      ∃ t, exec (.dolWrstat o) s = .next t ∧ (t.portDie (s.cur / 2)).stats[n]? = some (s.lk.get o.b) ∧ t.lk = s.lk.next ∧
        ∀ m, m ≠ n → (t.portDie (s.cur / 2)).stats[m]? = pd.stats[m]?) ∧
    (a = 11#32 → exec (.dolRdstat o) s = .next (s.lkPut o.d (BitVec.ofNat 32 (s.openCount s.cur)))))

/-- Dolelm (R384 to R386, R393, R394, Tables 17-1, 17-2 and 17-7 to 17-9). -/
def Obligations.LinkCoreInstructions : Prop :=
  Claims.LinkCoreArithmetic ∧ Claims.LinkCoreMemoryAndBranches ∧ Claims.ContextInstructions

/-- R392: EWAIT takes the oldest event into four registers from d on, polls with zeros, or waits; a waiting link core wakes when an event is there. -/
def Sys2Proof.Claims.EventWaits : Prop :=
  (∀ (o : DImm) (s : State) (e : LinkEv) (r : List LinkEv), s.lk.events = e :: r → o.d ≠ 0#4 → o.d.toNat ≤ 12 →
    ∃ t, exec (.dolEwait o) s = .next t ∧ t.lk.events = r ∧ t.lk.spill = s.lk.spill ∧ t.lk.pc = s.lk.pc + 4#18 ∧ t.lk.state = 0#2 ∧
      t.lk.get o.d = e.w0 ∧ t.lk.get (o.d + 1#4) = e.w1 ∧ t.lk.get (o.d + 2#4) = e.w2 ∧ t.lk.get (o.d + 3#4) = e.w3 ∧
      (∀ q : BitVec 4, q.toNat < o.d.toNat ∨ o.d.toNat + 3 < q.toNat → t.lk.get q = s.lk.get q) ∧ t.mem = s.mem) ∧
  (∀ (o : DImm) (s : State), s.lk.events = [] → s.lk.spill = [] → o.d ≠ 0#4 → o.d.toNat ≤ 12 →
    (o.i.getLsbD 0 = true → ∃ t, exec (.dolEwait o) s = .next t ∧ t.lk.pc = s.lk.pc + 4#18 ∧
      ∀ n, n < 4 → t.lk.get (o.d + BitVec.ofNat 4 n) = 0#32) ∧
    (o.i.getLsbD 0 = false → ∃ t, exec (.dolEwait o) s = .next t ∧ t.lk.pc = s.lk.pc ∧ t.lk.state = 1#2 ∧ t.lk.l = s.lk.l)) ∧
  (∀ (o : DImm) (s : State), o.d = 0#4 ∨ 12 < o.d.toNat → exec (.dolEwait o) s = lkStop lcILLRSV s) ∧
  (∀ (k : Nat) (s : State), let x := s.linkCore k
    (x.state = 1#2 → x.events ≠ [] → ∃ t, exec (.ewaitWake k) s = .next t ∧ (t.linkCore k).state = 0#2 ∧ (t.linkCore k).events = x.events ∧
      (t.linkCore k).l = x.l) ∧
    (x.state ≠ 1#2 ∨ x.events = [] ∧ x.spill = [] → exec (.ewaitWake k) s = .next s))

/-- R396, Table 17-10: HALT, TRAP and every other stop leave the registers and PC of the link core, record cause, PC and INFO, and show them in
LCSTAT of the capability block, once that stands; a stopped link core, unless HALT stopped it or it was the eighth stop within 2^30 cycles, restarts from its image. -/
def Sys2Proof.Claims.LinkCoreStops : Prop :=
  (∀ (k : Nat) (cause : BitVec 6) (info : Half) (s : State), Memory.wf s.mem = true →
    let x := s.linkCore k
    let y := (s.linkStop k cause info).linkCore k
    y.l = x.l ∧ y.pc = x.pc ∧ y.mem = x.mem ∧ y.events = x.events ∧ y.cause = cause ∧ y.spc = x.pc ∧ y.info = info ∧
      (cause = lcHALT → y.state = 3#2) ∧ (cause ≠ lcHALT → x.times.length < 7 → y.state = 2#2) ∧
      (x.stops ≠ 15#4 → y.stops = x.stops + 1#4) ∧ (s.root.released = false → (s.linkStop k cause info).mem = s.mem) ∧
      (s.root.released = true → k < 4 → (s.linkStop k cause info).rd (0x30 + 8 * k) 8 =
        y.state.toNat * 2 ^ 62 + cause.toNat * 2 ^ 56 + y.stops.toNat * 2 ^ 52 + x.pc.toNat * 2 ^ 32 + info.toNat) ∧
      ∀ j, j ≠ k → (s.linkStop k cause info).linkCore j = s.linkCore j) ∧
  (∀ (o : DReg) (s : State), exec (.dolHalt o) s = .next (s.linkStop s.cur 0#6 (BitVec.ofNat 32 (Memory.read s.lk.mem s.lk.pc.toNat 4)))) ∧
  (∀ (o : DImm) (s : State), exec (.dolTrap o) s = .next (s.linkStop s.cur 8#6 (o.i.setWidth 32))) ∧
  (∀ (k : Nat) (s : State),
    ((s.linkCore k).state ≠ 2#2 → exec (.lcRestart k) s = .next s) ∧
    ((s.linkCore k).state = 2#2 → ∃ t, exec (.lcRestart k) s = .next t ∧ (t.linkCore k).state = 0#2 ∧ (t.linkCore k).pc = 0#18 ∧
      (∀ q, (t.linkCore k).get q = 0#32) ∧ (t.linkCore k).mem = s.root.linkImage k ∧ (t.linkCore k).events = (s.linkCore k).events ∧
      t.pdcs = s.pdcs ∧ t.ports = s.ports))

/-- Events (R392) and stops (R396, Table 17-10) of link cores. -/
def Obligations.LinkCoreEventsAndStops : Prop :=
  Claims.EventWaits ∧ Claims.LinkCoreStops

/-- R385, R386: a context opens for a combination that needs one and has none, under the lowest free index, with an OPEN event; an idle one closes,
with a CLOSE event; STATE passes through 2, in an eager state at once, to 0 (the model's, log entry 69). A combination that has an open context
gets no second one, and one that finds no room waits. -/
def Sys2Proof.Claims.ContextsOpenAndClose : Prop :=
  (∀ (p : PdcKey) (s : State),
    ((∃ e ∈ s.pdcs, e.2.isOpen = true ∧ { e.2.key with pd := 0 } = { p with pd := 0 }) → exec (.pdcOpen p) s = .next s) ∧
    (s.pdcNeeded p = false ∨ s.pdcHost p = none → exec (.pdcOpen p) s = .next s) ∧
    (∀ k i, (∀ e ∈ s.pdcs, e.2.isOpen = false) → s.pdcNeeded p = true → s.pdcHost p = some k → s.pdcFree k = some i →
      (s.linkCore k).spill = [] → (s.linkCore k).events.length < 512 →
      ∃ t x e, exec (.pdcOpen p) s = .next t ∧ t.pdc? k i = some x ∧ x.key = p ∧ x.isOpen = true ∧ x.word 1 = 0#32 ∧ x.word 2 = 0#32 ∧
        x.word 3 = 0#32 ∧ x.word 4 = 65536#32 ∧ (t.linkCore k).events = (s.linkCore k).events ++ [e] ∧
        e.w0 = BitVec.ofNat 32 (13 * 2 ^ 24 + i) ∧ t.mem = s.mem)) ∧
  (∀ (k i : Nat) (x : Pdc) (s : State), s.pdc? k i = some x → (s.linkCore k).spill = [] → (s.linkCore k).events.length < 512 →
    (x.isOpen = true → x.pkts = [] → x.got = [] → x.unacked = 0 → x.isTarget = true ∨ s.pdcNeeded x.key = false →
      ∃ t y e, exec (.pdcIdleClose k i) s = .next t ∧ t.pdc? k i = some y ∧ y.state = (if s.eager then 0 else 2) ∧
        (t.linkCore k).events = (s.linkCore k).events ++ [e] ∧ e.w0 = BitVec.ofNat 32 (14 * 2 ^ 24 + i)) ∧
    (x.state = 2 → ∃ t y, exec (.pdcIdleClose k i) s = .next t ∧ t.pdc? k i = some y ∧ y.state = 0 ∧ t.links = s.links ∧ t.mem = s.mem) ∧
    (x.state ≠ 2 → x.isOpen = false ∨ x.pkts ≠ [] ∨ x.got ≠ [] ∨ x.unacked ≠ 0 → exec (.pdcIdleClose k i) s = .next s))

/-- R369, R376, R385, R393, R394: a packet marked for resending leaves first, under its own PSN; else the next job's packet leaves within the
window, under SNDNXT, and counts in INFLIGHT until it is retired; else one that a collective or a core has waiting, in the same way; each takes
the port that its entropy value picks, and without an enabled port nothing leaves. A packet for the device's own rank loops back to its target
context. A victim's job whose footprint is device memory sends on, behind those of the cores (R331). Stated for a packet whose source can be
read. That jobs go before what waits is the model's (log entry 69). -/
def Sys2Proof.Claims.PacketsLeaveInOrder : Prop :=
  ∀ (k i : Nat) (x : Pdc) (s : State), s.openPdc? false k i = some x →
    let ports := pathPorts (x.word 5)
    let pick (entropy pt : Nat) : Prop := ports[entropy % ports.length]? = some pt
    (ports = [] → exec (.packetSend k i) s = .next s) ∧
    (∀ c slot j, ports ≠ [] → (∀ p ∈ x.pkts, p.again = false) → s.nextSender x = some ((c, slot, j), false) →
      s.job? c slot = some j → x.key.mode ≠ 3#2 →
      ((x.word 4).toNat < (x.word 3).toNat + j.payload j.made → exec (.packetSend k i) s = .next s) ∧
      ((x.word 3).toNat + j.payload j.made ≤ (x.word 4).toNat → s.chunkFault c false needR (j.source j.made) = none →
        (∀ p ∈ ports, p ∉ s.down) → x.key.peer ≠ Config.devRank →
        ∃ t y pk pt, exec (.packetSend k i) s = .next t ∧ t.pdc? k i = some y ∧ y.word 1 = x.word 1 + 1#32 ∧
          y.word 3 = x.word 3 + BitVec.ofNat 32 (j.payload j.made) ∧ y.pkts = x.pkts ++ [pk] ∧ pk.psn = x.word 1 ∧ pk.core = c ∧
          pk.ord = j.ord ∧ pk.bytes = j.payload j.made ∧ pk.acked = false ∧ t.job? c slot = some { j with made := j.made + 1 } ∧
          t.wire = s.wire ++ [{ peer := x.key.peer, port := some pt, k := k, i := i, psn := x.word 1, body := s.pktBody c j j.made }] ∧
          pick (j.entropy j.made) pt ∧ t.mem = s.mem)) ∧
    (∀ c slot j, ports ≠ [] → (∀ p ∈ x.pkts, p.again = false) → s.nextSender x = some ((c, slot, j), true) →
      exec (.packetSend k i) s = .next (s.inVictim c fun t => t.sendNew k i x c slot j)) ∧
    (∀ p body, x.pkts = [p] → p.again = true → s.jobOf? p.core p.ord = none → ports ≠ [] → (∀ q ∈ ports, q ∉ s.down) →
      x.key.peer ≠ Config.devRank →
      (p.job = none ∧ body = p.body ∨ ∃ j, p.job = some j ∧ s.chunkFault p.core false needR (j.source p.ix) = none ∧
        body = s.pktBody p.core j p.ix) →
      ∃ t y pt, exec (.packetSend k i) s = .next t ∧ t.pdc? k i = some y ∧ y.pkts = [{ p with again := false, body := body }] ∧
        y.word 1 = x.word 1 ∧ pick p.entropy pt ∧
        t.wire = s.wire ++ [{ peer := x.key.peer, port := some pt, k := k, i := i, psn := p.psn, body := body }] ∧ t.mem = s.mem) ∧
    (∀ q, ports ≠ [] → (∀ p ∈ x.pkts, p.again = false) → s.nextSender x = none → s.outq.find? (fun r => r.key = x.key) = some q →
      ((x.word 4).toNat < (x.word 3).toNat + q.bytes → exec (.packetSend k i) s = .next s) ∧
      ((x.word 3).toNat + q.bytes ≤ (x.word 4).toNat → (∀ p ∈ ports, p ∉ s.down) → x.key.peer ≠ Config.devRank →
        ∃ t y pk pt, exec (.packetSend k i) s = .next t ∧ t.pdc? k i = some y ∧ y.word 1 = x.word 1 + 1#32 ∧
          y.word 3 = x.word 3 + BitVec.ofNat 32 q.bytes ∧ y.pkts = x.pkts ++ [pk] ∧ pk.psn = x.word 1 ∧ pk.body = q.body ∧
          pk.bytes = q.bytes ∧ pk.acked = false ∧ t.outq = s.outq.erase q ∧
          t.wire = s.wire ++ [{ peer := x.key.peer, port := some pt, k := k, i := i, psn := x.word 1, body := q.body }] ∧
          pick q.entropy pt ∧ t.mem = s.mem)) ∧
    (ports ≠ [] → (∀ p ∈ x.pkts, p.again = false) → s.nextSender x = none → (∀ r ∈ s.outq, r.key ≠ x.key) →
      exec (.packetSend k i) s = .next s) ∧
    (∀ psn entropy pt tk ti win arm coord shape loges key data, x.key.peer = Config.devRank → pick entropy pt → pt ∉ s.down →
      s.pdcOf { x.key with target := true, pd := k / 2 } = some (tk, ti) →
      s.transmit k i x psn entropy (.place win arm coord shape loges key data) = s.placePacket
        { k := tk, i := ti, psn := psn, src := Config.devRank, win := win, arm := arm, coord := coord, shape := shape, loges := loges,
          key := key, sec := x.key.sec, sdi := x.key.sdi, auth := true, port := pt, data := data })

/-- R387, R388, R394: an acknowledgement marks the packets it covers, up to the cumulative PSN and in the selective bitmap, and no other; NAKs
and trimmed packets become events of their context; a target drops the kept results that are acknowledged. -/
def Sys2Proof.Claims.AcknowledgementsAndNaks : Prop :=
  (∀ (k i : Nat) (a : AckInfo) (x : Pdc) (s : State), s.openPdc? false k i = some x → a.resp = none →
    (s.linkCore k).spill = [] → (s.linkCore k).events.length ≤ 508 →
    ∃ t y, exec (.ackReceived k i a) s = .next t ∧ t.pdc? k i = some y ∧
      y.pkts = (x.pkts.map fun p => { p with acked := p.acked || ackCovers a p.psn && !p.resp }) ∧ y.words = x.words ∧ t.mem = s.mem ∧
      t.cores = s.cores) ∧
  (∀ (a : AckInfo) (psn : BitVec 32), a.sack = none → (ackCovers a psn = true ↔ (a.cum - psn).toNat < 2 ^ 31)) ∧
  (∀ (k i : Nat) (a : AckInfo) (x : Pdc) (s : State), s.openPdc? true k i = some x →
    exec (.ackReceived k i a) s =
      .next (s.setPdc k i { x with results := x.results.filter fun r => !ackCovers a (BitVec.ofNat 32 r.1) })) ∧
  (∀ (k i : Nat) (psn : BitVec 32) (x : Pdc) (s : State), (s.linkCore k).spill = [] → (s.linkCore k).events.length < 512 →
    let one (kind : Nat) (t : State) : Prop := ∃ e, (t.linkCore k).events = (s.linkCore k).events ++ [e] ∧
      e.w0 = BitVec.ofNat 32 (kind * 2 ^ 24 + i) ∧ e.w1 = psn ∧ t.mem = s.mem ∧ t.cores = s.cores
    (s.openPdc? false k i = some x →
      (∃ t, exec (.trimNakReceived k i psn) s = .next t ∧ one 5 t ∧ t.pdcs = s.pdcs) ∧
      (∃ t, exec (.notReadyNakReceived k i psn) s = .next t ∧ one 6 t ∧ t.pdcs = s.pdcs)) ∧
    (s.openPdc? true k i = some x → ∃ t, exec (.trimmedPacketReceived k i psn) s = .next t ∧ one 10 t ∧ t.pdcs = s.pdcs))

/-- R372, R395: a rejecting NAK, or the transport timeout of a job with a packet not acknowledged, ends its job with CODE 3, REMOTE or TIMEOUT;
a job that has ended is left alone. -/
def Sys2Proof.Claims.TransportFaultsEndTheirJob : Prop :=
  (∀ (k i reason slot : Nat) (psn : BitVec 32) (x : Pdc) (p : Pkt) (j : Job) (s : State), s.openPdc? false k i = some x →
    x.pkts.find? (fun p => p.psn = psn && !p.acked) = some p → tabSorted (s.eng p.core).jobs = true → slot < 64 →
    s.job? p.core slot = some j → j.ord = p.ord → (∀ e ∈ (s.eng p.core).jobs, e.2.ord = p.ord → e.1 = slot) → j.sends = true →
    (∀ e ∈ (s.eng p.core).jobs, ∀ g ∈ e.2.edges, g.ord ≠ j.ord) →
    ∃ t, exec (.rejectingNakReceived k i psn reason) s = .next t ∧ t.job? p.core slot = none ∧ (t.eng p.core).unrep.getLsbD slot = true ∧
      (∀ b, j.status = some b → Memory.wf s.mem = true → t.rd (spKey p.core (b + 8 * slot)) 8 =
        j.prog % 2 ^ 32 * 2 ^ 32 + cREMOTE.toNat * 2 ^ 24 + j.fl.toNat % 64 * 2 ^ 8 + 3)) ∧
  (∀ (c slot : Nat) (j : Job) (s : State), s.job? c slot = some j → tabSorted (s.eng c).jobs = true → slot < 64 → j.sends = true →
    (∀ e ∈ (s.eng c).jobs, ∀ g ∈ e.2.edges, g.ord ≠ j.ord) →
    (j.st = .running → j.prog < j.packets → ∃ t, exec (.transportTimeout c slot) s = .next t ∧ t.job? c slot = none ∧
      (t.eng c).unrep.getLsbD slot = true) ∧
    (j.packets ≤ j.prog → exec (.transportTimeout c slot) s = .next s))

/-- R387, R393, R394, R431, Table 17-4: a target acknowledges what it has received; ports that fail or come back, from stage 2 of the start on, tell
every link core; a timer that runs out is one event. -/
def Sys2Proof.Claims.PortsTimersAndAutomaticAcknowledgements : Prop :=
  (∀ (k i : Nat) (x : Pdc) (s : State), s.openPdc? true k i = some x →
    (x.unacked = 0 → exec (.targetAutoAck k i) s = .next s) ∧
    (x.unacked ≠ 0 → x.key.peer ≠ Config.devRank → ∃ t y, exec (.targetAutoAck k i) s = .next t ∧ t.openPdc? true k i = some y ∧ y.unacked = 0 ∧ y.words = x.words ∧
      t.wire = s.wire ++ [{ peer := x.key.peer, port := none, k := k, i := i, psn := x.word 1,
                            body := .ack (x.word 1 - 1#32) x.got }])) ∧
  (∀ (port : Nat) (s : State), port < 52 → (∀ k, k < 4 → (s.linkCore k).spill = [] ∧ (s.linkCore k).events.length < 512) →
    let told (kind : Nat) (t : State) : Prop := t.mem = s.mem ∧ ∀ k, k < 4 → ∃ e, (t.linkCore k).events = (s.linkCore k).events ++ [e] ∧
      e.w0 = BitVec.ofNat 32 (kind * 2 ^ 24 + 2 ^ 23) ∧ e.w2 = BitVec.ofNat 32 port
    (port ∉ s.down → exec (.linkup port) s = .next s ∧ ∃ t, exec (.pathfail port) s = .next t ∧ port ∈ t.down ∧ told 9 t) ∧
    (port ∈ s.down → exec (.pathfail port) s = .next s) ∧
    (port ∈ s.down → s.root.power = true → 2 ≤ s.root.stage.toNat → ∃ t, exec (.linkup port) s = .next t ∧ port ∉ t.down ∧ told 15 t) ∧
    (s.root.power = false ∨ s.root.stage.toNat < 2 → exec (.linkup port) s = .next s)) ∧
  (∀ (k i : Nat) (x : Pdc) (s : State), s.pdc? k i = some x → (s.linkCore k).spill = [] → (s.linkCore k).events.length < 512 →
    (x.timer = none → exec (.lcTimerExpiry k i) s = .next s) ∧
    (x.timer ≠ none → ∃ t y e, exec (.lcTimerExpiry k i) s = .next t ∧ t.pdc? k i = some y ∧ y = { x with timer := none } ∧
      (t.linkCore k).events = (s.linkCore k).events ++ [e] ∧ e.w0 = BitVec.ofNat 32 (8 * 2 ^ 24 + i) ∧ t.mem = s.mem))

/-- Packet delivery (R331, R369, R372, R385 to R388, R393 to R395). That jobs go before waiting packets is the model's (log entry 69). -/
def Obligations.PacketDelivery : Prop :=
  Claims.ContextsOpenAndClose ∧ Claims.PacketsLeaveInOrder ∧ Claims.AcknowledgementsAndNaks ∧
  Claims.TransportFaultsEndTheirJob ∧ Claims.PortsTimersAndAutomaticAcknowledgements

/-- R362, R363, R365, R369, R371, R386, Table 16-5: a remote request at its target. A closed context drops it, and one that finds no room for a
context is not ready; the first check that fails rejects it; a write and an atomic are performed at the home of their bytes and received; a
read is answered with the bytes; an atomic is answered with the old value and executed once, its result kept; sends are rejected. Read-only
fields of the queue table keep their values (R10; the model's, log entry 106); that an index past all contexts names a packet without one (log
entry 69), the rights of a request (log entry 72) and that a send is refused with a NAK without a reason (log entry 72) are the model's. Stated for
a peer that is another device. -/
def Sys2Proof.Claims.RemoteRequestsAtTheirTarget : Prop :=
  ∀ (r : RmaReq) (s : State),
    let all := [Instr.rmaWriteRequest r, .rmaReadRequest r, .rmaAtomicRequest r, .incomingSend r]
    (s.openPdc? true r.k r.i = none → r.i < 4095 ∨ s.roomFor r.k = true → ∀ i ∈ all, exec i s = .next s) ∧
    (4095 ≤ r.i → s.roomFor r.k = false → ∀ i ∈ all, ∃ t, exec i s = .next t ∧ t.mem = s.mem ∧ t.cores = s.cores ∧
      t.wire = s.wire ++ [{ peer := r.src, port := none, k := r.k, i := r.i, psn := r.psn, body := .nak r.psn .notReady }]) ∧
    (∀ x, s.openPdc? true r.k r.i = some x → r.auth = true → x.seenPsn r.psn = false → x.key.mode ≠ 1#2 ∨ r.psn = x.word 1 →
      x.key.peer ≠ Config.devRank →
      let nak (reason : Option Nat) (t : State) : Prop := t.mem = s.mem ∧ t.cores = s.cores ∧
        t.wire = s.wire ++ [{ peer := x.key.peer, port := none, k := r.k, i := r.i, psn := r.psn, body := .nak r.psn (.reject reason) }]
      (∃ t, exec (.incomingSend r) s = .next t ∧ nak none t) ∧
      (∀ n, s.regionBad r 1 = some n → ∃ t, exec (.rmaWriteRequest r) s = .next t ∧ nak (some n) t) ∧
      (∀ n, s.regionBad r 0 = some n → ∃ t, exec (.rmaReadRequest r) s = .next t ∧ nak (some n) t) ∧
      (∀ n, s.regionBad r 2 = some n → ∃ t, exec (.rmaAtomicRequest r) s = .next t ∧ nak (some n) t) ∧
      (s.regionBad r 1 = none → s.regionPort r needW = none →
        ∃ t y, exec (.rmaWriteRequest r) s = .next t ∧ t.mem = ((List.range r.len).foldl (fun (a : State) b =>
            match s.regionKey r needW b with
            | some k => a.storeBy k 1 (r.data.getD b 0#8).toNat
            | none => a) s).mem ∧
          t.openPdc? true r.k r.i = some y ∧ (x.got = [] → r.psn = x.word 1 → y.word 1 = x.word 1 + 1#32)) ∧
      (s.regionBad r 0 = none → s.regionPort r needR = none → ∃ t, exec (.rmaReadRequest r) s = .next t ∧ t.mem = s.mem ∧
        { peer := x.key.peer, port := none, k := r.k, i := r.i, psn := r.psn, body := .answer r.psn ((List.range r.len).map fun b =>
          match s.regionKey r needR b with | some k => BitVec.ofNat 8 (s.rd k 1) | none => 0#8) } ∈ t.wire) ∧
      (∀ key, s.regionBad r 2 = none → s.keptResults < 4096 → s.regionKey r needRW 0 = some key → r.half = false →
        let op := rmwOf r.op.toNat (BitVec.ofNat 64 (leNat r.data)) r.cmp
        let done := s.atomic ((homeDie key).getD 0) key 8 op.1 op.2.toNat
        ∃ t y, exec (.rmaAtomicRequest r) s = .next t ∧ t.mem = (s.keepFixed done.2 key 8).mem ∧
          t.openPdc? true r.k r.i = some y ∧ (r.psn.toNat, BitVec.ofNat 64 done.1) ∈ y.results))

/-- R377, R378, Table 16-9: a placement packet at its window. One that comes before its arming is not ready, one of another arming is dropped, a
cancelled window rejects it, a field that does not fit rejects it; a chunk of an armed window is written, its bytes go home, and then its bit
is set, once. Stated for a peer that is another device. -/
def Sys2Proof.Claims.PlacementPackets : Prop :=
  ∀ (p : PlacePkt) (x : Pdc) (s : State), s.openPdc? true p.k p.i = some x → p.auth = true → x.seenPsn p.psn = false →
    x.key.mode ≠ 1#2 ∨ p.psn = x.word 1 → x.key.peer ≠ Config.devRank →
    let w := s.window p.win.toNat
    let nak (why : NakWhy) (t : State) : Prop := t.mem = s.mem ∧ t.windows = s.windows ∧
      t.wire = s.wire ++ [{ peer := x.key.peer, port := none, k := p.k, i := p.i, psn := p.psn, body := .nak p.psn why }]
    (p.arm = w.arm + 1#16 → w.st ≠ .armed → ∃ t, exec (.placementPacket p) s = .next t ∧ nak .notReady t) ∧
    (p.arm ≠ w.arm → (p.arm ≠ w.arm + 1#16 ∨ w.st = .armed) → ∃ t, exec (.placementPacket p) s = .next t ∧ t.mem = s.mem ∧ t.windows = s.windows) ∧
    (p.arm = w.arm → w.st = .cancelled ∨ w.st = .idle → ∃ t, exec (.placementPacket p) s = .next t ∧ nak (.reject (some 7)) t) ∧
    (∀ n, p.arm = w.arm → w.st = .armed → placeReason w.ps p = some n → ∃ t, exec (.placementPacket p) s = .next t ∧ nak (.reject (some n)) t) ∧
    (p.arm = w.arm → w.st = .armed → placeReason w.ps p = none →
      let g := armGrid w.ps
      let n := linearOf g.chunks p.coord
      (w.got.testBit n = true → ∃ t, exec (.placementPacket p) s = .next t ∧ t.mem = s.mem ∧ t.windows = s.windows) ∧
      (∀ slot j base, w.got.testBit n = false → s.jobOf? w.core w.ord = some (slot, j, false) → j.st = .running → xBase w.ps = some base →
        s.chunkFault w.core false needW ((g.bytesOf base p.coord p.data).map Prod.fst) = none →
        (g.chunksOf (g.tileOf p.coord)).all (fun m => m = n || w.got.testBit m) = false →
        ∃ t, exec (.placementPacket p) s = .next t ∧ (t.window p.win.toNat).got = w.got ||| 2 ^ n ∧ t.mem =
          (((s.sendChunk w.core false (g.bytesOf base p.coord p.data)).setBit w.core false (fld (w.ps.getD 10 0#64) 0 22) n).mem)))

/-- Requests at their target (R362, R363, R365, R369, R371, Table 16-5) and placement (R377, R378, Table 16-9). That read-only queue fields keep their values under a remote write is the model's (log entry 106), and so are that a refused send has no reason (log entry 72) and what an index past all contexts means (log entry 69). -/
def Obligations.RequestsAtTheTarget : Prop :=
  Claims.RemoteRequestsAtTheirTarget ∧ Claims.PlacementPackets

/-- R403, R404, R405, R412: a collective's packet. Its running job takes the elements of a packet whose fields agree with its own, and the packet is
received; fields that differ end the job with EMISMATCH, CODE 3 and the sender in RANK, and that packet and later ones of the collective are
rejected; a packet of a refused collective is dropped; one whose job has yet to come or to start, or is parked, is not ready, as is one for a
victim that cannot take it; one whose collective has ended is received again. The tie of a packet to its job, and its comparison by digest, are the
model's (log entries 66 and 77). Stated for a peer that is another device. -/
def Sys2Proof.Claims.CollectivePacketsMeetTheirJob : Prop :=
  ∀ (p : CollPkt) (x : Pdc) (s : State), s.openPdc? true p.k p.i = some x → p.auth = true → x.seenPsn p.psn = false →
    x.key.mode ≠ 1#2 ∨ p.psn = x.word 1 → x.key.peer ≠ Config.devRank →
    let q := { p with src := x.key.peer }
    let name := (collGroup p.launch p.hdr, p.num)
    let nakked (why : NakWhy) (t : State) : Prop :=
      t.wire = s.wire ++ [{ peer := x.key.peer, port := none, k := p.k, i := p.i, psn := p.psn, body := .nak p.psn why }]
    let nak (why : NakWhy) (t : State) : Prop := t.cores = s.cores ∧ t.mem = s.mem ∧ nakked why t
    let received (t : State) : Prop := t.mem = s.mem ∧ ∃ y, t.openPdc? true p.k p.i = some y ∧
      (x.got = [] → p.psn = x.word 1 → y.word 1 = x.word 1 + 1#32)
    (name ∈ s.collMute → exec (.collectivePacket p) s = .next s) ∧
    (name ∉ s.collMute → name ∈ s.collBad → ∃ t, exec (.collectivePacket p) s = .next t ∧ nak (.reject none) t) ∧
    (name ∉ s.collMute → name ∉ s.collBad →
      (∀ c slot j k, s.collJob q = some (c, slot, j, k) → s.job? c slot = some j → j.coll = some k →
        (j.st ≠ .running → ∃ t, exec (.collectivePacket p) s = .next t ∧ nak .notReady t) ∧
        (j.st = .running → j.made ≠ 0 → p.hdr.compared = k.hdr.compared →
          let k1 := { k with data := k.data ++ [(k.ranks.findIdx (· = x.key.peer), p.off, p.elems)], sk := k.sk ||| p.sk }
          (k.placed = true ∨ k1.lacks.isSome = true) → ∃ t, exec (.collectivePacket p) s = .next t ∧
            t.job? c slot = some { j with coll := some k1 } ∧ received t) ∧
        (j.st = .running → p.hdr.compared ≠ k.hdr.compared → tabSorted (s.eng c).jobs = true → slot < 64 → j.kind = .xcoll →
          (∀ e ∈ (s.eng c).jobs, ∀ g ∈ e.2.edges, g.ord ≠ j.ord) → j.status = none →
          ∃ t, exec (.collectivePacket p) s = .next t ∧ t.job? c slot = none ∧ (t.eng c).unrep.getLsbD slot = true ∧
            name ∈ t.collBad ∧ nakked (.reject none) t ∧
            (∀ a, j.p 10 ≠ 0#64 → j.p 8 = 0#64 → (s.collSpoil c j).syncKey? c (j.p 10) = some a → Memory.wf s.mem = true →
              t.rd a 8 = x.key.peer.toNat * 2 ^ 52 + 3))) ∧
      (s.collJob q = none → s.collVictim q = none →
        (s.collPast q = false → ∃ t, exec (.collectivePacket p) s = .next t ∧ nak .notReady t) ∧
        (s.collPast q = true → ∃ t, exec (.collectivePacket p) s = .next t ∧ t.cores = s.cores ∧ received t)) ∧
      (∀ c slot j k, s.collJob q = none → s.collVictim q = some (c, slot, j, k) → j.victimTakes k q = false →
        ∃ t, exec (.collectivePacket p) s = .next t ∧ nak .notReady t))

/-- R402, R405, R412: a collective whose result is written and whose packets are all acknowledged ends with CODE 1 and releases what waits for it; one
whose time runs out while data are missing ends with EUNREACH, CODE 3, and the lowest member that still lacks in RANK; one whose packet a peer
rejects ends with EPEER and that peer. What RECV then holds is free (log entries 7 and 77). -/
def Sys2Proof.Claims.CollectivesEnd : Prop :=
  ∀ (c slot : Nat) (j : Job) (k : Coll) (s : State), s.job? c slot = some j → j.coll = some k → tabSorted (s.eng c).jobs = true →
    slot < 64 → j.kind = .xcoll → j.st = .running → j.made ≠ 0 → j.status = none → j.p 8 = 0#64 →
    let wrote (u : State) (x : Nat) (t : State) : Prop :=
      ∀ a, j.p 10 ≠ 0#64 → u.syncKey? c (j.p 10) = some a → Memory.wf s.mem = true → t.rd a 8 = x
    let failed (t : State) : Prop := t.job? c slot = none ∧ (t.eng c).unrep.getLsbD slot = true
    (k.placed = true → k.allAcked = true →
      (∃ t, exec (.collectiveDone c slot) s = .next t ∧ t.job? c slot = none ∧ wrote s (j.fl.toNat % 64 * 2 ^ 8 + 1) t ∧
        (t.eng c).unrep = (s.eng c).unrep ∧ (∀ n i, n ≠ slot → s.job? c n = some i →
          t.job? c n = some { i with edges := i.edges.filter fun g => g.ord ≠ j.ord }))) ∧
    (k.placed = true → k.allAcked = false → exec (.collectiveDone c slot) s = .next s) ∧
    (k.lacks = none → exec (.collectiveTimeout c slot) s = .next s) ∧
    ((∀ e ∈ (s.eng c).jobs, ∀ x ∈ e.2.edges, x.ord ≠ j.ord) →
      (∀ g, k.lacks = some g → ∃ t, exec (.collectiveTimeout c slot) s = .next t ∧ failed t ∧
        wrote (s.collSpoil c j) ((k.ranks.getD g 0#12).toNat * 2 ^ 52 + 2) t) ∧
      (∀ l i psn reason x p, s.openPdc? false l i = some x → x.pkts.find? (fun p => p.psn = psn && !p.acked) = some p → p.core = c →
        p.ord = j.ord → (∀ e ∈ (s.eng c).jobs, e.2.ord = j.ord → e.1 = slot) → (s.linkCore l).spill = [] → (s.linkCore l).events.length < 512 →
        ∃ t, exec (.rejectingNakReceived l i psn reason) s = .next t ∧ failed t ∧
          wrote (s.collSpoil c j) (x.key.peer.toNat * 2 ^ 52 + 5) t))

/-- R409: what the data-moving collectives write: ALLGATHER the members' elements in member order, BROADCAST the root's, ALLTOALL the part of each
member that is this member's; their elements are moved unchanged. -/
def Sys2Proof.Claims.DataCollectivesMoveElements : Prop :=
  ∀ (k : Coll) (ix : Nat), 0 < k.count →
    (k.hdr.op = 3#8 → k.result ix = (((k.elem? (ix / k.count) (ix % k.count)).getD 0#64).toNat, 0#7)) ∧
    (k.hdr.op = 4#8 → k.result ix = (((k.elem? k.hdr.root.toNat ix).getD 0#64).toNat, 0#7)) ∧
    (k.hdr.op = 5#8 → k.result ix = (((k.elem? (ix / k.count) (k.self * k.count + ix % k.count)).getD 0#64).toNat, 0#7)) ∧
    (∀ g h off xs, k.hdr.op ∈ [1#8, 3#8, 6#8, 7#8] → k.part g h = (0, k.count) ∧
      ({ k with data := [(g, off, xs)] } : Coll).elem? g (off + h) = xs[h]?)

/-- Collective jobs (R402, R404, R405, R409, R412). The tie of a packet to its job (log entries 66 and 77) and what RECV holds after a failure (log entry 7) are the model's. -/
def Obligations.CollectiveJobs : Prop :=
  Claims.CollectivePacketsMeetTheirJob ∧ Claims.CollectivesEnd ∧ Claims.DataCollectivesMoveElements

/-- R407: a ring of n positions reduces one block to position b by folding the members' operands from position b + 1 on, in ring order, position b
last: the value is the left fold of the operation over those positions. -/
def Sys2Proof.Claims.RingsFoldInOrder : Prop :=
  ∀ (op : Operand → Operand → Operand) (leaf : List Nat → Operand) (n b : Nat), 0 < n →
    (ringValue op leaf [(0, n, b)] [0]) =
      ((List.range (n - 1)).map fun t => leaf [(b + (t + 2)) % n]).foldl op (leaf [(b + 1) % n])

/-- R413: the bits of an element's index are permuted: the source of index J has at bit k the bit of J that PERMTAB names, so that no two
elements of the destination have one source and each lies within the index space. -/
def Sys2Proof.Claims.PermutationsPlaceEachElementOnce : Prop :=
  ∀ (tab : List Nat) (n : Nat), permOk tab n = true → n ≤ tab.length →
    (∀ j k, k < n → (permSource tab n j).testBit k = j.testBit (tab.getD k 0)) ∧
    (∀ j, permSource tab n j < 2 ^ n) ∧
    (∀ i j, i < 2 ^ n → j < 2 ^ n → permSource tab n i = permSource tab n j → i = j)

/-- Ring order (R407) and bit permutations (R413). -/
def Obligations.RingAndPermutationOrder : Prop :=
  Claims.RingsFoldInOrder ∧ Claims.PermutationsPlaceEachElementOnce

/-- R419, R420, Table 20-1: a queue enabled with a ring of a power of two between 2^8 and 2^20 bytes, aligned to its size, runs from byte 0; with any other it
stops with CODE 70. Disabled it is idle, once a packet that has started is completed; one that has not is given up (log entry 81). A 1 in REL
lets a held queue run on. The queue processor leaves a queue it does not serve alone. -/
def Sys2Proof.Claims.QueuesAreEnabledAndReleased : Prop :=
  ∀ (q : Nat) (s : State),
    let x := s.cmdq q
    (s.served q = false → ∀ i ∈ [Instr.queueSlot q, .queueEnable q, .queueDisable q, .queueRelease q, .logRoomResume q], exec i s = .next s) ∧
    (s.served q = true →
      ((s.qEnt q 8).getLsbD 63 = true → x.on = false →
        let size := fld (s.qEnt q 8) 0 5
        let base := fld (s.qEnt q 0) 0 52
        ∃ t, exec (.queueEnable q) s = .next t ∧ (t.cmdq q).on = true ∧ (t.cmdq q).hand = none ∧
          (8 ≤ size → size ≤ 20 → base % 2 ^ size = 0 → (t.cmdq q).st = 1#2 ∧ (t.cmdq q).head = 0 ∧
            (t.cmdq q).strs = [{ base := base, size := 2 ^ size, pos := 0, buf := [], body := none, skip := 0 }]) ∧
          (size < 8 ∨ 20 < size ∨ base % 2 ^ size ≠ 0 → (t.cmdq q).st = 2#2 ∧ (t.cmdq q).strs = [])) ∧
      ((s.qEnt q 8).getLsbD 63 = false → x.on = true →
        ((∀ h, x.hand = some h → h.phase = .started → h.ws = [0x100#64]) →
          ∃ t, exec (.queueDisable q) s = .next t ∧ (t.cmdq q).on = false ∧ (t.cmdq q).st = 0#2 ∧ (t.cmdq q).strs = [] ∧
            (t.cmdq q).hand = none ∧ (t.cmdq q).back = x.back) ∧
        (∀ h p y, x.hand = some h → h.phase = .started → decodePacket h.ws = some (.waitmem false p) → p.cond.toNat < 6 →
          ({ s with qturn := q } : State).qRead? p.a (if p.w64 then 8 else 4) = some y → WaitPkt.holds p y = false →
          ∃ t, exec (.queueDisable q) s = .next t ∧ t.cmdq q = x ∧ t.mem = s.mem)) ∧
      ((s.qEnt q 8).getLsbD 63 = true → x.on = true →
        exec (.queueEnable q) s = .next s ∧ exec (.queueDisable q) s = .next s ∧
        ((s.qEnt q 0x20).getLsbD 61 = false → exec (.queueRelease q) s = .next s) ∧
        ((s.qEnt q 0x20).getLsbD 61 = true → ∃ t, exec (.queueRelease q) s = .next t ∧
          (t.cmdq q).st = (if x.st = 3#2 then 1#2 else x.st) ∧ (t.cmdq q).strs = x.strs)))

/-- R421, R422, R419: a slot of a running queue reads TAIL; one that lies off a doubleword or further than the ring is long stops the queue; a
packet between HEAD and TAIL starts, HEAD moves past it, and the queue runs on. Stated for a NOP at the end of a ring that records nothing. -/
def Sys2Proof.Claims.SlotsServeTheRing : Prop :=
  ∀ (q : Nat) (r : Stream) (s : State),
    let x := s.cmdq q
    let tail := (s.qEnt q 0x10).toNat
    s.served q = true → (s.qEnt q 8).getLsbD 63 = true → (s.qEnt q 8).getLsbD 61 = false → (s.qEnt q 0x20).getLsbD 61 = false →
    x.on = true → x.st = 1#2 →
    (tail % 8 ≠ 0 → ∃ t, exec (.queueSlot q) s = .next t ∧ (t.cmdq q).st = 2#2 ∧ (t.cmdq q).strs = []) ∧
    (s.eager = true → x.back = [] → x.owed = [] → x.bad = none → x.hand = none → x.strs = [r] → r.body = none → r.skip = 0 → r.buf = [] →
      x.head = r.pos → 2 ^ fld (s.qEnt q 8) 0 5 = r.size → 8 ≤ r.size →
      tail % 8 = 0 → (tail = r.pos → ∃ t, exec (.queueSlot q) s = .next t ∧ (t.cmdq q).st = 1#2 ∧ (t.cmdq q).head = x.head ∧ (t.cmdq q).hand = none ∧
        t.mem = s.mem) ∧
      (tail = r.pos + 8 → s.qRead? (BitVec.ofNat 64 (r.base + r.pos % r.size)) 8 = some 0x100 →
        ∃ t, exec (.queueSlot q) s = .next t ∧ (t.cmdq q).st = 1#2 ∧ (t.cmdq q).head = r.pos + 8 ∧ (t.cmdq q).hand = none ∧
          (t.cmdq q).strs = [{ r with pos := r.pos + 8 }] ∧ (t.cmdq q).seq = x.seq + 1#32 ∧ t.mem = (s.qEntPut q 0x18 (r.pos + 8)).mem))

/-- R428, R350: the timeout of a WAITMEM that waits stops its queue; nothing else that waits has one. A packet that waited for room in the log starts
once there is room. -/
def Sys2Proof.Claims.QueueWaitsEnd : Prop :=
  (∀ (q : Nat) (s : State), (s.cmdq q).hand = none → exec (.waitmemTimeout q) s = .next s) ∧
  (∀ (q : Nat) (h : InHand) (s : State), (s.cmdq q).hand = some h → h.phase = .started →
    let w0 := h.ws.getD 0 0#64
    (fld w0 0 8 = 5 → w0.getLsbD 21 = false → fld (h.ws.getD 4 0#64) 0 48 ≠ 0 →
      ∃ t, exec (.waitmemTimeout q) s = .next t ∧ (t.cmdq q).st = 2#2 ∧ (t.cmdq q).hand = none ∧ (t.cmdq q).strs = []) ∧
    (fld w0 0 8 ≠ 5 ∨ w0.getLsbD 21 = true ∨ fld (h.ws.getD 4 0#64) 0 48 = 0 → exec (.waitmemTimeout q) s = .next s)) ∧
  (∀ (q : Nat) (h : InHand) (st : Stream) (s : State), s.served q = true → (s.cmdq q).gap = false → (s.cmdq q).owed = [] →
    (s.cmdq q).back = [] → (s.cmdq q).hand = some h → h.phase = .logWait → h.ws = [0x100#64] → s.recording q = false → (s.cmdq q).strs = [st] → st.body = none →
    ∃ t, exec (.logRoomResume q) s = .next t ∧ (t.cmdq q).hand = none ∧ (t.cmdq q).strs = [{ st with pos := st.pos + 8 }] ∧
      (t.cmdq q).seq = (s.cmdq q).seq + 1#32)

/-- Command queues (R419 to R422, R428, R350, Table 20-1). That a disable gives up a packet that has not started is the model's (log entry 81). -/
def Obligations.CommandQueues : Prop :=
  Claims.QueuesAreEnabledAndReleased ∧ Claims.SlotsServeTheRing ∧ Claims.QueueWaitsEnd

/-- R422, R423, R428, R430: the effects of the packets that write, wait or mark, on the queue whose slot it is; and a packet with SYNC does not start
while a LAUNCH or a COPY of its queue is incomplete (a REPLAYMARK waits so always). -/
def Sys2Proof.Claims.PacketsHaveTheirEffects : Prop :=
  ∀ (sync : Bool) (s : State),
    let q := s.qturn
    let x := s.cmdq q
    ((x.back ≠ [] → ∀ b u a v n p k c m,
      (∀ i ∈ [Instr.pktNop true b u, .write32 true u a, .write64 true a v, .signal true a v, .signalPhaser true a v, .pktCopy true a v n,
        .waitmem true p, .waitmemSkip true k p, .ib true a v, .ffence true, .pktLoop true k c, .launch true a v, .launchPre true a v, .replaymark sync m,
        .replaymarkHold sync m], exec i s = .next s)) ∧
    (∀ h, x.hand = some h → h.phase = .started → (sync = false ∨ x.back = []) →
      let done (t : State) : Prop := (t.cmdq q).hand = none ∧ (t.cmdq q).st = x.st ∧ (t.cmdq q).strs = x.strs ∧ (t.cmdq q).back = x.back
      let stops (t : State) : Prop := (t.cmdq q).hand = none ∧ (t.cmdq q).st = 2#2 ∧ (t.cmdq q).strs = []
      (∀ b u, ∃ t, exec (.pktNop sync b u) s = .next t ∧ done t ∧ t.mem = s.mem ∧ t.cores = s.cores) ∧
      (∀ u a, (∀ k, s.qMeet needW a = .key k → ∃ t, exec (.write32 sync u a) s = .next t ∧ done t ∧ t.mem = (s.storeBy k 4 u.toNat).mem) ∧
        (∀ cause y, s.qMeet needW a = .fault cause y → ∃ t, exec (.write32 sync u a) s = .next t ∧ stops t)) ∧
      (∀ a v, (∀ k, s.qMeet needW a = .key k → ∃ t, exec (.write64 sync a v) s = .next t ∧ done t ∧ t.mem = (s.storeBy k 8 v.toNat).mem) ∧
        (∀ cause y, s.qMeet needW a = .fault cause y → ∃ t, exec (.write64 sync a v) s = .next t ∧ stops t)) ∧
      (∀ a v k, a.toNat % 8 = 0 → s.signalMeet a = .key k →
        ∃ t, exec (.signal sync a v) s = .next t ∧ done t ∧ t.mem = (s.storeBy k 8 v.toNat).mem) ∧
      (∀ a v (ks : Nat → Nat), a.toNat % 8 ≠ 0 → (∀ i < 8, s.signalMeet (a + BitVec.ofNat 64 i) = .key (ks i)) →
        ∃ t, exec (.signal sync a v) s = .next t ∧ done t ∧
          t.mem = ((List.range 8).foldl (fun u i => u.storeBy (ks i) 1 (v.toNat / 256 ^ i % 256)) s).mem) ∧
      (∀ a v k, a.toNat % 16 = 0 → a.toNat < 2 ^ 52 → inWindow a.toNat = true → s.device 0 true none needRW false a = .ok (.mem k) →
        ∃ t, exec (.signalPhaser sync a v) s = .next t ∧ done t ∧ t.mem = (s.signal k (fld v 0 48)).mem) ∧
      (∀ a v, a.toNat % 16 ≠ 0 ∨ inWindow a.toNat = false → ∃ t, exec (.signalPhaser sync a v) s = .next t ∧ stops t) ∧
      (∀ p y, p.cond.toNat < 6 → s.qRead? p.a (if p.w64 then 8 else 4) = some y →
        (WaitPkt.holds p y = false → exec (.waitmem sync p) s = .next s) ∧
        (WaitPkt.holds p y = true → ∃ t, exec (.waitmem sync p) s = .next t ∧ done t ∧ t.mem = s.mem) ∧
        (∀ k, WaitPkt.holds p y = true → ∃ t, exec (.waitmemSkip sync k p) s = .next t ∧ done t ∧ t.mem = s.mem) ∧
        (∀ k st up, WaitPkt.holds p y = false → x.strs = st :: up → st.body = none → ∃ t, exec (.waitmemSkip sync k p) s = .next t ∧
          (t.cmdq q).hand = none ∧ (t.cmdq q).strs = { st with skip := k.toNat } :: up ∧ t.mem = s.mem)) ∧
      (∀ st up, x.strs = st :: up → ∃ t, exec (.ffence sync) s = .next t ∧ (t.cmdq q).hand = none ∧
        (t.cmdq q).strs = { st with buf := [] } :: up ∧ t.mem = s.mem) ∧
      (x.back = [] → ∀ m, (∃ t, exec (.replaymark sync m) s = .next t ∧ done t ∧
          (∀ k, Memory.wf s.mem = true → s.qMeet needW (s.qField q 0x38) = .key k → t.rd k 8 = m.toNat)) ∧
        (∃ t, exec (.replaymarkHold sync m) s = .next t ∧ (t.cmdq q).hand = none ∧ (t.cmdq q).st = 3#2 ∧ (t.cmdq q).strs = x.strs))))

/-- R423, R424, R426, R427: the packets whose work outlasts them or that open streams: a COPY joins the queue's background work and moves its bytes when
it is done; a LAUNCH starts its launch or writes its completion word with the code that refuses it; an IB opens a stream, up to three deep; a LOOP
takes its body. -/
def Sys2Proof.Claims.PacketsThatStartWork : Prop :=
  (∀ (sync : Bool) (h : InHand) (s : State),
    let q := s.qturn
    let x := s.cmdq q
    x.hand = some h → h.phase = .started → (sync = false ∨ x.back = []) →
    (∀ src dst len, ∃ t, exec (.pktCopy sync src dst len) s = .next t ∧ (t.cmdq q).hand = none ∧
      (t.cmdq q).back = x.back ++ [.copy src dst len.toNat h.addr] ∧ t.mem = s.mem) ∧
    (∀ a len, (x.strs ≠ [] → x.strs.length < 3 → ∃ t, exec (.ib sync a len) s = .next t ∧ (t.cmdq q).hand = none ∧ t.mem = s.mem ∧ (t.cmdq q).strs =
        { base := a.toNat, size := len.toNat, pos := 0, buf := [], body := none, skip := 0 } :: x.strs) ∧
      (3 ≤ x.strs.length → ∃ t, exec (.ib sync a len) s = .next t ∧ (t.cmdq q).st = 2#2 ∧ (t.cmdq q).strs = [])) ∧
    (∀ n count st up pkts, x.strs = st :: up →
      s.capture st up.isEmpty (if up.isEmpty then x.tail else st.size) (st.pos + 8) h.addr n.toNat (st.pos + 8) = .ok pkts →
      ∃ t, exec (.pktLoop sync n count) s = .next t ∧ (t.cmdq q).hand = none ∧ t.mem = s.mem ∧
        (t.cmdq q).strs = { st with body := some { pkts := pkts, ix := 0, left := count.toNat, first := true } } :: up) ∧
    (∀ sv cw xs, (List.range 8).mapM (fun i => s.qRead? (sv + BitVec.ofNat 64 (8 * i)) 8) = some xs →
      let ws := xs.map (BitVec.ofNat 64)
      let launches (pre : Bool) (i : Instr) : Prop :=
        let l := Launch.ofVector ws false pre cw
        (∀ code k, (if pre && !(s.qEnt q 8).getLsbD 62 then some 37 else s.launchBad ws l) = some code → code < 2 ^ 32 → cw ≠ 0#64 →
          s.qMeet needW cw = .key k → s.fixed k 8 = false → Memory.wf s.mem = true →
          ∃ t, exec i s = .next t ∧ (t.cmdq q).hand = none ∧ t.launches = s.launches ∧ t.rd k 8 = l.id.toNat * 2 ^ 32 + code) ∧
        ((pre = true → (s.qEnt q 8).getLsbD 62 = true) → s.launchBad ws l = none →
          ∃ t m, exec i s = .next t ∧ (t.cmdq q).hand = none ∧ t.nextLaunch = s.nextLaunch + 1 ∧
            (t.cmdq q).back = x.back ++ [.launch s.nextLaunch (x.seq - 1#32) h.addr] ∧ t.launch? (some s.nextLaunch) = some m ∧
            m.id = l.id ∧ m.root = l.root ∧ m.entries = l.entries ∧ m.done = cw ∧ m.pre = pre)
      launches false (.launch sync sv cw) ∧ launches true (.launchPre sync sv cw))) ∧
  (∀ (q ix : Nat) (src dst pkt : Word) (len : Nat) (s : State), (s.cmdq q).back[ix]? = some (.copy src dst len pkt) →
    ∃ t, exec (.pktCopyDone q ix) s = .next t ∧ (t.cmdq q).back = (s.cmdq q).back.eraseIdx ix ∧
      t.mem = (s.copyRun src dst len [] len).1.mem ∧ ((s.copyRun src dst len [] len).2 = true → (t.cmdq q).bad = some pkt)) ∧
  (∀ (src dst : Word) (len n ks kd : Nat) (ports : List Nat) (s : State), n < len → copyTangled src.toNat dst.toNat len (len - (n + 1)) = false →
    s.qMeet needR (src + BitVec.ofNat 64 (len - (n + 1))) = .key ks → s.qMeet needW (dst + BitVec.ofNat 64 (len - (n + 1))) = .key kd →
    s.copyRun src dst len ports (n + 1) = (s.storeBy kd 1 (s.rd ks 1)).copyRun src dst len ports n)

/-- Packets (R422 to R430). -/
def Obligations.QueuePackets : Prop :=
  Claims.PacketsHaveTheirEffects ∧ Claims.PacketsThatStartWork

/-- R431 to R433, R438, Table 21-3: power-good starts stage 0 with the device as reset leaves it but for the image slot and the reports given. A stage that succeeds
is followed by the next: stage 1 takes the image that stood in the slot as the sequence began, stage 2 loads it (FAIL 4 where a supervisor launch of it does not
start, log entry 87), and stage 3 sets DOMEMASK and the capability block and releases the device. A stage that fails leaves its code and goes no further. What power-good,
reset and shutdown clear, memory and keys among it, is log entry 86. -/
def Sys2Proof.Claims.TheDeviceStartsInStages : Prop :=
  ∀ (s : State),
    let cold (on : Bool) (t : State) : Prop := t.root.power = on ∧ t.root.stage = 0#4 ∧ t.root.fail = 0#8 ∧ t.root.image = none ∧
      t.root.released = false ∧ t.root.slot = s.root.slot ∧ t.root.boot = s.root.slot ∧ t.root.reports = s.root.reports ∧ t.root.keys = [] ∧ t.cores = [] ∧ t.domes = [] ∧
      t.dies = [] ∧ t.launches = [] ∧ t.links = [] ∧ t.pdcs = [] ∧ t.windows = [] ∧ t.queues = [] ∧ t.mem = []
    (s.root.power = true → exec .powerGood s = .next s) ∧
    (s.root.power = false → (∃ t, exec .powerGood s = .next t ∧ cold true t) ∧ exec .deviceReset s = .next s) ∧
    (s.root.power = true → ∃ t, exec .deviceReset s = .next t ∧ cold true t) ∧
    (∃ t, exec .thermalShutdown s = .next t ∧ cold false t) ∧
    (s.root.power = false ∨ s.root.fail ≠ 0#8 ∨ s.root.released = true → ∀ r, exec (.bootStageAdvance r) s = .next s) ∧
    (s.root.power = true → s.root.fail = 0#8 → s.root.released = false →
      (s.root.stage = 0#4 →
        (∀ m, exec (.bootStageAdvance (.ok m)) s = .next { s with root := { s.root with stage := 1#4 } }) ∧
        (∀ e, ∃ t, exec (.bootStageAdvance (.fail e)) s = .next t ∧ cold false t)) ∧
      (s.root.stage = 1#4 →
        (∀ m f, s.root.boot = some f →
          exec (.bootStageAdvance (.ok m)) s = .next { s with root := { s.root with stage := 2#4, image := some f } }) ∧
        (∀ m, s.root.boot = none → exec (.bootStageAdvance (.ok m)) s = .next { s with root := { s.root with fail := 1#8 } }) ∧
        (∀ e, exec (.bootStageAdvance (.fail e)) s = .next { s with root := { s.root with fail := 1#8 } })) ∧
      (s.root.stage = 2#4 →
        (∀ f, f.sups = [] → (s.loadImage f).isSome = true) ∧
        (∀ m f, s.root.image = some f → s.loadImage f = none →
          exec (.bootStageAdvance (.ok m)) s = .next { s with root := { s.root with fail := 4#8 } }) ∧
        (∀ m f, s.root.image = some f → (s.loadImage f).isSome = true → ∃ t, exec (.bootStageAdvance (.ok m)) s = .next t ∧ t.root.stage = 3#4 ∧ t.root.image = some f ∧
          (∀ d, d < 8 → (t.die d).ttRoot = f.ttroot &&& ~~~0xFFFF#52) ∧
          (∀ k, k < 4 → (t.linkCore k).pc = 0#18 ∧ (t.linkCore k).state = 0#2 ∧ (t.linkCore k).mem = s.root.linkImage k)) ∧
        (∀ e, 2 ≤ e.toNat → e.toNat ≤ 4 → exec (.bootStageAdvance (.fail e)) s = .next { s with root := { s.root with fail := e } })) ∧
      (s.root.stage = 3#4 → Memory.wf s.mem = true →
        ∀ m, ∃ t, exec (.bootStageAdvance (.ok m)) s = .next t ∧ t.root.released = true ∧ t.root.failed = m ||| s.root.failed ∧
          t.domeMask = ~~~(m ||| s.root.failed) ∧ t.rd 0 8 = 0x10000 ∧ t.rd 0x100 8 = 0 ∧ t.rd 8 8 = Config.devRank.toNat ∧
          t.rd 0x10 8 = t.domeMask.toNat % 2 ^ 64 ∧ t.rd 0x18 8 = t.domeMask.toNat / 2 ^ 64 ∧ t.rd 0x20 8 = s.root.regtab % 2 ^ 64 ∧ t.rd 0x28 8 = s.root.qtbase % 2 ^ 64))

/-- R432, R434, R435, R436: a new image waits in its slot; a report holds the nonce, the digest of the image that runs, the rank and DOMEMASK, signed (the
signature is a free value); the mailbox puts a key into its slot or empties one, and its bytes are gone (an erase zeroes them too, log entry 88); droop and heat change nothing a program can read. -/
def Sys2Proof.Claims.TheRootControllerServes : Prop :=
  ∀ (s : State),
    (∀ f, s.root.power = true → exec (.reimage f) s = .next { s with root := { s.root with slot := some f } }) ∧
    (∀ n, s.root.image = none → exec (.attestationRequest n) s = .next s) ∧
    (∀ n f, s.root.image = some f → ∃ t r, exec (.attestationRequest n) s = .next t ∧ t.root.reports = s.root.reports ++ [r] ∧ r.nonce = n ∧
      r.image = BitVec.ofNat 256 (leNat (sha256 f.raw)) ∧ r.stat = BitVec.ofNat 64 s.root.bootStat ∧ r.rank = Config.devRank ∧ r.mask = s.domeMask ∧ t.mem = s.mem ∧ t.cores = s.cores) ∧
    (s.root.released = false ∨ s.mailbox.getLsbD 63 = false → exec .keyMailboxGo s = .next s ∧ exec .keyMailboxErase s = .next s) ∧
    (s.root.released = true → s.mailbox.getLsbD 63 = true → Memory.wf s.mem = true →
      let done (t : State) : Prop := t.rd 0x108 32 = 0 ∧ t.mailbox = s.mailbox &&& 0x7FFFFFFFFFFFFFFF#64
      (s.mailbox.getLsbD 62 = false → exec .keyMailboxErase s = .next s ∧ ∃ t, exec .keyMailboxGo s = .next t ∧ done t ∧
        tabGet? t.root.keys (fld s.mailbox 0 12) = some (BitVec.ofNat 256 (s.rd 0x108 32))) ∧
      (s.mailbox.getLsbD 62 = true → exec .keyMailboxGo s = .next s ∧ ∃ t, exec .keyMailboxErase s = .next t ∧ done t ∧
        (tabSorted s.root.keys = true → tabGet? t.root.keys (fld s.mailbox 0 12) = none))) ∧
    (∀ d, ∃ t u, exec (.droopSag d) s = .next t ∧ t = { s with root := { s.root with sags := t.root.sags } } ∧ (d < 8 → d ∈ t.root.sags) ∧
      exec (.droopEnd d) s = .next u ∧ u = { s with root := { s.root with sags := u.root.sags } } ∧ d ∉ u.root.sags) ∧
    exec .thermalThrottle s = .next { s with root := { s.root with hot := true } } ∧
    exec .thermalRecover s = .next { s with root := { s.root with hot := false } }

/-- Device operation (R431 to R438, Table 21-3). What a reset clears (log entry 86), FAIL 4 for a launch that does not start (log entry 87) and the key bytes of an erase (log entry 88) are the model's. -/
def Obligations.DeviceOperation : Prop :=
  Claims.TheDeviceStartsInStages ∧ Claims.TheRootControllerServes

/-- R317, R318, R319, R325: control space. A record goes to its place in the ring with SEQ, and SQTAIL advances, while there is room. The registers of the die control page
take the values they can hold; images of control registers are written in a stopped core alone. A shootdown is queued with its range, waits
for the accesses that used it, and when it is done no cache of its dies holds an entry that it hits. The one cache of a die (log entry 24) and that a write of a
value out of range changes nothing (log entry 31) are the model's. -/
def Sys2Proof.Claims.ControlSpaceActs : Prop :=
  ∀ (d : Nat) (s : State),
    let x := s.die d
    let page (t : State) (y : Die) : Prop := t = s.setDie d y
    (x.records = [] ∨ (x.sqTail - x.sqHead).toNat = 2 ^ x.sqSize.toNat → exec (.sqRecordWrite d) s = .next s) ∧
    (∀ r rest, x.records = r :: rest → r.words.length = 7 → (x.sqTail - x.sqHead).toNat ≠ 2 ^ x.sqSize.toNat → Memory.wf s.mem = true →
      ∃ t, exec (.sqRecordWrite d) s = .next t ∧ (t.die d).records = rest ∧ (t.die d).sqTail = x.sqTail + 1#32 ∧
        (let k := x.sqBase.toNat + 64 * (x.sqTail.toNat % 2 ^ x.sqSize.toNat)
         (∀ i, i < 7 → t.rd (k + 8 * i) 8 = (r.words.getD i 0#64).toNat) ∧ t.rd (k + 56) 8 = x.sqTail.toNat)) ∧
    (∀ v, (∃ t, exec (.controlSpaceWrite d 0x00 v) s = .next t ∧ page t { x with ttRoot := v.setWidth 52 &&& ~~~0xFFFF#52 }) ∧
      (∃ t, exec (.controlSpaceWrite d 0x08 v) s = .next t ∧ page t { x with sqBase := v.setWidth 40 &&& ~~~0xFFF#40 }) ∧
      (∃ t, exec (.controlSpaceWrite d 0x18 v) s = .next t ∧ page t { x with sqHead := v.setWidth 32 }) ∧
      (∃ t, exec (.controlSpaceWrite d 0x28 v) s = .next t ∧ page t { x with tlbiVa := v.setWidth 52 &&& ~~~0xFFF#52 }) ∧
      (6 ≤ fld v 0 5 → fld v 0 5 ≤ 16 → ∃ t, exec (.controlSpaceWrite d 0x10 v) s = .next t ∧ page t { x with sqSize := v.setWidth 5 }) ∧
      (12 ≤ fld v 0 6 → fld v 0 6 ≤ 52 → ∃ t, exec (.controlSpaceWrite d 0x30 v) s = .next t ∧ page t { x with tlbiSize := v.setWidth 6 }) ∧
      exec (.controlSpaceWrite d 0x20 v) s = .next s ∧ exec (.controlSpaceWrite d 0x40 v) s = .next s) ∧
    (∀ c n v, ((s.core c).run = .stopped → exec (.ccbImageWrite c n v) s = .next (s.setCore c ((s.core c).writeCr n v))) ∧
      ((s.core c).run ∈ [RunState.idle, .running, .newcomer, .halted] → exec (.ccbImageWrite c n v) s = .next s)) ∧
    (∀ v, (v.toNat / 2 ^ 14 ≠ 0 ∨ fld v 0 3 = 0 ∨ 4 < fld v 0 3 ∨ 8 ≤ x.tlbiQ.length → exec (.tlbicmd d v) s = .next s) ∧
      (v.toNat / 2 ^ 14 = 0 → 1 ≤ fld v 0 3 → fld v 0 3 ≤ 4 → x.tlbiQ.length < 8 → ∃ t, exec (.tlbicmd d v) s = .next t ∧
        page t { x with tlbiQ := x.tlbiQ ++ [{ scope := v.setWidth 3, core := v.extractLsb' 3 11, va := x.tlbiVa, size := x.tlbiSize }] })) ∧
    (x.tlbiQ = [] → exec (.tlbiDone d) s = .next s) ∧
    (∀ q rest, x.tlbiQ = q :: rest → (∃ y ∈ s.cores, q.covers d y.1 = true ∧ ∃ a ∈ y.2.outs, s.waitsFor q y.1 a = true) →
      exec (.tlbiDone d) s = .next s) ∧
    (∀ q rest, x.tlbiQ = q :: rest → (∀ y ∈ s.cores, q.covers d y.1 = true → ∀ a ∈ y.2.outs, s.waitsFor q y.1 a = false) → ∃ t, exec (.tlbiDone d) s = .next t ∧ (t.die d).tlbiQ = rest ∧ (t.die d).tlbiDone = x.tlbiDone + 1#32 ∧
      (∀ y ∈ q.dies d, ∀ e, e ∈ (t.die y).tlb ↔ e ∈ (s.die y).tlb ∧ q.hits e = false) ∧ t.mem = s.mem)

/-- R337, R340, R341, R347: trace records. The oldest queued one goes to its ring, whose TAIL an atomic at its home counts; a sample that is owed
is queued at a boundary of a core that executes, and the overflow of a counter queues one record, sets its OVF bit and wraps it. That a miss of L1
or of the micro-TLB comes about by an event of its own is the model's (log entry 92). -/
def Sys2Proof.Claims.TraceRecordsAreWritten : Prop :=
  ∀ (c : Nat) (s : State),
    let x := s.core c
    (x.trace = [] → exec (.traceRecordWrite c) s = .next s) ∧
    (∀ r rest base logn k0 k, x.trace = r :: rest → x.eng.ring = some (base, logn) → x.pmcCfg.getLsbD 61 = true →
      s.ringKey? c needRW base = some k0 →
      let tail := (s.atomic (dieOf c) k0 8 .add 1).1
      s.ringKey? c needW (base + 64 + 32 * (tail % 2 ^ logn)) = some k → Memory.wf s.mem = true → k0 + 8 ≤ k ∨ k + 32 ≤ k0 →
      foreign (dieOf c) k = false →
      (∀ i, i < 4 → foreign (dieOf c) (k + 8 * i) = false) →
      ∃ t, exec (.traceRecordWrite c) s = .next t ∧ (t.core c).trace = rest ∧ t.rd k0 8 = (tail + 1) % 2 ^ 64 ∧
        ∀ i, i < 4 → t.rd (k + 8 * i) 8 = ((r.words c).getD i 0#64).toNat) ∧
    (s.executes c = false → exec (.sampleTrigger c) s = .next s) ∧
    (s.executes c = true → x.sampDue = false → exec (.sampleTrigger c) s = .next (s.setCore c x)) ∧
    (x.pmcCfg.getLsbD 61 = true → x.trace.length < 16 →
      let rec' (kind : BitVec 4) (data : Word) : TraceRec :=
        { kind := kind, pc := x.next.setWidth 52, sched := x.schedNow, cycle := x.cycle, data := data }
      (s.executes c = true → x.sampDue = true →
        exec (.sampleTrigger c) s = .next (s.setCore c { x with sampDue := false, trace := x.trace ++ [rec' 2#4 x.bundles] })) ∧
      (∀ n, n < 8 → x.pmc[n]? = some (BitVec.allOnes 64) → x.pmcEvent n = 11 ∨ x.pmcEvent n = 12 → ∃ t, exec (.pmcOverflow c n) s = .next t ∧ (t.core c).pmc[n]? = some 0#64 ∧
        (t.core c).pmcCfg = x.pmcCfg ||| 1#64 <<< (48 + n) ∧ (t.core c).trace = x.trace ++ [rec' 6#4 (BitVec.ofNat 64 n)])) ∧
    (∀ n, x.pmc[n]? ≠ some (BitVec.allOnes 64) ∨ x.pmcEvent n ≠ 11 ∧ x.pmcEvent n ≠ 12 → exec (.pmcOverflow c n) s = .next s)

/-- R335, R336, R396, Table 14-7: an uncorrectable error appends a record of KIND 4 with its unit and place. A core that consumes it takes SOFTERR, a walk XLATE, with unit 6; a running
job ends with FCAUSE 0x13, or parks where the error stood in its page table; a wake is dropped; a link core stops; a single parity error of
instruction memory costs a cycle and nothing else. A submit whose read meets one names the address of that read (R399). Which consumer an error reaches, and the place
a record names, are the model's (log entry 90). -/
def Sys2Proof.Claims.SoftErrorsReachTheirConsumer : Prop :=
  ∀ (e : SoftErr) (s : State),
    let info (u : BitVec 4) : Word := u ++ 0#8 ++ e.loc
    let told (u : BitVec 4) (t : State) : Prop := ∃ r, (t.die e.die).records = (s.die e.die).records ++ [r] ∧ fld (r.words.getD 0 0#64) 56 8 = 4 ∧
      fld (r.words.getD 0 0#64) 50 6 = 0x13 ∧ r.words.getD 3 0#64 = info u
    (e.who = .nobody → ∃ t, exec (.softError e) s = .next t ∧ told e.unit t ∧ t.mem = s.mem ∧ t.cores = s.cores) ∧
    (∀ c va, e.who = .core c ∨ e.who = .walk c va → s.mayTrap c = true → isSup c = false → (s.core c).outs = [] → (s.core c).pend = [] →
      (s.core c).inTrap = false → (s.core c).trapVec ≠ 0#64 →
      ∃ t, exec (.softError e) s = .next t ∧ told (if e.who = .core c then e.unit else 6#4) t ∧ (t.core c).trapCause = (if e.who = .core c then 0x13#6 else cXLATE) ∧
        (t.core c).trapPc = (s.core c).next ∧ (t.core c).trapInfo = (if e.who = .core c then info e.unit else va) ∧
        (t.core c).next = (s.core c).trapVec ∧ t.mem = s.mem) ∧
    (∀ c va, e.who = .submitRead c va → s.mayTrap c = true → isSup c = false → (s.core c).outs = [] → (s.core c).pend = [] →
      (s.core c).inTrap = false → (s.core c).trapVec ≠ 0#64 →
      ∃ t, exec (.softError e) s = .next t ∧ told e.unit t ∧ (t.core c).trapCause = 0x13#6 ∧ (t.core c).trapPc = (s.core c).next ∧
        (t.core c).trapInfo = va ∧ (t.core c).next = (s.core c).trapVec ∧ t.mem = s.mem) ∧
    (∀ c, e.who = .parityOnce c → (s.core c).pmcCfg = 0#64 → ∃ t, exec (.softError e) s = .next t ∧ (t.core c).cycle = (s.core c).cycle + 1#64 ∧
      (t.core c).s = (s.core c).s ∧ (t.core c).next = (s.core c).next ∧ t.mem = s.mem ∧ t.dies = s.dies) ∧
    (∀ c slot j, e.who = .job c slot → s.job? c slot = some j → j.st = .running → slot < 64 → tabSorted (s.eng c).jobs = true → j.kind ∉ [.mma, .cstrm, .xarm, .xcoll] →
      (∀ y ∈ (s.eng c).jobs, ∀ g ∈ y.2.edges, g.ord ≠ j.ord) →
      ∃ t, exec (.softError e) s = .next t ∧ told e.unit t ∧ t.job? c slot = none ∧ (t.eng c).unrep.getLsbD slot = true) ∧
    (∀ c slot, e.who = .job c slot → (∀ j, s.job? c slot = some j → j.st ≠ .running) → ∃ t, exec (.softError e) s = .next t ∧ told e.unit t ∧
      t.cores = s.cores ∧ t.mem = s.mem) ∧
    (∀ c slot va j, e.who = .jobWalk c slot va → s.job? c slot = some j → j.st = .running → ∃ t, exec (.softError e) s = .next t ∧
      t.job? c slot = some { j with st := .parked va } ∧ t.mem = s.mem ∧ ∃ r, r ∈ (t.die e.die).records ∧
        fld (r.words.getD 0 0#64) 56 8 = 4 ∧ fld (r.words.getD 0 0#64) 50 6 = 0x13 ∧ r.words.getD 3 0#64 = info 6#4) ∧
    (∀ c i a x p off l, e.who = .wake c i → (s.core c).outs[i]? = some a → a.kind = .write x → a.tgt = .port p off →
      tabGet? s.launches p = some l → a.whole = true → off % 64 = 0 → l.onDie (off / 64) = true → (s.core c).mayPerform i a = true →
      ∃ t, exec (.softError e) s = .next t ∧ told e.unit t ∧ (t.core c).outs = (s.core c).outs.eraseIdx i ∧
        t.mem = (s.dropAt (off / 64) l.root.toNat).mem) ∧
    (∀ k, e.who = .link k → 2 ≤ (s.linkCore k).state.toNat → ∃ t, exec (.softError e) s = .next t ∧ told e.unit t ∧ t.links = s.links) ∧
    (∀ k, e.who = .link k → (s.linkCore k).state.toNat < 2 → ∃ t, exec (.softError e) s = .next t ∧ told e.unit t ∧ 2 ≤ (t.linkCore k).state.toNat ∧
      (t.linkCore k).cause = lcSOFTERR ∧ (t.linkCore k).spc = (s.linkCore k).pc)

/-- Control space (R317 to R319, R325), trace (R337, R340, R341, R347) and soft errors (R335, R336, R396, R399). The one cache of a die (log entry 24), control writes out of range (log entry 31), which consumer an error reaches (log entry 90) and the events of log entry 92 are the model's. -/
def Obligations.ControlSpaceAndTrace : Prop :=
  Claims.ControlSpaceActs ∧ Claims.TraceRecordsAreWritten ∧ Claims.SoftErrorsReachTheirConsumer

/-- R328, R329, R330, R333: pre-emption. PREEMPT is refused in the wrong state or for want of a record, allotments or reserve, and else takes the reserve. The waits of
the dome end and its cores drain; when every core has come to its boundary the victim is set aside with all it has. A bank of the victim that the
newcomer touches is saved and marked, and a scratchpad bank that neither owns reads zero. When the newcomer has ended, and its jobs have ended or
parked, the victim stands where it stood. Where the saved bytes stand, and what else a victim keeps, is the model's (log entries 20 and 62). Stated for a newcomer
that leaves no job. -/
def Obligations.VictimsAreSetAsideAndRestored : Prop :=
  (∀ (c : Nat) (s : State),
    let dm := domeKey c
    let x := s.core c
    let r : BitVec 52 := x.arg.setWidth 52
    (x.run = .idle ∨ (tabGet? s.victims dm).isSome = true ∨ (s.dome dm).asked.isSome = true →
      exec (.preempt c) s = .next (s.setCore c { x with cmdStat := 1#8 })) ∧
    (x.run ≠ .idle → tabGet? s.victims dm = none → (s.dome dm).asked = none →
      (s.newcomerOf dm r = none ∨ s.launch? x.launch = none ∨ x.region = none → exec (.preempt c) s = .next (s.setCore c { x with cmdStat := 2#8 })) ∧
      (∀ li l lv g v, s.newcomerOf dm r = some (li, l) → s.launch? x.launch = some lv →
        s.region? (dm / 12) l (recRegion (s.recWord (dm / 12) r 1)) = some g → x.region = some v →
        let need := reserveOf v.spm v.acc
        let enough : Prop := g.reg.getLsbD 0 = true ∧ g.reg.getLsbD 3 = true ∧ g.reg.getLsbD 8 = true ∧ need ≤ s.dev (dm / 12) v.pool 8
        (¬ enough → exec (.preempt c) s = .next (s.setCore c { x with cmdStat := 2#8 })) ∧
        (enough → ∃ t, exec (.preempt c) s = .next t ∧ (t.core c).cmdStat = 0#8 ∧ (t.dome dm).asked = some (r, li, c) ∧
          t.mem = (s.pool (dm / 12) v.pool (-(need : Int))).mem)))) ∧
  (∀ (dm : Nat) (s : State),
    ((s.dome dm).asked = none → exec (.victimStop dm) s = .next s) ∧
    (let u := (domeCores dm).foldl (fun a c => a.haltCore c) s
     (∀ q, (s.dome dm).asked = some q → (∃ c ∈ domeCores dm, (u.core c).atStop = false) → exec (.victimStop dm) s = .next u) ∧
     (∀ q, (s.dome dm).asked = some q → (∀ c ∈ domeCores dm, (u.core c).atStop = true) →
      ∃ t v, exec (.victimStop dm) s = .next t ∧ tabGet? t.victims dm = some v ∧ v.dome = { u.dome dm with asked := none } ∧
        v.cores.map Prod.fst = domeCores dm ∧ (∀ e ∈ v.cores, e.2.next = (u.core e.1).next ∧ e.2.eng.jobs = (u.eng e.1).jobs)))) ∧
  (∀ (c b : Nat) (s : State),
    (tabGet? s.victims (domeKey c) = none → (s.core c).freshSpm = 0#64 → (s.core c).freshAcc = 0#32 → exec (.bankClaim c b) s = .next s) ∧
    (∀ i, b = 16 + i → i < 64 → (s.core c).freshSpm.getLsbD i = true → ∃ t, exec (.bankClaim c b) s = .next t ∧
      (t.core c).freshSpm.getLsbD i = false ∧ ∀ o, o < 2 ^ 16 → Memory.get t.mem (spKey c (i * 2 ^ 16 + o)) = 0#8) ∧
    (∀ w v, tabGet? s.victims (domeKey c) = some w → tabGet? w.cores c = some v →
      let x := s.core c
      (b < 9 → x.owedReg.getLsbD b = false → exec (.bankClaim c b) s = .next s) ∧
      (b < 9 → x.owedReg.getLsbD b = true → ∃ t, exec (.bankClaim c b) s = .next t ∧ (t.core c).smReg.getLsbD b = true ∧
        (t.core c).owedReg.getLsbD b = false ∧ t.mem = (s.saveBank c b v).mem) ∧
      (∀ i, b = 128 + i → i < 32 → x.owedAcc.getLsbD i = true → x.freshAcc.getLsbD i = false → ∃ t, exec (.bankClaim c b) s = .next t ∧ (t.core c).smAcc.getLsbD i = true ∧
        (t.core c).owedAcc.getLsbD i = false ∧ t.mem = s.mem) ∧
      (∀ i, b = 16 + i → i < 64 → x.owedSpm.getLsbD i = true → x.freshSpm.getLsbD i = false → (i + 1) * 2 ^ 16 ≤ v.spillBase.toNat → (∀ e ∈ s.cores, e.2.eng.phq = []) →
        Memory.wf s.mem = true → c < 2048 →
        ∃ t, exec (.bankClaim c b) s = .next t ∧ (t.core c).smSpm.getLsbD i = true ∧ (t.core c).owedSpm.getLsbD i = false ∧
          ∀ o, o < 2 ^ 16 → Memory.get t.mem (spKey c (i * 2 ^ 16 + o)) = 0#8 ∧
            Memory.get t.mem (imgKey c (i * 2 ^ 16 + o)) = Memory.get s.mem (spKey c (i * 2 ^ 16 + o))))) ∧
  (∀ (dm : Nat) (s : State),
    (tabGet? s.victims dm = none → exec (.victimRestore dm) s = .next s) ∧
    (∀ v, tabGet? s.victims dm = some v → ((s.dome dm).run ≠ .ending ∨ s.domeQuiet dm = false) →
      exec (.victimRestore dm) s = .next s) ∧
    (∀ v, tabGet? s.victims dm = some v → tabSorted s.victims = true → (s.dome dm).run = .ending → s.domeQuiet dm = true →
      (∀ e ∈ v.cores, (s.eng e.1).jobs = []) → (∀ c ∈ domeCores dm, (s.die (dieOf c)).badRed = []) → v.held = [] → (v.cores.map Prod.fst).Nodup →
      ∃ t, exec (.victimRestore dm) s = .next t ∧ tabGet? t.victims dm = none ∧
        t.dome dm = { v.dome with pending := (s.dome dm).pending } ∧
        (∀ e ∈ v.cores, (t.core e.1).next = e.2.next ∧ (t.core e.1).run = e.2.run ∧ (t.core e.1).smReg = 0#9 ∧ (t.eng e.1).jobs = e.2.eng.jobs ∧
          ((s.core e.1).smReg = 0#9 → (t.core e.1).s = e.2.s ∧ (t.core e.1).p = e.2.p ∧ (t.core e.1).v = e.2.v ∧ (t.core e.1).m = e.2.m)) ∧
        ∃ r, (t.die (dm / 12)).records = (s.die (dm / 12)).records ++ [r] ∧ fld (r.words.getD 0 0#64) 56 8 = 6))

/-- R13, R16: a syllable whose guard is false has no effect but what the counters see of it, and one that names a guard predicate outside the allotment, whatever it
holds, raises ALLOT, a vector syllable where its type admits it (R127); a dome-uniform one of an attached core only shows its guard to its dome (log entry 26); CPREF
never traps (R221). -/
def Sys2Proof.Claims.FalseGuardsHaveNoEffect : Prop :=
  ∀ (g : Option Guard) (s : State),
    let quiet (i : Instr) : Prop :=
      (s.me.guardTrue g = false → (∀ x, g = some x → x.g ≠ 0#5 → s.me.regAllot.getLsbD 8 = true) →
        exec i s = .next { s with issue := { s.issue with evs := 5 :: s.issue.evs } }) ∧
      (∀ x, g = some x → x.g ≠ 0#5 → s.me.regAllot.getLsbD 8 = false → exec i s = trapOut cALLOT (BitVec.ofNat 64 (2 ^ 62 + 8)) s)
    (∀ f ∈ aluRules.map Prod.fst ++ alu1Rules.map Prod.fst ++ divRules.map Prod.fst ++ cmpRules.map Prod.fst ++ cmpZRules.map Prod.fst ++
        plogRules.map Prod.fst ++ fpRules.map Prod.fst ++ fpMmRules.map Prod.fst ++ fpSqrtRules.map Prod.fst ++ fpAbsRules.map Prod.fst ++
        fpCmpRules.map Prod.fst ++ cvtRules.map Prod.fst ++ [.ptos], ∀ o : S3, o.gw = g → quiet (f o)) ∧
    (∀ f ∈ aluIRules.map Prod.fst ++ cmpIRules.map Prod.fst, ∀ o : SI, o.ext.map Prod.snd = g → quiet (f o)) ∧
    (∀ f ∈ fpFmaRules.map Prod.fst ++ [.bext, .bextu, .bins, .lop3], ∀ o : S3X, some o.g = g → quiet (f o)) ∧
    (∀ o : MovI, some o.g = g → quiet (.movi o)) ∧ (∀ o : Br, some o.g = g → quiet (.br o) ∧ quiet (.call o)) ∧
    (∀ o : LoopI, o.gw = g → quiet (.loop o)) ∧
    (∀ f ∈ [Instr.jr, .jrl, .ret, .nop, .seghint, .joinAll, .joinAny, .trap, .brk, .ifence, .rft, .exit, .mfc, .mtc, .mset, .mclr, .tlook, .tset,
        .tinv, .tpin, .tunpin, .monitor, .waitm, .fence, .efence, .cinv, .cwb], ∀ o : Ctl, o.gw = g → quiet (f o)) ∧
    (∀ f ∈ loadRules.map Prod.fst ++ storeRules.map Prod.fst, ∀ o : Mem, o.ext.map Prod.snd = g → quiet (f o)) ∧
    (∀ f ∈ atomRules.map Prod.fst, ∀ o : Atom, o.ext.map AtomX.g = g → quiet (f o)) ∧
    (∀ o : VIdx, some o.x.g = g → quiet (.vgath o) ∧ quiet (.vscat o)) ∧
    (∀ f ∈ [Instr.mma, .mzero, .mdrain, .copy, .cstrm, .skupd, .skadd, .skclr, .rdsend, .xwr, .xwrPlace, .xrd, .xamo, .xarm, .xcoll,
        .mcfg, .twait, .tcancel, .tdep, .phinit, .phreg, .phdrop, .phsig, .phwait, .phsw, .tmark],
      ∀ o : En, o.gw = g → quiet (f o)) ∧
    (∀ o : Eset, o.e.gw = g → quiet (.eset o)) ∧ (∀ o : Acas, some o.x.g = g → quiet (.acas o)) ∧
    (∀ f ∈ [Instr.pdany, .pdall], ∀ o : S3, o.gw = g → quiet (f o)) ∧
    (∀ f ∈ [Instr.defer, .dqcnt, .dqdrain, .vadd, .vsub, .vmul, .vmin, .vmax, .vabs, .vneg, .vmulh, .vand, .vor, .vxor, .vandn, .vnot, .vsll, .vsrl,
        .vsra, .vlop3, .vfma, .vfms, .vfnma, .vfnms, .veq, .vne, .vlt, .vle, .vgt, .vge, .vun, .vradd, .vrmax, .vrmin, .vrand, .vshuf, .vslideu,
        .vslided, .vzip, .vunzip, .vmov, .vmovToScalar, .vbcst, .vbcstScalar, .vcvt, .vcvtq, .vdq, .vmaxexp, .vsclmvToVector, .vsclmvToScl, .vrcp,
        .vrsq, .vexp2, .vlog2, .vcmul, .vcmulj, .vcfma, .mand, .mor, .mxor, .mandn, .mnot, .mpopc, .mfirst, .skupdv, .skqryv],
      ∀ o : Vec, o.ext.map VecX.g = g → s.typeFault (f o) = none → quiet (f o)) ∧
    (∀ f ∈ [Instr.suspend, .yield, .dsync], ∀ o : Ctl, o.gw = g →
      (s.me.join ≠ .attached ∨ isSup s.cur = true → quiet (f o)) ∧
      (s.me.guardTrue g = false → (∀ x, g = some x → x.g ≠ 0#5 → s.me.regAllot.getLsbD 8 = true) →
        ∃ t, exec (f o) s = .next t ∧ t.issue = { s.issue with evs := 5 :: s.issue.evs } ∧ t.cores = s.cores ∧ t.mem = s.mem ∧ t.dies = s.dies)) ∧
    (s.me.guardTrue g = false → ∀ o : Ctl, o.gw = g → exec (.cpref o) s = .next { s with issue := { s.issue with evs := 5 :: s.issue.evs } })

/-- R13, R314: a syllable whose guard is true and that names a register of a bank outside the allotment raises ALLOT with the bank. (Of several, the lowest is named:
the model's choice, log entry 10.) -/
def Sys2Proof.Claims.AllotmentIsChecked : Prop :=
  ∀ (s : State) (b : Nat), s.me.regAllot.getLsbD 8 = true →
    ((∀ f ∈ aluRules.map Prod.fst ++ divRules.map Prod.fst ++ fpRules.map Prod.fst ++ fpMmRules.map Prod.fst, ∀ o : S3,
        Refuses s b (f o) o.gw (srcReg o.a ++ srcReg o.b ++ dstReg o.w o.d)) ∧
      (∀ f ∈ alu1Rules.map Prod.fst ++ fpSqrtRules.map Prod.fst ++ fpAbsRules.map Prod.fst ++ cvtRules.map Prod.fst, ∀ o : S3,
        Refuses s b (f o) o.gw (srcReg o.a ++ dstReg o.w o.d)) ∧
      (∀ f ∈ cmpRules.map Prod.fst ++ fpCmpRules.map Prod.fst, ∀ o : S3, Refuses s b (f o) o.gw (srcReg o.a ++ srcReg o.b ++ dstPred o.w)) ∧
      (∀ f ∈ aluIRules.map Prod.fst, ∀ o : SI, Refuses s b (f o) (o.ext.map Prod.snd) (srcReg o.a ++ dstReg o.w o.d)) ∧
      (∀ f ∈ fpFmaRules.map Prod.fst ++ [.lop3], ∀ o : S3X,
        Refuses s b (f o) (some o.g) (srcReg o.a ++ srcReg o.b ++ srcReg o.c ++ dstReg o.w o.d)) ∧
      (∀ f ∈ [Instr.bext, .bextu], ∀ o : S3X, Refuses s b (f o) (some o.g) (srcReg o.a ++ dstReg o.w o.d)) ∧
      (∀ o : S3X, Refuses s b (.bins o) (some o.g) (srcReg o.a ++ srcReg o.b ++ dstReg o.w o.d) ∧
        Refuses s b (.sel o) none (srcReg o.a ++ srcReg o.b ++ dstReg o.w o.d ++ [.p])) ∧
      (∀ r ∈ loadRules, ∀ o : Mem, Refuses s b (r.1 o) (o.ext.map Prod.snd) (srcReg o.a ++ dstReg o.w o.d)) ∧
      (∀ r ∈ storeRules, ∀ o : Mem, Refuses s b (r.1 o) (o.ext.map Prod.snd) (srcReg o.a ++ [.s o.d])) ∧
      (∀ r ∈ atomRules, ∀ o : Atom, Refuses s b (r.1 o) (o.ext.map AtomX.g) (srcReg o.a ++ srcReg o.b ++ dstReg o.w o.d)) ∧
      (∀ o : Acas, Refuses s b (.acas o) (some o.x.g) (srcReg o.x.a ++ srcReg o.x.b ++ srcReg o.x.c ++ dstReg o.x.w o.x.d)) ∧
      (∀ o : Eset, Refuses s b (.eset o) o.e.gw [.s o.e.sa, .s o.e.sb]) ∧
      (∀ f ∈ [Instr.twait, .tcancel, .tdep, .tmark], ∀ o : En, Refuses s b (f o) o.gw [.s o.sa]) ∧
      (∀ f ∈ [Instr.phinit, .phreg, .phdrop, .phsig, .phwait, .phsw], ∀ o : En, Refuses s b (f o) o.gw [.s o.sa, .s o.sb]) ∧
      (∀ r ∈ vRules, ∀ o : Vec, s.typeFault (r.op o) = none →
        Refuses s b (r.op o) (o.ext.map VecX.g) (.v o.vd :: r.reads o ++ maskReg (vx o).msk)) ∧
      (∀ r ∈ permRules, ∀ o : Vec, s.typeFault (r.1 o) = none →
        Refuses s b (r.1 o) (o.ext.map VecX.g) (.v o.vd :: r.2.1 o ++ maskReg (vx o).msk)) ∧
      (∀ f ∈ vCmpRules.map Prod.fst, ∀ o : Vec, s.typeFault (f o) = none →
        Refuses s b (f o) (o.ext.map VecX.g) ([.v o.va, .v o.vb, .m] ++ maskReg (vx o).msk)) ∧
      (∀ f ∈ redRules.map RedRule.op, ∀ o : Vec, s.typeFault (f o) = none →
        Refuses s b (f o) (o.ext.map VecX.g) ([.v o.va, .v o.vd] ++ maskReg (vx o).msk)) ∧
      (∀ f ∈ maskRules.map Prod.fst, ∀ o : Vec, Refuses s b (f o) (o.ext.map VecX.g) ([.m] ++ maskReg (vx o).msk))) ∧
    (∀ (c : Core) (rs : List Reg), c.refused rs = some b → (∃ r ∈ rs, r.bank = b) ∧ c.regAllot.getLsbD b = false) ∧
    (∀ (c : Core) (rs : List Reg), c.refused rs = none → ∀ r ∈ rs, c.regAllot.getLsbD r.bank = true)

/-- Guards (R13, R16) and the allotment (R13, R314). The lowest of several refused banks is the model's choice (log entry 10), and how an attached core shows its guard is too (log entry 26). -/
def Obligations.GuardsAndAllotment : Prop :=
  Claims.FalseGuardsHaveNoEffect ∧ Claims.AllotmentIsChecked

/-- The frames of the register families (spec/04, spec/05): what runs leaves every register, flag, special register and byte of memory as it is, but for writes in flight of
its destination, where W is 1, and of the flags that the spec names for it. -/
def Obligations.RegisterFamiliesKeepTheRest : Prop :=
  (∀ f ∈ aluRules.map Prod.fst ++ divRules.map Prod.fst ++ alu1Rules.map Prod.fst ++ fpAbsRules.map Prod.fst, ∀ o : S3,
    RegFrame (f o) fun w => mayS o.w o.d w || onlyFlags fLATINV w) ∧
  (∀ f ∈ aluIRules.map Prod.fst, ∀ o : SI, RegFrame (f o) fun w => mayS o.w o.d w || onlyFlags fLATINV w) ∧
  (∀ f ∈ [Instr.bext, .bextu, .bins, .lop3, .sel], ∀ o : S3X, RegFrame (f o) fun w => mayS o.w o.d w || onlyFlags fLATINV w) ∧
  (∀ o : MovI, RegFrame (.movi o) fun w => mayS o.w o.d w) ∧ (∀ o : MovH, RegFrame (.movh o) fun w => mayS o.w o.d w) ∧
  (∀ f ∈ cmpRules.map Prod.fst ++ cmpZRules.map Prod.fst ++ plogRules.map Prod.fst, ∀ o : S3,
    RegFrame (f o) fun w => mayP o.w o.d w || onlyFlags fLATINV w) ∧
  (∀ f ∈ cmpIRules.map Prod.fst, ∀ o : SI, RegFrame (f o) fun w => mayP o.w o.d w || onlyFlags fLATINV w) ∧
  (∀ f ∈ fpRules.map Prod.fst ++ fpMmRules.map Prod.fst ++ fpSqrtRules.map Prod.fst ++ cvtRules.map Prod.fst, ∀ o : S3,
    RegFrame (f o) fun w => mayS o.w o.d w || onlyFlags (fArith ||| fLATINV) w) ∧
  (∀ f ∈ fpFmaRules.map Prod.fst, ∀ o : S3X, RegFrame (f o) fun w => mayS o.w o.d w || onlyFlags (fArith ||| fLATINV) w) ∧
  (∀ f ∈ fpCmpRules.map Prod.fst, ∀ o : S3, RegFrame (f o) fun w => mayP o.w o.d w || onlyFlags (fArith ||| fLATINV) w) ∧
  (∀ r ∈ vRules, ∀ o : Vec, RegFrame (r.op o) fun w => mayV o.lg o.wd o.vd w || onlyFlags fArith w) ∧
  (∀ o : Ctl, RegFrame (.mfc o) fun w => mayS o.w o.d w) ∧
  (∀ f ∈ [Instr.mtc, .mset, .mclr], ∀ o : Ctl,
    RegFrame (f o) fun w => (match w with | .cr n _ => n = o.i6 | _ => false) || onlyFlags fLATINV w)

/-- A step runs the decoded instruction (R15, R17, R387; which turn comes next is the model's, log entry 4): an event of the agenda; the word at the PC of a link core whose
turn it is, once its port die has counted the cycle; the bundle at the next address of a core that has left the stream, once it has been counted as entering its
segment, and the one at the head of the queue of a core in it (log entry 26); a sample that fell due while the core did not execute comes first. The syllable of a bundle of one syllable runs with BUNDLES and BUDGET counted; one that traps leaves nothing of itself but the guard it has shown, for the
trap is taken from the state before it; one that lacks only answers to its remote accesses has its requests sent and waits (log entry 102). -/
def Obligations.StepsRunTheDecodedInstruction : Prop :=
  (∀ (i : Instr) (r : List Turn) (s : State), s.agenda = .event i :: r → isEvent i = true → step s = exec i { s with agenda := r }) ∧
  (∀ (k : Nat) (i : Instr) (r : List Turn) (s : State), s.agenda = .link k :: r → k < 4 → (s.linkCore k).state = 0#2 →
    decodeDol ((s.linkCore k).load (s.linkCore k).pc.toNat) = .ok i →
    let d := s.portDie (k / 2)
    let y : State := { s with agenda := r }
    let z := y.setPort (k / 2) { d with cycle := d.cycle + 1#64 }
    step s = exec i { z with cur := k }) ∧
  (∀ (c : Nat) (r : List Turn) (s : State), s.agenda = .core c :: r → s.eager = false → s.executes c = true →
    let x := s.core c
    let s0 := ({ s with agenda := r, cur := c, issue := Issue.none } : State).setCore c x.lateSample
    x.budget ≠ 0#64 → x.wait = .none → x.monitor.armed = false → isSup c = true ∨ (s.dome (domeKey c)).asked = none → s.voteOpen c = false →
      (∀ ws, x.join ≠ .attached → gather x.finderWord 9 x.next.toNat 0 0 = .inr ws → step s = issueBundle exec c x.next ws none (s0.enterAt c)) ∧
      (∀ q rest, x.join = .attached → x.seg = none → x.queue = q :: rest → q.ws ≠ [] → q.again = false → step s = issueBundle exec c q.addr q.ws (some q) s0)) ∧
  (∀ (c : Nat) (addr : Word) (ws : List Half) (w : Half) (i : Instr) (q : Option Delivered) (s : State), isPrefix i = false →
    let x := s.core c
    let iss := { Issue.none with
      seq := (q.map Delivered.seq).getD 0, addr := addr, next := bundleNext addr ws, len := 4 * ws.length,
      dqc := (List.range 4).map fun p => ((x.path p).length, (x.spilled p).length), boss := q.bind Delivered.boss, crs := s.crsNow c,
      job0 := x.eng.ordNext }
    let s0 := { s with issue := iss }
    let s1 := s0.setCore c { x with bundles := x.bundles + 1#64, budget := x.budget - 1#64 }
    s0.checkBundle ws = .inr [(w, i)] → ∀ t, exec i { s1 with issue := { iss with pos := 0, w0 := w } } = .next t →
      let u := { t with issue := { t.issue with pm := none, pa := none } }
      (t.issue.res = .ran → t.issue.far = [] → issueBundle exec c addr ws q s = .next (State.retire u c q [w])) ∧
      (t.issue.res = .ran → t.issue.far ≠ [] → issueBundle exec c addr ws q s = .next ((s0.askTurn u c addr).endTurn c)) ∧
      (t.issue.res = .stalled → issueBundle exec c addr ws q s = .next ((s0.stallTurn t c addr).endTurn c)) ∧
      (∀ cause info, t.issue.res = .trapped cause info → t.issue.far = [] →
        let s2 := { s0 with issue := { iss with drop := t.issue.drop, told := t.issue.told } }
        let s3 := if isSup c = true then s2 else s2.setDome (domeKey c) { s2.dome (domeKey c) with guards := (t.dome (domeKey c)).guards }
        issueBundle exec c addr ws q s = .next ((s3.trapTurn c cause info addr).endTurn c)))

/-- Words of the spec's worked examples (Tables 2-13, 4-5, 7-3, 9-4, 11-9, 13-7, 17-11) and the instructions they stand for. -/
def Obligations.WordsOfTheExamplesDecode : Prop :=
  decodeSyllable 0x0080C544#32 0#32 = .ok (.faddS { fin := false, gw := none, b := 2#7, a := 1#7, w := true, d := 5#6 } : Instr) ∧
  decodeSyllable 0x0003C717#32 0x0061A802#32 =
    .ok (.addi { fin := true, i10 := 0#10, a := 7#7, w := true, d := 7#6, ext := some (100000#26, { gn := false, g := 2#5 }) }) ∧
  decodeSyllable 0x01028066#32 0#32 = .ok (.loop { fin := true, n := 4#10, a := 5#7, gw := none }) ∧
  decodeSyllable 0x8503442A#32 0#32 = .ok (.cmpiGe { fin := true, i10 := 20#10, a := 6#7, w := true, d := 4#6, ext := none }) ∧
  decodeSyllable 0x2000C137#32 0x0000E100#32 =
    .ok (.bextu { fin := true, b := 0#7, a := 1#7, w := true, d := 1#6, x8 := 7#8, c := 4#7, g := { gn := false, g := 0#5 } }) ∧
  decodeSyllable 0xFFFF005A#32 0#32 = .ok (.br { fin := true, off := 0x3FFFC#18, g := { gn := false, g := 0#5 } }) ∧
  decodeSyllable 0x00C28776#32 0#32 = .ok (.st64 { fin := true, off := 0#7, a := 5#7, w := false, d := 7#6, ext := none }) ∧
  decodeSyllable 0x00003698#32 0#32 = .ok (.pfxm { fin := false, cache := 0#2, space := 0#2, scope := 3#3, ord := 3#3 }) ∧
  decodeSyllable 0x200004CE#32 0#32 = .ok (.mma { fin := true, gw := none, eng := 0#4, sb := 0#6, sa := 4#6 }) ∧
  decodeSyllable 0x008200D3#32 0x00014640#32 = .ok (.skupdv
    { fin := true, vb := 2#5, va := 1#5, vd := 0#5, lg := 0#2, wd := 0#2,
      ext := some { fmto := 0#4, x8 := 5#8, vc := 3#5, msk := 1#3, g := { gn := false, g := 0#5 } } }) ∧
  decodeDol 0x03FFC549#32 = .ok (.dolAndi { i := 0xFFF#18, a := 1#4, d := 5#4 }) ∧
  decodeDol 0x0001DE1B#32 = .ok (.dolBltu { off := 7#18, b := 7#4, a := 8#4 }) ∧
  decodeDol 0x00025662#32 = .ok (.dolSetwin { b := 9#4, a := 5#4, d := 9#4 })

/-- What reset leaves (R11, Tables 1-1, 1-4, 14-3, 17-1): power is off, the control registers of every core hold their reset values, no core runs, nothing is in flight, and
memory has its canonical form. (That memory and the other registers read 0 is the model's choice, log entries 1 and 2.) -/
def Obligations.ResetLeavesTheSpecsValues : Prop :=
  (∀ c, let x := State.reset.core c
    x.run = .idle ∧ x.ctlDef = 0x191#10 ∧ x.fmt = 0xC08#13 ∧ x.scl = 0#48 ∧ x.flags = 0#7 ∧ x.inTrap = false ∧ x.trapVec = 0#64 ∧
    x.cycle = 0#64 ∧ x.bundles = 0#64 ∧ x.srSeed = (coreIdOf c).setWidth 32 + 1#32 ∧ x.pmcCfg = 0#64 ∧ x.monitor.armed = false ∧
    x.pend = [] ∧ x.outs = [] ∧ x.ras = [] ∧ x.loops = [] ∧ x.latches = Vector.replicate 8 none) ∧
  (∀ d, (State.reset.die d).sqSize = 6#5 ∧ (State.reset.die d).tlbiSize = 12#6 ∧ (State.reset.die d).tlbiDone = 0#32) ∧
  (∀ k, (State.reset.linkCore k).pc = 0#18) ∧ State.reset.root.power = false ∧ State.reset.root.stage = 0#4 ∧
  Memory.wf State.reset.mem = true

/-- R40 to R45, R387, Table 17-5: for every Dolelm instruction with every operand its encoding admits, the decoder reads from the encoder's word the instruction it was made
from. -/
def Obligations.DolelmDecodingInvertsEncoding : Prop :=
  ∀ i : Instr, isDol i = true → WellFormed i → ∃ w, encode i = [w] ∧ decodeDol w = .ok i

/-- Formats S3, SI, S3X and the constant moves, in every length they have (Tables 2-2 to 2-4). -/
def Sys2Proof.Claims.ScalarDecodingInvertsEncoding : Prop :=
  (∀ f ∈ [Instr.add, .sub, .and, .or, .xor, .andn, .orn, .xnor, .sll, .srl, .sra, .rol, .min, .max, .minu, .maxu, .mul, .mulh, .mulhu, .div, .divu,
      .rem, .remu, .absd, .clz, .ctz, .popc, .brev, .sext8, .sext16, .sext32, .zext32, .cmpEq, .cmpNe, .cmpLt, .cmpLtu, .cmpGe, .cmpGeu, .cmpTz,
      .cmpTnz, .pand, .por, .pxor, .pandn, .pnot, .pdany, .pdall, .ptos, .faddS, .fsubS, .fmulS, .fdivS, .fminS, .fmaxS, .fsqrtS, .fabsS, .faddD,
      .fsubD, .fmulD, .fdivD, .fminD, .fmaxD, .fsqrtD, .fabsD, .feqS, .fltS, .fleS, .funS, .feqD, .fltD, .fleD, .funD, .cvtSD, .cvtDS, .cvtSL,
      .cvtSLu, .cvtDL, .cvtDLu, .cvtLS, .cvtLuS, .cvtLD, .cvtLuD, .cvtHS, .cvtSH], ∀ o : S3, DecodesBack (f o)) ∧
  (∀ f ∈ [Instr.addi, .andi, .ori, .xori, .slli, .srli, .srai, .roli, .cmpiEq, .cmpiNe, .cmpiLt, .cmpiLtu, .cmpiGe, .cmpiGeu], ∀ o : SI, DecodesBack (f o)) ∧
  (∀ f ∈ [Instr.bext, .bextu, .bins, .lop3, .sel, .fmaS, .fmsS, .fnmaS, .fnmsS, .fmaD, .fmsD, .fnmaD, .fnmsD], ∀ o : S3X, DecodesBack (f o)) ∧
  (∀ o : MovI, DecodesBack (.movi o)) ∧ (∀ o : MovH, DecodesBack (.movh o))

/-- Formats BR, CTL and LOOP and the prefixes (Tables 2-3, 2-11, 2-12). -/
def Sys2Proof.Claims.ControlDecodingInvertsEncoding : Prop :=
  (∀ o : Br, DecodesBack (.br o)) ∧ (∀ o : Br, DecodesBack (.call o)) ∧ (∀ o : LoopI, DecodesBack (.loop o)) ∧
  (∀ f ∈ [Instr.jr, .jrl, .ret, .nop, .joinAll, .joinAny, .suspend, .yield, .exit, .trap, .brk, .dsync, .ifence, .rft, .seghint, .mfc, .mtc, .mset,
      .mclr, .tlook, .tset, .tinv, .tpin, .tunpin, .monitor, .waitm, .fence, .efence, .cinv, .cwb, .cpref], ∀ o : Ctl, DecodesBack (f o)) ∧
  (∀ o : PfxM, DecodesBack (.pfxm o)) ∧ (∀ o : PfxA, DecodesBack (.pfxa o))

/-- Formats MEM, MEMX, VMEM and ATOM, the indexed vector accesses and ACAS. -/
def Sys2Proof.Claims.MemoryDecodingInvertsEncoding : Prop :=
  (∀ f ∈ [Instr.ld8, .ld16, .ld32, .ld64, .ld8s, .ld16s, .ld32s, .st8, .st16, .st32, .st64], ∀ o : Mem, DecodesBack (f o)) ∧
  (∀ o : VMem, DecodesBack (.vld o)) ∧ (∀ o : VMem, DecodesBack (.vst o)) ∧ (∀ o : VIdx, DecodesBack (.vgath o)) ∧ (∀ o : VIdx, DecodesBack (.vscat o)) ∧
  (∀ f ∈ [Instr.aadd, .amin, .amax, .aand, .aor, .axor, .axchg, .afadd], ∀ o : Atom, DecodesBack (f o)) ∧ (∀ o : Acas, DecodesBack (.acas o))

/-- Formats VEC and VECX. -/
def Sys2Proof.Claims.VectorDecodingInvertsEncoding : Prop :=
  (∀ f ∈ [Instr.defer, .dqcnt, .dqdrain, .vadd, .vsub, .vmul, .vmin, .vmax, .vabs, .vneg, .vmulh, .vand, .vor, .vxor, .vandn, .vnot, .vsll, .vsrl,
      .vsra, .vlop3, .vfma, .vfms, .vfnma, .vfnms, .veq, .vne, .vlt, .vle, .vgt, .vge, .vun, .vradd, .vrmax, .vrmin, .vrand, .vshuf, .vslideu,
      .vslided, .vzip, .vunzip, .vmov, .vmovToScalar, .vbcst, .vbcstScalar, .vcvt, .vcvtq, .vdq, .vmaxexp, .vsclmvToVector, .vsclmvToScl, .vrcp,
      .vrsq, .vexp2, .vlog2, .vcmul, .vcmulj, .vcfma, .mand, .mor, .mxor, .mandn, .mnot, .mpopc, .mfirst, .skupdv, .skqryv], ∀ o : Vec, DecodesBack (f o))

/-- Format EN and ESET. XWR in the mode for placement is a row of its own with the words of XWR, and decodes as XWR. -/
def Sys2Proof.Claims.EngineDecodingInvertsEncoding : Prop :=
  (∀ f ∈ [Instr.mma, .mzero, .mdrain, .mcfg, .copy, .cstrm, .twait, .tcancel, .tdep, .skupd, .skadd, .skclr, .phinit, .phreg, .phdrop, .phsig,
      .phwait, .phsw, .rdsend, .xwr, .xrd, .xamo, .xarm, .xcoll, .tmark], ∀ o : En, DecodesBack (f o)) ∧
  (∀ o : Eset, DecodesBack (.eset o)) ∧
  (∀ o : En, WellFormed (.xwrPlace o) → decodeSyllable ((encode (.xwrPlace o)).getD 0 0#32) ((encode (.xwrPlace o)).getD 1 0#32) = .ok (.xwr o))

/-- Decoding inverts encoding, format by format (Tables 2-2 to 2-12). -/
def Obligations.SyllableDecodingInvertsEncoding : Prop :=
  Claims.ScalarDecodingInvertsEncoding ∧ Claims.ControlDecodingInvertsEncoding ∧
  Claims.MemoryDecodingInvertsEncoding ∧ Claims.VectorDecodingInvertsEncoding ∧ Claims.EngineDecodingInvertsEncoding

/-- No step ever stops: from every state, one that no run reaches included, the device goes on to a next state (R17, R310, R396: what goes wrong is a trap, a stop of a core
or the end of a job, and never the end of the run). -/
def Obligations.NoStepEverStops : Prop := ∀ s : State, SafeStep s

/-- The canonical form of memory is an invariant of every step, from every state that has it. -/
def Obligations.EveryStepKeepsMemoryCanonical : Prop :=
  ∀ s t : State, Memory.wf s.mem = true → step s = .next t → Memory.wf t.mem = true
end

