-- ==== Sys2Proof/Laws/Dispatch.lean ====
section
/-! SUPPORT. The meaning that `exec` calls for each instruction, by name. -/

namespace Sys2Proof.Machine

@[simp] theorem exec_add (o : S3) (s : State) : exec (.add o) s = execAdd o s := rfl
@[simp] theorem exec_sub (o : S3) (s : State) : exec (.sub o) s = execSub o s := rfl
@[simp] theorem exec_and (o : S3) (s : State) : exec (.and o) s = execAnd o s := rfl
@[simp] theorem exec_or (o : S3) (s : State) : exec (.or o) s = execOr o s := rfl
@[simp] theorem exec_xor (o : S3) (s : State) : exec (.xor o) s = execXor o s := rfl
@[simp] theorem exec_andn (o : S3) (s : State) : exec (.andn o) s = execAndn o s := rfl
@[simp] theorem exec_orn (o : S3) (s : State) : exec (.orn o) s = execOrn o s := rfl
@[simp] theorem exec_xnor (o : S3) (s : State) : exec (.xnor o) s = execXnor o s := rfl
@[simp] theorem exec_sll (o : S3) (s : State) : exec (.sll o) s = execSll o s := rfl
@[simp] theorem exec_srl (o : S3) (s : State) : exec (.srl o) s = execSrl o s := rfl
@[simp] theorem exec_sra (o : S3) (s : State) : exec (.sra o) s = execSra o s := rfl
@[simp] theorem exec_rol (o : S3) (s : State) : exec (.rol o) s = execRol o s := rfl
@[simp] theorem exec_min (o : S3) (s : State) : exec (.min o) s = execMin o s := rfl
@[simp] theorem exec_max (o : S3) (s : State) : exec (.max o) s = execMax o s := rfl
@[simp] theorem exec_minu (o : S3) (s : State) : exec (.minu o) s = execMinu o s := rfl
@[simp] theorem exec_maxu (o : S3) (s : State) : exec (.maxu o) s = execMaxu o s := rfl
@[simp] theorem exec_mul (o : S3) (s : State) : exec (.mul o) s = execMul o s := rfl
@[simp] theorem exec_mulh (o : S3) (s : State) : exec (.mulh o) s = execMulh o s := rfl
@[simp] theorem exec_mulhu (o : S3) (s : State) : exec (.mulhu o) s = execMulhu o s := rfl
@[simp] theorem exec_div (o : S3) (s : State) : exec (.div o) s = execDiv o s := rfl
@[simp] theorem exec_divu (o : S3) (s : State) : exec (.divu o) s = execDivu o s := rfl
@[simp] theorem exec_rem (o : S3) (s : State) : exec (.rem o) s = execRem o s := rfl
@[simp] theorem exec_remu (o : S3) (s : State) : exec (.remu o) s = execRemu o s := rfl
@[simp] theorem exec_absd (o : S3) (s : State) : exec (.absd o) s = execAbsd o s := rfl
@[simp] theorem exec_clz (o : S3) (s : State) : exec (.clz o) s = execClz o s := rfl
@[simp] theorem exec_ctz (o : S3) (s : State) : exec (.ctz o) s = execCtz o s := rfl
@[simp] theorem exec_popc (o : S3) (s : State) : exec (.popc o) s = execPopc o s := rfl
@[simp] theorem exec_brev (o : S3) (s : State) : exec (.brev o) s = execBrev o s := rfl
@[simp] theorem exec_sext8 (o : S3) (s : State) : exec (.sext8 o) s = execSext8 o s := rfl
@[simp] theorem exec_sext16 (o : S3) (s : State) : exec (.sext16 o) s = execSext16 o s := rfl
@[simp] theorem exec_sext32 (o : S3) (s : State) : exec (.sext32 o) s = execSext32 o s := rfl
@[simp] theorem exec_zext32 (o : S3) (s : State) : exec (.zext32 o) s = execZext32 o s := rfl
@[simp] theorem exec_cmpEq (o : S3) (s : State) : exec (.cmpEq o) s = execCmpEq o s := rfl
@[simp] theorem exec_cmpNe (o : S3) (s : State) : exec (.cmpNe o) s = execCmpNe o s := rfl
@[simp] theorem exec_cmpLt (o : S3) (s : State) : exec (.cmpLt o) s = execCmpLt o s := rfl
@[simp] theorem exec_cmpLtu (o : S3) (s : State) : exec (.cmpLtu o) s = execCmpLtu o s := rfl
@[simp] theorem exec_cmpGe (o : S3) (s : State) : exec (.cmpGe o) s = execCmpGe o s := rfl
@[simp] theorem exec_cmpGeu (o : S3) (s : State) : exec (.cmpGeu o) s = execCmpGeu o s := rfl
@[simp] theorem exec_cmpTz (o : S3) (s : State) : exec (.cmpTz o) s = execCmpTz o s := rfl
@[simp] theorem exec_cmpTnz (o : S3) (s : State) : exec (.cmpTnz o) s = execCmpTnz o s := rfl
@[simp] theorem exec_addi (o : SI) (s : State) : exec (.addi o) s = execAddi o s := rfl
@[simp] theorem exec_andi (o : SI) (s : State) : exec (.andi o) s = execAndi o s := rfl
@[simp] theorem exec_ori (o : SI) (s : State) : exec (.ori o) s = execOri o s := rfl
@[simp] theorem exec_xori (o : SI) (s : State) : exec (.xori o) s = execXori o s := rfl
@[simp] theorem exec_slli (o : SI) (s : State) : exec (.slli o) s = execSlli o s := rfl
@[simp] theorem exec_srli (o : SI) (s : State) : exec (.srli o) s = execSrli o s := rfl
@[simp] theorem exec_srai (o : SI) (s : State) : exec (.srai o) s = execSrai o s := rfl
@[simp] theorem exec_roli (o : SI) (s : State) : exec (.roli o) s = execRoli o s := rfl
@[simp] theorem exec_cmpiEq (o : SI) (s : State) : exec (.cmpiEq o) s = execCmpiEq o s := rfl
@[simp] theorem exec_cmpiNe (o : SI) (s : State) : exec (.cmpiNe o) s = execCmpiNe o s := rfl
@[simp] theorem exec_cmpiLt (o : SI) (s : State) : exec (.cmpiLt o) s = execCmpiLt o s := rfl
@[simp] theorem exec_cmpiLtu (o : SI) (s : State) : exec (.cmpiLtu o) s = execCmpiLtu o s := rfl
@[simp] theorem exec_cmpiGe (o : SI) (s : State) : exec (.cmpiGe o) s = execCmpiGe o s := rfl
@[simp] theorem exec_cmpiGeu (o : SI) (s : State) : exec (.cmpiGeu o) s = execCmpiGeu o s := rfl
@[simp] theorem exec_movi (o : MovI) (s : State) : exec (.movi o) s = execMovi o s := rfl
@[simp] theorem exec_movh (o : MovH) (s : State) : exec (.movh o) s = execMovh o s := rfl
@[simp] theorem exec_bext (o : S3X) (s : State) : exec (.bext o) s = execBext o s := rfl
@[simp] theorem exec_bextu (o : S3X) (s : State) : exec (.bextu o) s = execBextu o s := rfl
@[simp] theorem exec_bins (o : S3X) (s : State) : exec (.bins o) s = execBins o s := rfl
@[simp] theorem exec_lop3 (o : S3X) (s : State) : exec (.lop3 o) s = execLop3 o s := rfl
@[simp] theorem exec_sel (o : S3X) (s : State) : exec (.sel o) s = execSel o s := rfl
@[simp] theorem exec_pand (o : S3) (s : State) : exec (.pand o) s = execPand o s := rfl
@[simp] theorem exec_por (o : S3) (s : State) : exec (.por o) s = execPor o s := rfl
@[simp] theorem exec_pxor (o : S3) (s : State) : exec (.pxor o) s = execPxor o s := rfl
@[simp] theorem exec_pandn (o : S3) (s : State) : exec (.pandn o) s = execPandn o s := rfl
@[simp] theorem exec_pnot (o : S3) (s : State) : exec (.pnot o) s = execPnot o s := rfl
@[simp] theorem exec_pdany (o : S3) (s : State) : exec (.pdany o) s = execPdany o s := rfl
@[simp] theorem exec_pdall (o : S3) (s : State) : exec (.pdall o) s = execPdall o s := rfl
@[simp] theorem exec_ptos (o : S3) (s : State) : exec (.ptos o) s = execPtos o s := rfl
@[simp] theorem exec_faddS (o : S3) (s : State) : exec (.faddS o) s = execFaddS o s := rfl
@[simp] theorem exec_fsubS (o : S3) (s : State) : exec (.fsubS o) s = execFsubS o s := rfl
@[simp] theorem exec_fmulS (o : S3) (s : State) : exec (.fmulS o) s = execFmulS o s := rfl
@[simp] theorem exec_fdivS (o : S3) (s : State) : exec (.fdivS o) s = execFdivS o s := rfl
@[simp] theorem exec_fminS (o : S3) (s : State) : exec (.fminS o) s = execFminS o s := rfl
@[simp] theorem exec_fmaxS (o : S3) (s : State) : exec (.fmaxS o) s = execFmaxS o s := rfl
@[simp] theorem exec_fsqrtS (o : S3) (s : State) : exec (.fsqrtS o) s = execFsqrtS o s := rfl
@[simp] theorem exec_fabsS (o : S3) (s : State) : exec (.fabsS o) s = execFabsS o s := rfl
@[simp] theorem exec_faddD (o : S3) (s : State) : exec (.faddD o) s = execFaddD o s := rfl
@[simp] theorem exec_fsubD (o : S3) (s : State) : exec (.fsubD o) s = execFsubD o s := rfl
@[simp] theorem exec_fmulD (o : S3) (s : State) : exec (.fmulD o) s = execFmulD o s := rfl
@[simp] theorem exec_fdivD (o : S3) (s : State) : exec (.fdivD o) s = execFdivD o s := rfl
@[simp] theorem exec_fminD (o : S3) (s : State) : exec (.fminD o) s = execFminD o s := rfl
@[simp] theorem exec_fmaxD (o : S3) (s : State) : exec (.fmaxD o) s = execFmaxD o s := rfl
@[simp] theorem exec_fsqrtD (o : S3) (s : State) : exec (.fsqrtD o) s = execFsqrtD o s := rfl
@[simp] theorem exec_fabsD (o : S3) (s : State) : exec (.fabsD o) s = execFabsD o s := rfl
@[simp] theorem exec_fmaS (o : S3X) (s : State) : exec (.fmaS o) s = execFmaS o s := rfl
@[simp] theorem exec_fmsS (o : S3X) (s : State) : exec (.fmsS o) s = execFmsS o s := rfl
@[simp] theorem exec_fnmaS (o : S3X) (s : State) : exec (.fnmaS o) s = execFnmaS o s := rfl
@[simp] theorem exec_fnmsS (o : S3X) (s : State) : exec (.fnmsS o) s = execFnmsS o s := rfl
@[simp] theorem exec_fmaD (o : S3X) (s : State) : exec (.fmaD o) s = execFmaD o s := rfl
@[simp] theorem exec_fmsD (o : S3X) (s : State) : exec (.fmsD o) s = execFmsD o s := rfl
@[simp] theorem exec_fnmaD (o : S3X) (s : State) : exec (.fnmaD o) s = execFnmaD o s := rfl
@[simp] theorem exec_fnmsD (o : S3X) (s : State) : exec (.fnmsD o) s = execFnmsD o s := rfl
@[simp] theorem exec_feqS (o : S3) (s : State) : exec (.feqS o) s = execFeqS o s := rfl
@[simp] theorem exec_fltS (o : S3) (s : State) : exec (.fltS o) s = execFltS o s := rfl
@[simp] theorem exec_fleS (o : S3) (s : State) : exec (.fleS o) s = execFleS o s := rfl
@[simp] theorem exec_funS (o : S3) (s : State) : exec (.funS o) s = execFunS o s := rfl
@[simp] theorem exec_feqD (o : S3) (s : State) : exec (.feqD o) s = execFeqD o s := rfl
@[simp] theorem exec_fltD (o : S3) (s : State) : exec (.fltD o) s = execFltD o s := rfl
@[simp] theorem exec_fleD (o : S3) (s : State) : exec (.fleD o) s = execFleD o s := rfl
@[simp] theorem exec_funD (o : S3) (s : State) : exec (.funD o) s = execFunD o s := rfl
@[simp] theorem exec_cvtSD (o : S3) (s : State) : exec (.cvtSD o) s = execCvtSD o s := rfl
@[simp] theorem exec_cvtDS (o : S3) (s : State) : exec (.cvtDS o) s = execCvtDS o s := rfl
@[simp] theorem exec_cvtSL (o : S3) (s : State) : exec (.cvtSL o) s = execCvtSL o s := rfl
@[simp] theorem exec_cvtSLu (o : S3) (s : State) : exec (.cvtSLu o) s = execCvtSLu o s := rfl
@[simp] theorem exec_cvtDL (o : S3) (s : State) : exec (.cvtDL o) s = execCvtDL o s := rfl
@[simp] theorem exec_cvtDLu (o : S3) (s : State) : exec (.cvtDLu o) s = execCvtDLu o s := rfl
@[simp] theorem exec_cvtLS (o : S3) (s : State) : exec (.cvtLS o) s = execCvtLS o s := rfl
@[simp] theorem exec_cvtLuS (o : S3) (s : State) : exec (.cvtLuS o) s = execCvtLuS o s := rfl
@[simp] theorem exec_cvtLD (o : S3) (s : State) : exec (.cvtLD o) s = execCvtLD o s := rfl
@[simp] theorem exec_cvtLuD (o : S3) (s : State) : exec (.cvtLuD o) s = execCvtLuD o s := rfl
@[simp] theorem exec_cvtHS (o : S3) (s : State) : exec (.cvtHS o) s = execCvtHS o s := rfl
@[simp] theorem exec_cvtSH (o : S3) (s : State) : exec (.cvtSH o) s = execCvtSH o s := rfl
@[simp] theorem exec_br (o : Br) (s : State) : exec (.br o) s = execBr o s := rfl
@[simp] theorem exec_call (o : Br) (s : State) : exec (.call o) s = execCall o s := rfl
@[simp] theorem exec_jr (o : Ctl) (s : State) : exec (.jr o) s = execJr o s := rfl
@[simp] theorem exec_jrl (o : Ctl) (s : State) : exec (.jrl o) s = execJrl o s := rfl
@[simp] theorem exec_ret (o : Ctl) (s : State) : exec (.ret o) s = execRet o s := rfl
@[simp] theorem exec_loop (o : LoopI) (s : State) : exec (.loop o) s = execLoop o s := rfl
@[simp] theorem exec_nop (o : Ctl) (s : State) : exec (.nop o) s = execNop o s := rfl
@[simp] theorem exec_joinAll (o : Ctl) (s : State) : exec (.joinAll o) s = execJoinAll o s := rfl
@[simp] theorem exec_joinAny (o : Ctl) (s : State) : exec (.joinAny o) s = execJoinAny o s := rfl
@[simp] theorem exec_suspend (o : Ctl) (s : State) : exec (.suspend o) s = execSuspend o s := rfl
@[simp] theorem exec_yield (o : Ctl) (s : State) : exec (.yield o) s = execYield o s := rfl
@[simp] theorem exec_exit (o : Ctl) (s : State) : exec (.exit o) s = execExit o s := rfl
@[simp] theorem exec_trap (o : Ctl) (s : State) : exec (.trap o) s = execTrap o s := rfl
@[simp] theorem exec_brk (o : Ctl) (s : State) : exec (.brk o) s = execBrk o s := rfl
@[simp] theorem exec_dsync (o : Ctl) (s : State) : exec (.dsync o) s = execDsync o s := rfl
@[simp] theorem exec_ifence (o : Ctl) (s : State) : exec (.ifence o) s = execIfence o s := rfl
@[simp] theorem exec_rft (o : Ctl) (s : State) : exec (.rft o) s = execRft o s := rfl
@[simp] theorem exec_seghint (o : Ctl) (s : State) : exec (.seghint o) s = execSeghint o s := rfl
@[simp] theorem exec_mfc (o : Ctl) (s : State) : exec (.mfc o) s = execMfc o s := rfl
@[simp] theorem exec_mtc (o : Ctl) (s : State) : exec (.mtc o) s = execMtc o s := rfl
@[simp] theorem exec_mset (o : Ctl) (s : State) : exec (.mset o) s = execMset o s := rfl
@[simp] theorem exec_mclr (o : Ctl) (s : State) : exec (.mclr o) s = execMclr o s := rfl
@[simp] theorem exec_pfxm (o : PfxM) (s : State) : exec (.pfxm o) s = execPfxm o s := rfl
@[simp] theorem exec_pfxa (o : PfxA) (s : State) : exec (.pfxa o) s = execPfxa o s := rfl
@[simp] theorem exec_ld8 (o : Mem) (s : State) : exec (.ld8 o) s = execLd8 o s := rfl
@[simp] theorem exec_ld16 (o : Mem) (s : State) : exec (.ld16 o) s = execLd16 o s := rfl
@[simp] theorem exec_ld32 (o : Mem) (s : State) : exec (.ld32 o) s = execLd32 o s := rfl
@[simp] theorem exec_ld64 (o : Mem) (s : State) : exec (.ld64 o) s = execLd64 o s := rfl
@[simp] theorem exec_ld8s (o : Mem) (s : State) : exec (.ld8s o) s = execLd8s o s := rfl
@[simp] theorem exec_ld16s (o : Mem) (s : State) : exec (.ld16s o) s = execLd16s o s := rfl
@[simp] theorem exec_ld32s (o : Mem) (s : State) : exec (.ld32s o) s = execLd32s o s := rfl
@[simp] theorem exec_st8 (o : Mem) (s : State) : exec (.st8 o) s = execSt8 o s := rfl
@[simp] theorem exec_st16 (o : Mem) (s : State) : exec (.st16 o) s = execSt16 o s := rfl
@[simp] theorem exec_st32 (o : Mem) (s : State) : exec (.st32 o) s = execSt32 o s := rfl
@[simp] theorem exec_st64 (o : Mem) (s : State) : exec (.st64 o) s = execSt64 o s := rfl
@[simp] theorem exec_vld (o : VMem) (s : State) : exec (.vld o) s = execVld o s := rfl
@[simp] theorem exec_vst (o : VMem) (s : State) : exec (.vst o) s = execVst o s := rfl
@[simp] theorem exec_vgath (o : VIdx) (s : State) : exec (.vgath o) s = execVgath o s := rfl
@[simp] theorem exec_vscat (o : VIdx) (s : State) : exec (.vscat o) s = execVscat o s := rfl
@[simp] theorem exec_aadd (o : Atom) (s : State) : exec (.aadd o) s = execAadd o s := rfl
@[simp] theorem exec_amin (o : Atom) (s : State) : exec (.amin o) s = execAmin o s := rfl
@[simp] theorem exec_amax (o : Atom) (s : State) : exec (.amax o) s = execAmax o s := rfl
@[simp] theorem exec_aand (o : Atom) (s : State) : exec (.aand o) s = execAand o s := rfl
@[simp] theorem exec_aor (o : Atom) (s : State) : exec (.aor o) s = execAor o s := rfl
@[simp] theorem exec_axor (o : Atom) (s : State) : exec (.axor o) s = execAxor o s := rfl
@[simp] theorem exec_axchg (o : Atom) (s : State) : exec (.axchg o) s = execAxchg o s := rfl
@[simp] theorem exec_afadd (o : Atom) (s : State) : exec (.afadd o) s = execAfadd o s := rfl
@[simp] theorem exec_acas (o : Acas) (s : State) : exec (.acas o) s = execAcas o s := rfl
@[simp] theorem exec_tlook (o : Ctl) (s : State) : exec (.tlook o) s = execTlook o s := rfl
@[simp] theorem exec_tset (o : Ctl) (s : State) : exec (.tset o) s = execTset o s := rfl
@[simp] theorem exec_tinv (o : Ctl) (s : State) : exec (.tinv o) s = execTinv o s := rfl
@[simp] theorem exec_tpin (o : Ctl) (s : State) : exec (.tpin o) s = execTpin o s := rfl
@[simp] theorem exec_tunpin (o : Ctl) (s : State) : exec (.tunpin o) s = execTunpin o s := rfl
@[simp] theorem exec_monitor (o : Ctl) (s : State) : exec (.monitor o) s = execMonitor o s := rfl
@[simp] theorem exec_waitm (o : Ctl) (s : State) : exec (.waitm o) s = execWaitm o s := rfl
@[simp] theorem exec_fence (o : Ctl) (s : State) : exec (.fence o) s = execFence o s := rfl
@[simp] theorem exec_efence (o : Ctl) (s : State) : exec (.efence o) s = execEfence o s := rfl
@[simp] theorem exec_cinv (o : Ctl) (s : State) : exec (.cinv o) s = execCinv o s := rfl
@[simp] theorem exec_cwb (o : Ctl) (s : State) : exec (.cwb o) s = execCwb o s := rfl
@[simp] theorem exec_cpref (o : Ctl) (s : State) : exec (.cpref o) s = execCpref o s := rfl
@[simp] theorem exec_defer (o : Vec) (s : State) : exec (.defer o) s = execDefer o s := rfl
@[simp] theorem exec_dqcnt (o : Vec) (s : State) : exec (.dqcnt o) s = execDqcnt o s := rfl
@[simp] theorem exec_dqdrain (o : Vec) (s : State) : exec (.dqdrain o) s = execDqdrain o s := rfl
@[simp] theorem exec_vadd (o : Vec) (s : State) : exec (.vadd o) s = execVadd o s := rfl
@[simp] theorem exec_vsub (o : Vec) (s : State) : exec (.vsub o) s = execVsub o s := rfl
@[simp] theorem exec_vmul (o : Vec) (s : State) : exec (.vmul o) s = execVmul o s := rfl
@[simp] theorem exec_vmin (o : Vec) (s : State) : exec (.vmin o) s = execVmin o s := rfl
@[simp] theorem exec_vmax (o : Vec) (s : State) : exec (.vmax o) s = execVmax o s := rfl
@[simp] theorem exec_vabs (o : Vec) (s : State) : exec (.vabs o) s = execVabs o s := rfl
@[simp] theorem exec_vneg (o : Vec) (s : State) : exec (.vneg o) s = execVneg o s := rfl
@[simp] theorem exec_vmulh (o : Vec) (s : State) : exec (.vmulh o) s = execVmulh o s := rfl
@[simp] theorem exec_vand (o : Vec) (s : State) : exec (.vand o) s = execVand o s := rfl
@[simp] theorem exec_vor (o : Vec) (s : State) : exec (.vor o) s = execVor o s := rfl
@[simp] theorem exec_vxor (o : Vec) (s : State) : exec (.vxor o) s = execVxor o s := rfl
@[simp] theorem exec_vandn (o : Vec) (s : State) : exec (.vandn o) s = execVandn o s := rfl
@[simp] theorem exec_vnot (o : Vec) (s : State) : exec (.vnot o) s = execVnot o s := rfl
@[simp] theorem exec_vsll (o : Vec) (s : State) : exec (.vsll o) s = execVsll o s := rfl
@[simp] theorem exec_vsrl (o : Vec) (s : State) : exec (.vsrl o) s = execVsrl o s := rfl
@[simp] theorem exec_vsra (o : Vec) (s : State) : exec (.vsra o) s = execVsra o s := rfl
@[simp] theorem exec_vlop3 (o : Vec) (s : State) : exec (.vlop3 o) s = execVlop3 o s := rfl
@[simp] theorem exec_vfma (o : Vec) (s : State) : exec (.vfma o) s = execVfma o s := rfl
@[simp] theorem exec_vfms (o : Vec) (s : State) : exec (.vfms o) s = execVfms o s := rfl
@[simp] theorem exec_vfnma (o : Vec) (s : State) : exec (.vfnma o) s = execVfnma o s := rfl
@[simp] theorem exec_vfnms (o : Vec) (s : State) : exec (.vfnms o) s = execVfnms o s := rfl
@[simp] theorem exec_veq (o : Vec) (s : State) : exec (.veq o) s = execVeq o s := rfl
@[simp] theorem exec_vne (o : Vec) (s : State) : exec (.vne o) s = execVne o s := rfl
@[simp] theorem exec_vlt (o : Vec) (s : State) : exec (.vlt o) s = execVlt o s := rfl
@[simp] theorem exec_vle (o : Vec) (s : State) : exec (.vle o) s = execVle o s := rfl
@[simp] theorem exec_vgt (o : Vec) (s : State) : exec (.vgt o) s = execVgt o s := rfl
@[simp] theorem exec_vge (o : Vec) (s : State) : exec (.vge o) s = execVge o s := rfl
@[simp] theorem exec_vun (o : Vec) (s : State) : exec (.vun o) s = execVun o s := rfl
@[simp] theorem exec_vradd (o : Vec) (s : State) : exec (.vradd o) s = execVradd o s := rfl
@[simp] theorem exec_vrmax (o : Vec) (s : State) : exec (.vrmax o) s = execVrmax o s := rfl
@[simp] theorem exec_vrmin (o : Vec) (s : State) : exec (.vrmin o) s = execVrmin o s := rfl
@[simp] theorem exec_vrand (o : Vec) (s : State) : exec (.vrand o) s = execVrand o s := rfl
@[simp] theorem exec_vshuf (o : Vec) (s : State) : exec (.vshuf o) s = execVshuf o s := rfl
@[simp] theorem exec_vslideu (o : Vec) (s : State) : exec (.vslideu o) s = execVslideu o s := rfl
@[simp] theorem exec_vslided (o : Vec) (s : State) : exec (.vslided o) s = execVslided o s := rfl
@[simp] theorem exec_vzip (o : Vec) (s : State) : exec (.vzip o) s = execVzip o s := rfl
@[simp] theorem exec_vunzip (o : Vec) (s : State) : exec (.vunzip o) s = execVunzip o s := rfl
@[simp] theorem exec_vmov (o : Vec) (s : State) : exec (.vmov o) s = execVmov o s := rfl
@[simp] theorem exec_vmovToScalar (o : Vec) (s : State) : exec (.vmovToScalar o) s = execVmovToScalar o s := rfl
@[simp] theorem exec_vbcst (o : Vec) (s : State) : exec (.vbcst o) s = execVbcst o s := rfl
@[simp] theorem exec_vbcstScalar (o : Vec) (s : State) : exec (.vbcstScalar o) s = execVbcstScalar o s := rfl
@[simp] theorem exec_vcvt (o : Vec) (s : State) : exec (.vcvt o) s = execVcvt o s := rfl
@[simp] theorem exec_vcvtq (o : Vec) (s : State) : exec (.vcvtq o) s = execVcvtq o s := rfl
@[simp] theorem exec_vdq (o : Vec) (s : State) : exec (.vdq o) s = execVdq o s := rfl
@[simp] theorem exec_vmaxexp (o : Vec) (s : State) : exec (.vmaxexp o) s = execVmaxexp o s := rfl
@[simp] theorem exec_vsclmvToVector (o : Vec) (s : State) : exec (.vsclmvToVector o) s = execVsclmvToVector o s := rfl
@[simp] theorem exec_vsclmvToScl (o : Vec) (s : State) : exec (.vsclmvToScl o) s = execVsclmvToScl o s := rfl
@[simp] theorem exec_vrcp (o : Vec) (s : State) : exec (.vrcp o) s = execVrcp o s := rfl
@[simp] theorem exec_vrsq (o : Vec) (s : State) : exec (.vrsq o) s = execVrsq o s := rfl
@[simp] theorem exec_vexp2 (o : Vec) (s : State) : exec (.vexp2 o) s = execVexp2 o s := rfl
@[simp] theorem exec_vlog2 (o : Vec) (s : State) : exec (.vlog2 o) s = execVlog2 o s := rfl
@[simp] theorem exec_vcmul (o : Vec) (s : State) : exec (.vcmul o) s = execVcmul o s := rfl
@[simp] theorem exec_vcmulj (o : Vec) (s : State) : exec (.vcmulj o) s = execVcmulj o s := rfl
@[simp] theorem exec_vcfma (o : Vec) (s : State) : exec (.vcfma o) s = execVcfma o s := rfl
@[simp] theorem exec_mand (o : Vec) (s : State) : exec (.mand o) s = execMand o s := rfl
@[simp] theorem exec_mor (o : Vec) (s : State) : exec (.mor o) s = execMor o s := rfl
@[simp] theorem exec_mxor (o : Vec) (s : State) : exec (.mxor o) s = execMxor o s := rfl
@[simp] theorem exec_mandn (o : Vec) (s : State) : exec (.mandn o) s = execMandn o s := rfl
@[simp] theorem exec_mnot (o : Vec) (s : State) : exec (.mnot o) s = execMnot o s := rfl
@[simp] theorem exec_mpopc (o : Vec) (s : State) : exec (.mpopc o) s = execMpopc o s := rfl
@[simp] theorem exec_mfirst (o : Vec) (s : State) : exec (.mfirst o) s = execMfirst o s := rfl
@[simp] theorem exec_skupdv (o : Vec) (s : State) : exec (.skupdv o) s = execSkupdv o s := rfl
@[simp] theorem exec_skqryv (o : Vec) (s : State) : exec (.skqryv o) s = execSkqryv o s := rfl
@[simp] theorem exec_eset (o : Eset) (s : State) : exec (.eset o) s = execEset o s := rfl
@[simp] theorem exec_mma (o : En) (s : State) : exec (.mma o) s = execMma o s := rfl
@[simp] theorem exec_mzero (o : En) (s : State) : exec (.mzero o) s = execMzero o s := rfl
@[simp] theorem exec_mdrain (o : En) (s : State) : exec (.mdrain o) s = execMdrain o s := rfl
@[simp] theorem exec_mcfg (o : En) (s : State) : exec (.mcfg o) s = execMcfg o s := rfl
@[simp] theorem exec_copy (o : En) (s : State) : exec (.copy o) s = execCopy o s := rfl
@[simp] theorem exec_cstrm (o : En) (s : State) : exec (.cstrm o) s = execCstrm o s := rfl
@[simp] theorem exec_twait (o : En) (s : State) : exec (.twait o) s = execTwait o s := rfl
@[simp] theorem exec_tcancel (o : En) (s : State) : exec (.tcancel o) s = execTcancel o s := rfl
@[simp] theorem exec_tdep (o : En) (s : State) : exec (.tdep o) s = execTdep o s := rfl
@[simp] theorem exec_skupd (o : En) (s : State) : exec (.skupd o) s = execSkupd o s := rfl
@[simp] theorem exec_skadd (o : En) (s : State) : exec (.skadd o) s = execSkadd o s := rfl
@[simp] theorem exec_skclr (o : En) (s : State) : exec (.skclr o) s = execSkclr o s := rfl
@[simp] theorem exec_phinit (o : En) (s : State) : exec (.phinit o) s = execPhinit o s := rfl
@[simp] theorem exec_phreg (o : En) (s : State) : exec (.phreg o) s = execPhreg o s := rfl
@[simp] theorem exec_phdrop (o : En) (s : State) : exec (.phdrop o) s = execPhdrop o s := rfl
@[simp] theorem exec_phsig (o : En) (s : State) : exec (.phsig o) s = execPhsig o s := rfl
@[simp] theorem exec_phwait (o : En) (s : State) : exec (.phwait o) s = execPhwait o s := rfl
@[simp] theorem exec_phsw (o : En) (s : State) : exec (.phsw o) s = execPhsw o s := rfl
@[simp] theorem exec_rdsend (o : En) (s : State) : exec (.rdsend o) s = execRdsend o s := rfl
@[simp] theorem exec_xwr (o : En) (s : State) : exec (.xwr o) s = execXwr o s := rfl
@[simp] theorem exec_xwrPlace (o : En) (s : State) : exec (.xwrPlace o) s = execXwrPlace o s := rfl
@[simp] theorem exec_xrd (o : En) (s : State) : exec (.xrd o) s = execXrd o s := rfl
@[simp] theorem exec_xamo (o : En) (s : State) : exec (.xamo o) s = execXamo o s := rfl
@[simp] theorem exec_xarm (o : En) (s : State) : exec (.xarm o) s = execXarm o s := rfl
@[simp] theorem exec_xcoll (o : En) (s : State) : exec (.xcoll o) s = execXcoll o s := rfl
@[simp] theorem exec_tmark (o : En) (s : State) : exec (.tmark o) s = execTmark o s := rfl
@[simp] theorem exec_dolAdd (o : DReg) (s : State) : exec (.dolAdd o) s = execDolAdd o s := rfl
@[simp] theorem exec_dolSub (o : DReg) (s : State) : exec (.dolSub o) s = execDolSub o s := rfl
@[simp] theorem exec_dolAnd (o : DReg) (s : State) : exec (.dolAnd o) s = execDolAnd o s := rfl
@[simp] theorem exec_dolOr (o : DReg) (s : State) : exec (.dolOr o) s = execDolOr o s := rfl
@[simp] theorem exec_dolXor (o : DReg) (s : State) : exec (.dolXor o) s = execDolXor o s := rfl
@[simp] theorem exec_dolSll (o : DReg) (s : State) : exec (.dolSll o) s = execDolSll o s := rfl
@[simp] theorem exec_dolSrl (o : DReg) (s : State) : exec (.dolSrl o) s = execDolSrl o s := rfl
@[simp] theorem exec_dolAddi (o : DImm) (s : State) : exec (.dolAddi o) s = execDolAddi o s := rfl
@[simp] theorem exec_dolAndi (o : DImm) (s : State) : exec (.dolAndi o) s = execDolAndi o s := rfl
@[simp] theorem exec_dolOri (o : DImm) (s : State) : exec (.dolOri o) s = execDolOri o s := rfl
@[simp] theorem exec_dolSlli (o : DImm) (s : State) : exec (.dolSlli o) s = execDolSlli o s := rfl
@[simp] theorem exec_dolSrli (o : DImm) (s : State) : exec (.dolSrli o) s = execDolSrli o s := rfl
@[simp] theorem exec_dolLui (o : DImm) (s : State) : exec (.dolLui o) s = execDolLui o s := rfl
@[simp] theorem exec_dolLw (o : DImm) (s : State) : exec (.dolLw o) s = execDolLw o s := rfl
@[simp] theorem exec_dolSw (o : DImm) (s : State) : exec (.dolSw o) s = execDolSw o s := rfl
@[simp] theorem exec_dolLdc (o : DImm) (s : State) : exec (.dolLdc o) s = execDolLdc o s := rfl
@[simp] theorem exec_dolStc (o : DImm) (s : State) : exec (.dolStc o) s = execDolStc o s := rfl
@[simp] theorem exec_dolBeq (o : DBr) (s : State) : exec (.dolBeq o) s = execDolBeq o s := rfl
@[simp] theorem exec_dolBne (o : DBr) (s : State) : exec (.dolBne o) s = execDolBne o s := rfl
@[simp] theorem exec_dolBlt (o : DBr) (s : State) : exec (.dolBlt o) s = execDolBlt o s := rfl
@[simp] theorem exec_dolBltu (o : DBr) (s : State) : exec (.dolBltu o) s = execDolBltu o s := rfl
@[simp] theorem exec_dolJalr (o : DImm) (s : State) : exec (.dolJalr o) s = execDolJalr o s := rfl
@[simp] theorem exec_dolEwait (o : DImm) (s : State) : exec (.dolEwait o) s = execDolEwait o s := rfl
@[simp] theorem exec_dolRetx (o : DReg) (s : State) : exec (.dolRetx o) s = execDolRetx o s := rfl
@[simp] theorem exec_dolSetwin (o : DReg) (s : State) : exec (.dolSetwin o) s = execDolSetwin o s := rfl
@[simp] theorem exec_dolSetpath (o : DReg) (s : State) : exec (.dolSetpath o) s = execDolSetpath o s := rfl
@[simp] theorem exec_dolArmtmr (o : DReg) (s : State) : exec (.dolArmtmr o) s = execDolArmtmr o s := rfl
@[simp] theorem exec_dolSack (o : DReg) (s : State) : exec (.dolSack o) s = execDolSack o s := rfl
@[simp] theorem exec_dolNaksend (o : DReg) (s : State) : exec (.dolNaksend o) s = execDolNaksend o s := rfl
@[simp] theorem exec_dolPostc (o : DReg) (s : State) : exec (.dolPostc o) s = execDolPostc o s := rfl
@[simp] theorem exec_dolFailc (o : DReg) (s : State) : exec (.dolFailc o) s = execDolFailc o s := rfl
@[simp] theorem exec_dolRdstat (o : DReg) (s : State) : exec (.dolRdstat o) s = execDolRdstat o s := rfl
@[simp] theorem exec_dolWrstat (o : DReg) (s : State) : exec (.dolWrstat o) s = execDolWrstat o s := rfl
@[simp] theorem exec_dolHalt (o : DReg) (s : State) : exec (.dolHalt o) s = execDolHalt o s := rfl
@[simp] theorem exec_dolTrap (o : DImm) (s : State) : exec (.dolTrap o) s = execDolTrap o s := rfl
@[simp] theorem exec_loopEnd (c : Nat) (s : State) : exec (.loopEnd c) s = execLoopEnd c s := rfl
@[simp] theorem exec_monitorConfirm (c : Nat) (s : State) : exec (.monitorConfirm c) s = execMonitorConfirm c s := rfl
@[simp] theorem exec_monitorEvent (c : Nat) (code : Nat) (s : State) : exec (.monitorEvent c code) s = execMonitorEvent c code s := rfl
@[simp] theorem exec_waitmTimeout (c : Nat) (s : State) : exec (.waitmTimeout c) s = execWaitmTimeout c s := rfl
@[simp] theorem exec_queueSpillRefill (q : SpillQueue) (s : State) : exec (.queueSpillRefill q) s = execQueueSpillRefill q s := rfl
@[simp] theorem exec_sketchUpdateApply (c : Nat) (ix : Nat) (s : State) : exec (.sketchUpdateApply c ix) s = execSketchUpdateApply c ix s := rfl
@[simp] theorem exec_sketchQueryDone (c : Nat) (ix : Nat) (s : State) : exec (.sketchQueryDone c ix) s = execSketchQueryDone c ix s := rfl
@[simp] theorem exec_phaserCommandArrive (c : Nat) (ix : Nat) (s : State) : exec (.phaserCommandArrive c ix) s = execPhaserCommandArrive c ix s := rfl
@[simp] theorem exec_phaserSignal (c : Nat) (ix : Nat) (s : State) : exec (.phaserSignal c ix) s = execPhaserSignal c ix s := rfl
@[simp] theorem exec_phaserWaitComplete (c : Nat) (s : State) : exec (.phaserWaitComplete c) s = execPhaserWaitComplete c s := rfl
@[simp] theorem exec_exposedWriteback (c : Nat) (s : State) : exec (.exposedWriteback c) s = execExposedWriteback c s := rfl
@[simp] theorem exec_loadComplete (c : Nat) (ix : Nat) (s : State) : exec (.loadComplete c ix) s = execLoadComplete c ix s := rfl
@[simp] theorem exec_memoryPerform (c : Nat) (ix : Nat) (s : State) : exec (.memoryPerform c ix) s = execMemoryPerform c ix s := rfl
@[simp] theorem exec_dieBatchWriteback (d : Nat) (b : DieBatch) (s : State) : exec (.dieBatchWriteback d b) s = execDieBatchWriteback d b s := rfl
@[simp] theorem exec_pageWalk (d : Nat) (va : BitVec 52) (s : State) : exec (.pageWalk d va) s = execPageWalk d va s := rfl
@[simp] theorem exec_streamDeliver (dm : Nat) (s : State) : exec (.streamDeliver dm) s = execStreamDeliver dm s := rfl
@[simp] theorem exec_finderFill (c : Nat) (a : BitVec 52) (s : State) : exec (.finderFill c a) s = execFinderFill c a s := rfl
@[simp] theorem exec_segmentLoad (dm : Nat) (a : BitVec 52) (s : State) : exec (.segmentLoad dm a) s = execSegmentLoad dm a s := rfl
@[simp] theorem exec_joinComplete (dm : Nat) (s : State) : exec (.joinComplete dm) s = execJoinComplete dm s := rfl
@[simp] theorem exec_joinAnyClose (dm : Nat) (s : State) : exec (.joinAnyClose dm) s = execJoinAnyClose dm s := rfl
@[simp] theorem exec_waitBudgetTick (c : Nat) (s : State) : exec (.waitBudgetTick c) s = execWaitBudgetTick c s := rfl
@[simp] theorem exec_trapEntry (c : Nat) (cause : BitVec 6) (info : BitVec 64) (s : State) : exec (.trapEntry c cause info) s = execTrapEntry c cause info s := rfl
@[simp] theorem exec_budgetStop (c : Nat) (s : State) : exec (.budgetStop c) s = execBudgetStop c s := rfl
@[simp] theorem exec_continuationStart (dm : Nat) (s : State) : exec (.continuationStart dm) s = execContinuationStart dm s := rfl
@[simp] theorem exec_readyAging (d : Nat) (s : State) : exec (.readyAging d) s = execReadyAging d s := rfl
@[simp] theorem exec_wakePortStore (c : Nat) (ix : Nat) (s : State) : exec (.wakePortStore c ix) s = execWakePortStore c ix s := rfl
@[simp] theorem exec_wakePortRead (c : Nat) (ix : Nat) (s : State) : exec (.wakePortRead c ix) s = execWakePortRead c ix s := rfl
@[simp] theorem exec_launchComplete (l : Nat) (s : State) : exec (.launchComplete l) s = execLaunchComplete l s := rfl
@[simp] theorem exec_jobStart (c : Nat) (eng : Nat) (s : State) : exec (.jobStart c eng) s = execJobStart c eng s := rfl
@[simp] theorem exec_jobEnd (c : Nat) (slot : Nat) (s : State) : exec (.jobEnd c slot) s = execJobEnd c slot s := rfl
@[simp] theorem exec_jobFault (c : Nat) (slot : Nat) (cause : BitVec 6) (s : State) : exec (.jobFault c slot cause) s = execJobFault c slot cause s := rfl
@[simp] theorem exec_jobPark (c : Nat) (slot : Nat) (a : BitVec 64) (s : State) : exec (.jobPark c slot a) s = execJobPark c slot a s := rfl
@[simp] theorem exec_copyGranule (c : Nat) (slot : Nat) (s : State) : exec (.copyGranule c slot) s = execCopyGranule c slot s := rfl
@[simp] theorem exec_cstrmGranule (c : Nat) (slot : Nat) (s : State) : exec (.cstrmGranule c slot) s = execCstrmGranule c slot s := rfl
@[simp] theorem exec_mmaStep (c : Nat) (slot : Nat) (s : State) : exec (.mmaStep c slot) s = execMmaStep c slot s := rfl
@[simp] theorem exec_mcfgApply (c : Nat) (arr : Nat) (s : State) : exec (.mcfgApply c arr) s = execMcfgApply c arr s := rfl
@[simp] theorem exec_sketchJobGroup (c : Nat) (slot : Nat) (s : State) : exec (.sketchJobGroup c slot) s = execSketchJobGroup c slot s := rfl
@[simp] theorem exec_reductionHandover (c : Nat) (slot : Nat) (s : State) : exec (.reductionHandover c slot) s = execReductionHandover c slot s := rfl
@[simp] theorem exec_routerCombine (d : Nat) (r : Nat) (s : State) : exec (.routerCombine d r) s = execRouterCombine d r s := rfl
@[simp] theorem exec_reductionDone (c : Nat) (slot : Nat) (s : State) : exec (.reductionDone c slot) s = execReductionDone c slot s := rfl
@[simp] theorem exec_reductionTimeout (c : Nat) (slot : Nat) (s : State) : exec (.reductionTimeout c slot) s = execReductionTimeout c slot s := rfl
@[simp] theorem exec_traceRecordWrite (c : Nat) (s : State) : exec (.traceRecordWrite c) s = execTraceRecordWrite c s := rfl
@[simp] theorem exec_sampleTrigger (c : Nat) (s : State) : exec (.sampleTrigger c) s = execSampleTrigger c s := rfl
@[simp] theorem exec_pmcOverflow (c : Nat) (n : Nat) (s : State) : exec (.pmcOverflow c n) s = execPmcOverflow c n s := rfl
@[simp] theorem exec_sqRecordWrite (d : Nat) (s : State) : exec (.sqRecordWrite d) s = execSqRecordWrite d s := rfl
@[simp] theorem exec_controlSpaceWrite (d : Nat) (off : Nat) (v : BitVec 64) (s : State) : exec (.controlSpaceWrite d off v) s = execControlSpaceWrite d off v s := rfl
@[simp] theorem exec_ccbImageWrite (c : Nat) (n : Nat) (v : BitVec 64) (s : State) : exec (.ccbImageWrite c n v) s = execCcbImageWrite c n v s := rfl
@[simp] theorem exec_resume (c : Nat) (s : State) : exec (.resume c) s = execResume c s := rfl
@[simp] theorem exec_kill (c : Nat) (s : State) : exec (.kill c) s = execKill c s := rfl
@[simp] theorem exec_stop (c : Nat) (s : State) : exec (.stop c) s = execStop c s := rfl
@[simp] theorem exec_preempt (c : Nat) (s : State) : exec (.preempt c) s = execPreempt c s := rfl
@[simp] theorem exec_jobresume (c : Nat) (slot : Nat) (s : State) : exec (.jobresume c slot) s = execJobresume c slot s := rfl
@[simp] theorem exec_jobkill (c : Nat) (slot : Nat) (s : State) : exec (.jobkill c slot) s = execJobkill c slot s := rfl
@[simp] theorem exec_park (c : Nat) (s : State) : exec (.park c) s = execPark c s := rfl
@[simp] theorem exec_victimStop (dm : Nat) (s : State) : exec (.victimStop dm) s = execVictimStop dm s := rfl
@[simp] theorem exec_bankClaim (c : Nat) (b : Nat) (s : State) : exec (.bankClaim c b) s = execBankClaim c b s := rfl
@[simp] theorem exec_victimRestore (dm : Nat) (s : State) : exec (.victimRestore dm) s = execVictimRestore dm s := rfl
@[simp] theorem exec_tlbicmd (d : Nat) (v : BitVec 64) (s : State) : exec (.tlbicmd d v) s = execTlbicmd d v s := rfl
@[simp] theorem exec_tlbiDone (d : Nat) (s : State) : exec (.tlbiDone d) s = execTlbiDone d s := rfl
@[simp] theorem exec_softError (e : SoftErr) (s : State) : exec (.softError e) s = execSoftError e s := rfl
@[simp] theorem exec_remoteResponse (c : Nat) (r : RemoteAnswer) (s : State) : exec (.remoteResponse c r) s = execRemoteResponse c r s := rfl
@[simp] theorem exec_remoteRejectionHeld (c : Nat) (a : BitVec 64) (s : State) : exec (.remoteRejectionHeld c a) s = execRemoteRejectionHeld c a s := rfl
@[simp] theorem exec_pdcOpen (p : PdcKey) (s : State) : exec (.pdcOpen p) s = execPdcOpen p s := rfl
@[simp] theorem exec_pdcIdleClose (k : Nat) (ix : Nat) (s : State) : exec (.pdcIdleClose k ix) s = execPdcIdleClose k ix s := rfl
@[simp] theorem exec_packetSend (k : Nat) (ix : Nat) (s : State) : exec (.packetSend k ix) s = execPacketSend k ix s := rfl
@[simp] theorem exec_ackReceived (k : Nat) (ix : Nat) (a : AckInfo) (s : State) : exec (.ackReceived k ix a) s = execAckReceived k ix a s := rfl
@[simp] theorem exec_trimNakReceived (k : Nat) (ix : Nat) (psn : BitVec 32) (s : State) : exec (.trimNakReceived k ix psn) s = execTrimNakReceived k ix psn s := rfl
@[simp] theorem exec_notReadyNakReceived (k : Nat) (ix : Nat) (psn : BitVec 32) (s : State) : exec (.notReadyNakReceived k ix psn) s = execNotReadyNakReceived k ix psn s := rfl
@[simp] theorem exec_rejectingNakReceived (k : Nat) (ix : Nat) (psn : BitVec 32) (reason : Nat) (s : State) : exec (.rejectingNakReceived k ix psn reason) s = execRejectingNakReceived k ix psn reason s := rfl
@[simp] theorem exec_transportTimeout (c : Nat) (slot : Nat) (s : State) : exec (.transportTimeout c slot) s = execTransportTimeout c slot s := rfl
@[simp] theorem exec_rmaWriteRequest (r : RmaReq) (s : State) : exec (.rmaWriteRequest r) s = execRmaWriteRequest r s := rfl
@[simp] theorem exec_rmaReadRequest (r : RmaReq) (s : State) : exec (.rmaReadRequest r) s = execRmaReadRequest r s := rfl
@[simp] theorem exec_rmaAtomicRequest (r : RmaReq) (s : State) : exec (.rmaAtomicRequest r) s = execRmaAtomicRequest r s := rfl
@[simp] theorem exec_incomingSend (r : RmaReq) (s : State) : exec (.incomingSend r) s = execIncomingSend r s := rfl
@[simp] theorem exec_placementPacket (p : PlacePkt) (s : State) : exec (.placementPacket p) s = execPlacementPacket p s := rfl
@[simp] theorem exec_targetAutoAck (k : Nat) (ix : Nat) (s : State) : exec (.targetAutoAck k ix) s = execTargetAutoAck k ix s := rfl
@[simp] theorem exec_pathfail (port : Nat) (s : State) : exec (.pathfail port) s = execPathfail port s := rfl
@[simp] theorem exec_linkup (port : Nat) (s : State) : exec (.linkup port) s = execLinkup port s := rfl
@[simp] theorem exec_lcTimerExpiry (k : Nat) (ix : Nat) (s : State) : exec (.lcTimerExpiry k ix) s = execLcTimerExpiry k ix s := rfl
@[simp] theorem exec_collectivePacket (p : CollPkt) (s : State) : exec (.collectivePacket p) s = execCollectivePacket p s := rfl
@[simp] theorem exec_collectiveDone (c : Nat) (slot : Nat) (s : State) : exec (.collectiveDone c slot) s = execCollectiveDone c slot s := rfl
@[simp] theorem exec_collectiveTimeout (c : Nat) (slot : Nat) (s : State) : exec (.collectiveTimeout c slot) s = execCollectiveTimeout c slot s := rfl
@[simp] theorem exec_ewaitWake (k : Nat) (s : State) : exec (.ewaitWake k) s = execEwaitWake k s := rfl
@[simp] theorem exec_lcRestart (k : Nat) (s : State) : exec (.lcRestart k) s = execLcRestart k s := rfl
@[simp] theorem exec_queueSlot (q : Nat) (s : State) : exec (.queueSlot q) s = execQueueSlot q s := rfl
@[simp] theorem exec_queueEnable (q : Nat) (s : State) : exec (.queueEnable q) s = execQueueEnable q s := rfl
@[simp] theorem exec_queueDisable (q : Nat) (s : State) : exec (.queueDisable q) s = execQueueDisable q s := rfl
@[simp] theorem exec_queueRelease (q : Nat) (s : State) : exec (.queueRelease q) s = execQueueRelease q s := rfl
@[simp] theorem exec_pktNop (sync : Bool) (len : BitVec 8) (h : BitVec 32) (s : State) : exec (.pktNop sync len h) s = execPktNop sync len h s := rfl
@[simp] theorem exec_launch (sync : Bool) (sv : BitVec 64) (cw : BitVec 64) (s : State) : exec (.launch sync sv cw) s = execLaunch sync sv cw s := rfl
@[simp] theorem exec_launchPre (sync : Bool) (sv : BitVec 64) (cw : BitVec 64) (s : State) : exec (.launchPre sync sv cw) s = execLaunchPre sync sv cw s := rfl
@[simp] theorem exec_write32 (sync : Bool) (v : BitVec 32) (a : BitVec 64) (s : State) : exec (.write32 sync v a) s = execWrite32 sync v a s := rfl
@[simp] theorem exec_write64 (sync : Bool) (a : BitVec 64) (v : BitVec 64) (s : State) : exec (.write64 sync a v) s = execWrite64 sync a v s := rfl
@[simp] theorem exec_pktCopy (sync : Bool) (src : BitVec 64) (dst : BitVec 64) (len : BitVec 33) (s : State) : exec (.pktCopy sync src dst len) s = execPktCopy sync src dst len s := rfl
@[simp] theorem exec_pktCopyDone (q : Nat) (ix : Nat) (s : State) : exec (.pktCopyDone q ix) s = execPktCopyDone q ix s := rfl
@[simp] theorem exec_waitmem (sync : Bool) (p : WaitPkt) (s : State) : exec (.waitmem sync p) s = execWaitmem sync p s := rfl
@[simp] theorem exec_waitmemSkip (sync : Bool) (k : BitVec 8) (p : WaitPkt) (s : State) : exec (.waitmemSkip sync k p) s = execWaitmemSkip sync k p s := rfl
@[simp] theorem exec_waitmemTimeout (q : Nat) (s : State) : exec (.waitmemTimeout q) s = execWaitmemTimeout q s := rfl
@[simp] theorem exec_ib (sync : Bool) (a : BitVec 64) (len : BitVec 64) (s : State) : exec (.ib sync a len) s = execIb sync a len s := rfl
@[simp] theorem exec_pktLoop (sync : Bool) (n : BitVec 8) (count : BitVec 16) (s : State) : exec (.pktLoop sync n count) s = execPktLoop sync n count s := rfl
@[simp] theorem exec_ffence (sync : Bool) (s : State) : exec (.ffence sync) s = execFfence sync s := rfl
@[simp] theorem exec_signal (sync : Bool) (a : BitVec 64) (v : BitVec 64) (s : State) : exec (.signal sync a v) s = execSignal sync a v s := rfl
@[simp] theorem exec_signalPhaser (sync : Bool) (a : BitVec 64) (v : BitVec 64) (s : State) : exec (.signalPhaser sync a v) s = execSignalPhaser sync a v s := rfl
@[simp] theorem exec_replaymark (sync : Bool) (mark : BitVec 32) (s : State) : exec (.replaymark sync mark) s = execReplaymark sync mark s := rfl
@[simp] theorem exec_replaymarkHold (sync : Bool) (mark : BitVec 32) (s : State) : exec (.replaymarkHold sync mark) s = execReplaymarkHold sync mark s := rfl
@[simp] theorem exec_logRoomResume (q : Nat) (s : State) : exec (.logRoomResume q) s = execLogRoomResume q s := rfl
@[simp] theorem exec_powerGood (s : State) : exec .powerGood s = execPowerGood s := rfl
@[simp] theorem exec_bootStageAdvance (r : StageResult) (s : State) : exec (.bootStageAdvance r) s = execBootStageAdvance r s := rfl
@[simp] theorem exec_deviceReset (s : State) : exec .deviceReset s = execDeviceReset s := rfl
@[simp] theorem exec_reimage (img : FwImage) (s : State) : exec (.reimage img) s = execReimage img s := rfl
@[simp] theorem exec_attestationRequest (nonce : BitVec 256) (s : State) : exec (.attestationRequest nonce) s = execAttestationRequest nonce s := rfl
@[simp] theorem exec_keyMailboxGo (s : State) : exec .keyMailboxGo s = execKeyMailboxGo s := rfl
@[simp] theorem exec_keyMailboxErase (s : State) : exec .keyMailboxErase s = execKeyMailboxErase s := rfl
@[simp] theorem exec_droopSag (d : Nat) (s : State) : exec (.droopSag d) s = execDroopSag d s := rfl
@[simp] theorem exec_thermalThrottle (s : State) : exec .thermalThrottle s = execThermalThrottle s := rfl
@[simp] theorem exec_thermalRecover (s : State) : exec .thermalRecover s = execThermalRecover s := rfl
@[simp] theorem exec_thermalShutdown (s : State) : exec .thermalShutdown s = execThermalShutdown s := rfl
@[simp] theorem exec_trimmedPacketReceived (k : Nat) (ix : Nat) (psn : BitVec 32) (s : State) : exec (.trimmedPacketReceived k ix psn) s = execTrimmedPacketReceived k ix psn s := rfl
@[simp] theorem exec_droopEnd (d : Nat) (s : State) : exec (.droopEnd d) s = execDroopEnd d s := rfl

end Sys2Proof.Machine
end

