-- ==== Sys2Proof/Laws/State.lean ====
section
/-! SUPPORT. Laws of the state: sparse tables and memory, each register file and what one update leaves of every other field. -/

namespace Sys2Proof.Machine

/-! ## Sparse tables -/

/-- What is listed after a value is put in its place. -/
theorem tabGet_tabPut {α : Type} (t : List (Nat × α)) (k j : Nat) (v : α) :
    tabGet? (tabPut t k v) j = if j = k then some v else tabGet? t j := by
  induction t with
  | nil => simp only [tabPut, tabGet?, eq_comm (a := k)]
  | cons e r ih =>
    obtain ⟨i, w⟩ := e
    simp only [tabPut]
    split
    · simp only [tabGet?, ih]
      repeat' split
      all_goals first | rfl | omega
    · split
      · simp only [tabGet?]
        repeat' split
        all_goals first | rfl | omega
      · simp only [tabGet?]
        repeat' split
        all_goals first | rfl | omega

@[simp] theorem tabGet_tabPut_self {α : Type} (t : List (Nat × α)) (k : Nat) (v : α) : tabGet? (tabPut t k v) k = some v := by
  simp [tabGet_tabPut]

theorem tabGet_tabPut_ne {α : Type} (t : List (Nat × α)) {k j : Nat} (v : α) (h : j ≠ k) :
    tabGet? (tabPut t k v) j = tabGet? t j := by
  simp [tabGet_tabPut, h]

theorem tabSorted_cons {α : Type} (j : Nat) (w : α) (r : List (Nat × α)) :
    tabSorted ((j, w) :: r) = true ↔ (∀ e ∈ r.head?, j < e.1) ∧ tabSorted r = true := by
  cases r with
  | nil => simp [tabSorted]
  | cons e r => obtain ⟨k, v⟩ := e; simp [tabSorted]

/-- In a sorted table every later key is larger. -/
theorem tabSorted_lt {α : Type} {j : Nat} {w : α} {r : List (Nat × α)} (h : tabSorted ((j, w) :: r) = true) :
    ∀ e ∈ r, j < e.1 := by
  induction r generalizing j w with
  | nil => simp
  | cons e r ih =>
    obtain ⟨k, v⟩ := e
    rw [tabSorted_cons] at h
    have hk : j < k := h.1 (k, v) (by simp)
    intro e he
    rcases List.mem_cons.mp he with rfl | he
    · exact hk
    · exact Nat.lt_trans hk (ih h.2 e he)

theorem tabGet_none {α : Type} {r : List (Nat × α)} {j : Nat} (h : ∀ e ∈ r, j < e.1) : tabGet? r j = none := by
  induction r with
  | nil => rfl
  | cons e r ih =>
    obtain ⟨k, v⟩ := e
    have := h (k, v) (by simp)
    simp only [tabGet?]
    rw [if_neg (by simp at this; omega)]
    exact ih fun e he => h e (by simp [he])

theorem tabPut_mem {α : Type} {t : List (Nat × α)} {k : Nat} {v : α} {e : Nat × α} (h : e ∈ tabPut t k v) : e = (k, v) ∨ e ∈ t := by
  induction t with
  | nil => simp [tabPut] at h; exact .inl h
  | cons f r ih =>
    obtain ⟨i, w⟩ := f
    simp only [tabPut] at h
    split at h
    · rcases List.mem_cons.mp h with rfl | h
      · simp
      · rcases ih h with h | h <;> simp [h]
    · split at h
      · rcases List.mem_cons.mp h with rfl | h <;> simp [*]
      · rcases List.mem_cons.mp h with rfl | h <;> simp [*]

theorem tabDel_mem {α : Type} {t : List (Nat × α)} {k : Nat} {e : Nat × α} (h : e ∈ tabDel t k) : e ∈ t := by
  induction t with
  | nil => simp [tabDel] at h
  | cons f r ih =>
    obtain ⟨i, w⟩ := f
    simp only [tabDel] at h
    split at h
    · simp [h]
    · rcases List.mem_cons.mp h with rfl | h
      · simp
      · simp [ih h]

theorem tabSorted_of {α : Type} {j : Nat} {w : α} {r : List (Nat × α)} (h : tabSorted r = true) (hl : ∀ e ∈ r, j < e.1) :
    tabSorted ((j, w) :: r) = true := by
  rw [tabSorted_cons]
  refine ⟨fun e he => hl e ?_, h⟩
  cases r <;> simp_all

theorem tabSorted_put {α : Type} (t : List (Nat × α)) (k : Nat) (v : α) (h : tabSorted t = true) : tabSorted (tabPut t k v) = true := by
  induction t with
  | nil => rfl
  | cons e r ih =>
    obtain ⟨i, w⟩ := e
    have hr := ((tabSorted_cons i w r).mp h).2
    have hl := tabSorted_lt h
    simp only [tabPut]
    split
    · refine tabSorted_of (ih hr) fun e he => ?_
      rcases tabPut_mem he with rfl | he
      · assumption
      · exact hl e he
    · split
      · subst_vars; exact tabSorted_of hr hl
      · exact tabSorted_of h fun e he => by
          rcases List.mem_cons.mp he with rfl | he
          · simp only; omega
          · have := hl e he; omega

theorem tabSorted_del {α : Type} (t : List (Nat × α)) (k : Nat) (h : tabSorted t = true) : tabSorted (tabDel t k) = true := by
  induction t with
  | nil => rfl
  | cons e r ih =>
    obtain ⟨i, w⟩ := e
    have hr := ((tabSorted_cons i w r).mp h).2
    simp only [tabDel]
    split
    · exact hr
    · exact tabSorted_of (ih hr) fun e he => tabSorted_lt h e (tabDel_mem he)

/-- What is listed after a key of a sorted table is removed. -/
theorem tabGet_tabDel {α : Type} (t : List (Nat × α)) (k j : Nat) (h : tabSorted t = true) :
    tabGet? (tabDel t k) j = if j = k then none else tabGet? t j := by
  induction t with
  | nil => simp [tabDel, tabGet?]
  | cons e r ih =>
    obtain ⟨i, w⟩ := e
    have hr := ((tabSorted_cons i w r).mp h).2
    have hl := tabSorted_lt h
    simp only [tabDel]
    split
    · subst_vars
      split
      · subst_vars; exact tabGet_none hl
      · simp only [tabGet?]; rw [if_neg (by omega)]
    · simp only [tabGet?, ih hr]
      repeat' split
      all_goals first | rfl | omega

/-! ## Memory -/

theorem Memory.wf_iff (m : List Host.Cell) : Memory.wf m = true ↔ tabSorted m = true ∧ ∀ c ∈ m, c.2 ≠ 0#8 := by
  simp [Memory.wf]

theorem Memory.wf_put (m : List Host.Cell) (k : Nat) (b : Byte) (h : Memory.wf m = true) : Memory.wf (Memory.put m k b) = true := by
  rw [Memory.wf_iff] at h ⊢
  unfold Memory.put
  split
  · exact ⟨tabSorted_del m k h.1, fun c hc => h.2 c (tabDel_mem hc)⟩
  · refine ⟨tabSorted_put m k b h.1, fun c hc => ?_⟩
    rcases tabPut_mem hc with rfl | hc
    · assumption
    · exact h.2 c hc

/-- Every write keeps the canonical form. -/
theorem Memory.wf_write (m : List Host.Cell) (k n x : Nat) (h : Memory.wf m = true) : Memory.wf (Memory.write m k n x) = true := by
  induction n generalizing m k x with
  | zero => exact h
  | succ n ih => exact ih _ _ _ (Memory.wf_put m k _ h)

/-- What stays after cells are taken away is canonical. -/
theorem Memory.wf_filter (m : List Host.Cell) (f : Host.Cell → Bool) (h : Memory.wf m = true) : Memory.wf (m.filter f) = true := by
  rw [Memory.wf_iff] at h ⊢
  refine ⟨?_, fun c hc => h.2 c (List.mem_filter.mp hc).1⟩
  have h1 := h.1
  clear h
  induction m with
  | nil => rfl
  | cons e r ih =>
    obtain ⟨j, w⟩ := e
    have hr := ((tabSorted_cons j w r).mp h1).2
    simp only [List.filter_cons]
    split
    · exact tabSorted_of (ih hr) fun e he => tabSorted_lt h1 e (List.mem_filter.mp he).1
    · exact ih hr

theorem Memory.get_put (m : List Host.Cell) (k j : Nat) (b : Byte) (h : Memory.wf m = true) :
    Memory.get (Memory.put m k b) j = if j = k then b else Memory.get m j := by
  rw [Memory.wf_iff] at h
  unfold Memory.put Memory.get
  split
  · rw [tabGet_tabDel m k j h.1]
    split <;> simp_all
  · rw [tabGet_tabPut]
    split <;> simp

/-- A write leaves every byte outside it. -/
theorem Memory.get_write_out (m : List Host.Cell) (k n x a : Nat) (h : Memory.wf m = true) (ha : a < k ∨ k + n ≤ a) :
    Memory.get (Memory.write m k n x) a = Memory.get m a := by
  induction n generalizing m k x with
  | zero => rfl
  | succ n ih =>
    rw [Memory.write, ih _ _ _ (Memory.wf_put m k _ h) (by omega), Memory.get_put m k a _ h, if_neg (by omega)]

/-! ## Cores, domes and dies -/

@[simp] theorem State.core_setCore (s : State) (c : Nat) (x : Core) : (s.setCore c x).core c = x := by
  simp [State.core, State.setCore]

theorem State.core_setCore_ne (s : State) {c d : Nat} (x : Core) (h : d ≠ c) : (s.setCore c x).core d = s.core d := by
  simp [State.core, State.setCore, tabGet_tabPut, h]

@[simp] theorem State.me_setMe (s : State) (x : Core) : (s.setMe x).me = x := State.core_setCore s s.cur x

theorem State.core_setMe_ne (s : State) {d : Nat} (x : Core) (h : d ≠ s.cur) : (s.setMe x).core d = s.core d :=
  State.core_setCore_ne s x h

@[simp] theorem State.me_post (s : State) (l : Nat) (w : Write) : (s.post l w).me = s.me.post l w := State.me_setMe s _

@[simp] theorem State.dome_setDome (s : State) (d : Nat) (x : Dome) : (s.setDome d x).dome d = x := by
  simp [State.dome, State.setDome]

theorem State.dome_setDome_ne (s : State) {c d : Nat} (x : Dome) (h : d ≠ c) : (s.setDome c x).dome d = s.dome d := by
  simp [State.dome, State.setDome, tabGet_tabPut, h]

@[simp] theorem State.die_setDie (s : State) (d : Nat) (x : Die) : (s.setDie d x).die d = x := by
  simp [State.die, State.setDie]

theorem State.die_setDie_ne (s : State) {c d : Nat} (x : Die) (h : d ≠ c) : (s.setDie c x).die d = s.die d := by
  simp [State.die, State.setDie, tabGet_tabPut, h]

@[simp] theorem State.dome_setCore (s : State) (c d : Nat) (x : Core) : (s.setCore c x).dome d = s.dome d := rfl
@[simp] theorem State.die_setCore (s : State) (c d : Nat) (x : Core) : (s.setCore c x).die d = s.die d := rfl
@[simp] theorem State.core_setDome (s : State) (c d : Nat) (x : Dome) : (s.setDome d x).core c = s.core c := rfl
@[simp] theorem State.die_setDome (s : State) (c d : Nat) (x : Dome) : (s.setDome d x).die c = s.die c := rfl
@[simp] theorem State.core_setDie (s : State) (c d : Nat) (x : Die) : (s.setDie d x).core c = s.core c := rfl
@[simp] theorem State.dome_setDie (s : State) (c d : Nat) (x : Die) : (s.setDie d x).dome c = s.dome c := rfl
@[simp] theorem State.core_wr (s : State) (c k n x : Nat) : (s.wr k n x).core c = s.core c := rfl
@[simp] theorem State.dome_wr (s : State) (d k n x : Nat) : (s.wr k n x).dome d = s.dome d := rfl
@[simp] theorem State.die_wr (s : State) (d k n x : Nat) : (s.wr k n x).die d = s.die d := rfl

/-! ## Registers of a core -/

@[simp] theorem Core.getS_zero (c : Core) : c.getS 0#6 = 0#64 := rfl
@[simp] theorem Core.setS_zero (c : Core) (x : Word) : c.setS 0#6 x = c := rfl
@[simp] theorem Core.getP_zero (c : Core) : c.getP 0#5 = true := rfl
@[simp] theorem Core.setP_zero (c : Core) (b : Bool) : c.setP 0#5 b = c := rfl
@[simp] theorem Core.getM_zero (c : Core) : c.getM 0#3 = BitVec.allOnes 128 := rfl
@[simp] theorem Core.setM_zero (c : Core) (b x : Mask) : c.setM 0#3 b x = c := rfl

/-- What the scalar registers read after one is written. -/
theorem Core.getS_setS (c : Core) (r q : BitVec 6) (x : Word) (h : r ≠ 0#6) :
    (c.setS r x).getS q = if q = r then x else c.getS q := by
  unfold Core.setS Core.getS
  rw [if_neg h]
  by_cases hq : q = 0#6
  · subst hq
    simp [Ne.symm h]
  · simp only [hq, if_false, Vector.getElem_set, BitVec.toNat_inj, eq_comm (a := r)]

@[simp] theorem Core.post_pend (c : Core) (l : Nat) (w : Write) : (c.post l w).pend = c.pend ++ [{ left := l, w := w }] := rfl
@[simp] theorem Core.getS_post (c : Core) (l : Nat) (w : Write) (r : BitVec 6) : (c.post l w).getS r = c.getS r := rfl
@[simp] theorem Core.getP_post (c : Core) (l : Nat) (w : Write) (r : BitVec 5) : (c.post l w).getP r = c.getP r := rfl
@[simp] theorem Core.getM_post (c : Core) (l : Nat) (w : Write) (r : BitVec 3) : (c.post l w).getM r = c.getM r := rfl
@[simp] theorem Core.getV_post (c : Core) (l : Nat) (w : Write) (r : BitVec 5) : (c.post l w).getV r = c.getV r := rfl

/-! ## What one update leaves of each field -/

@[simp] theorem State.setCore_cur (s : State) (c : Nat) (x : Core) : (s.setCore c x).cur = s.cur := rfl
@[simp] theorem State.setCore_agenda (s : State) (c : Nat) (x : Core) : (s.setCore c x).agenda = s.agenda := rfl
@[simp] theorem State.setCore_eager (s : State) (c : Nat) (x : Core) : (s.setCore c x).eager = s.eager := rfl
@[simp] theorem State.setCore_issue (s : State) (c : Nat) (x : Core) : (s.setCore c x).issue = s.issue := rfl
@[simp] theorem State.setCore_freeCtr (s : State) (c : Nat) (x : Core) : (s.setCore c x).freeCtr = s.freeCtr := rfl
@[simp] theorem State.setCore_domes (s : State) (c : Nat) (x : Core) : (s.setCore c x).domes = s.domes := rfl
@[simp] theorem State.setCore_dies (s : State) (c : Nat) (x : Core) : (s.setCore c x).dies = s.dies := rfl
@[simp] theorem State.setCore_launches (s : State) (c : Nat) (x : Core) : (s.setCore c x).launches = s.launches := rfl
@[simp] theorem State.setCore_nextLaunch (s : State) (c : Nat) (x : Core) : (s.setCore c x).nextLaunch = s.nextLaunch := rfl
@[simp] theorem State.setCore_domeMask (s : State) (c : Nat) (x : Core) : (s.setCore c x).domeMask = s.domeMask := rfl
@[simp] theorem State.setCore_victims (s : State) (c : Nat) (x : Core) : (s.setCore c x).victims = s.victims := rfl
@[simp] theorem State.setCore_windows (s : State) (c : Nat) (x : Core) : (s.setCore c x).windows = s.windows := rfl
@[simp] theorem State.setCore_pdcs (s : State) (c : Nat) (x : Core) : (s.setCore c x).pdcs = s.pdcs := rfl
@[simp] theorem State.setCore_links (s : State) (c : Nat) (x : Core) : (s.setCore c x).links = s.links := rfl
@[simp] theorem State.setCore_ports (s : State) (c : Nat) (x : Core) : (s.setCore c x).ports = s.ports := rfl
@[simp] theorem State.setCore_down (s : State) (c : Nat) (x : Core) : (s.setCore c x).down = s.down := rfl
@[simp] theorem State.setCore_outq (s : State) (c : Nat) (x : Core) : (s.setCore c x).outq = s.outq := rfl
@[simp] theorem State.setCore_wire (s : State) (c : Nat) (x : Core) : (s.setCore c x).wire = s.wire := rfl
@[simp] theorem State.setCore_groups (s : State) (c : Nat) (x : Core) : (s.setCore c x).groups = s.groups := rfl
@[simp] theorem State.setCore_collBad (s : State) (c : Nat) (x : Core) : (s.setCore c x).collBad = s.collBad := rfl
@[simp] theorem State.setCore_collMute (s : State) (c : Nat) (x : Core) : (s.setCore c x).collMute = s.collMute := rfl
@[simp] theorem State.setCore_queues (s : State) (c : Nat) (x : Core) : (s.setCore c x).queues = s.queues := rfl
@[simp] theorem State.setCore_qturn (s : State) (c : Nat) (x : Core) : (s.setCore c x).qturn = s.qturn := rfl
@[simp] theorem State.setCore_pages (s : State) (c : Nat) (x : Core) : (s.setCore c x).pages = s.pages := rfl
@[simp] theorem State.setCore_root (s : State) (c : Nat) (x : Core) : (s.setCore c x).root = s.root := rfl
@[simp] theorem State.setCore_mem (s : State) (c : Nat) (x : Core) : (s.setCore c x).mem = s.mem := rfl

@[simp] theorem State.setMe_cur (s : State) (x : Core) : (s.setMe x).cur = s.cur := rfl
@[simp] theorem State.setMe_agenda (s : State) (x : Core) : (s.setMe x).agenda = s.agenda := rfl
@[simp] theorem State.setMe_eager (s : State) (x : Core) : (s.setMe x).eager = s.eager := rfl
@[simp] theorem State.setMe_issue (s : State) (x : Core) : (s.setMe x).issue = s.issue := rfl
@[simp] theorem State.setMe_freeCtr (s : State) (x : Core) : (s.setMe x).freeCtr = s.freeCtr := rfl
@[simp] theorem State.setMe_domes (s : State) (x : Core) : (s.setMe x).domes = s.domes := rfl
@[simp] theorem State.setMe_dies (s : State) (x : Core) : (s.setMe x).dies = s.dies := rfl
@[simp] theorem State.setMe_launches (s : State) (x : Core) : (s.setMe x).launches = s.launches := rfl
@[simp] theorem State.setMe_nextLaunch (s : State) (x : Core) : (s.setMe x).nextLaunch = s.nextLaunch := rfl
@[simp] theorem State.setMe_domeMask (s : State) (x : Core) : (s.setMe x).domeMask = s.domeMask := rfl
@[simp] theorem State.setMe_victims (s : State) (x : Core) : (s.setMe x).victims = s.victims := rfl
@[simp] theorem State.setMe_windows (s : State) (x : Core) : (s.setMe x).windows = s.windows := rfl
@[simp] theorem State.setMe_pdcs (s : State) (x : Core) : (s.setMe x).pdcs = s.pdcs := rfl
@[simp] theorem State.setMe_links (s : State) (x : Core) : (s.setMe x).links = s.links := rfl
@[simp] theorem State.setMe_ports (s : State) (x : Core) : (s.setMe x).ports = s.ports := rfl
@[simp] theorem State.setMe_down (s : State) (x : Core) : (s.setMe x).down = s.down := rfl
@[simp] theorem State.setMe_outq (s : State) (x : Core) : (s.setMe x).outq = s.outq := rfl
@[simp] theorem State.setMe_wire (s : State) (x : Core) : (s.setMe x).wire = s.wire := rfl
@[simp] theorem State.setMe_groups (s : State) (x : Core) : (s.setMe x).groups = s.groups := rfl
@[simp] theorem State.setMe_collBad (s : State) (x : Core) : (s.setMe x).collBad = s.collBad := rfl
@[simp] theorem State.setMe_collMute (s : State) (x : Core) : (s.setMe x).collMute = s.collMute := rfl
@[simp] theorem State.setMe_queues (s : State) (x : Core) : (s.setMe x).queues = s.queues := rfl
@[simp] theorem State.setMe_qturn (s : State) (x : Core) : (s.setMe x).qturn = s.qturn := rfl
@[simp] theorem State.setMe_pages (s : State) (x : Core) : (s.setMe x).pages = s.pages := rfl
@[simp] theorem State.setMe_root (s : State) (x : Core) : (s.setMe x).root = s.root := rfl
@[simp] theorem State.setMe_mem (s : State) (x : Core) : (s.setMe x).mem = s.mem := rfl

@[simp] theorem State.post_cur (s : State) (l : Nat) (w : Write) : (s.post l w).cur = s.cur := rfl
@[simp] theorem State.post_agenda (s : State) (l : Nat) (w : Write) : (s.post l w).agenda = s.agenda := rfl
@[simp] theorem State.post_eager (s : State) (l : Nat) (w : Write) : (s.post l w).eager = s.eager := rfl
@[simp] theorem State.post_issue (s : State) (l : Nat) (w : Write) : (s.post l w).issue = s.issue := rfl
@[simp] theorem State.post_freeCtr (s : State) (l : Nat) (w : Write) : (s.post l w).freeCtr = s.freeCtr := rfl
@[simp] theorem State.post_domes (s : State) (l : Nat) (w : Write) : (s.post l w).domes = s.domes := rfl
@[simp] theorem State.post_dies (s : State) (l : Nat) (w : Write) : (s.post l w).dies = s.dies := rfl
@[simp] theorem State.post_launches (s : State) (l : Nat) (w : Write) : (s.post l w).launches = s.launches := rfl
@[simp] theorem State.post_nextLaunch (s : State) (l : Nat) (w : Write) : (s.post l w).nextLaunch = s.nextLaunch := rfl
@[simp] theorem State.post_domeMask (s : State) (l : Nat) (w : Write) : (s.post l w).domeMask = s.domeMask := rfl
@[simp] theorem State.post_victims (s : State) (l : Nat) (w : Write) : (s.post l w).victims = s.victims := rfl
@[simp] theorem State.post_windows (s : State) (l : Nat) (w : Write) : (s.post l w).windows = s.windows := rfl
@[simp] theorem State.post_pdcs (s : State) (l : Nat) (w : Write) : (s.post l w).pdcs = s.pdcs := rfl
@[simp] theorem State.post_links (s : State) (l : Nat) (w : Write) : (s.post l w).links = s.links := rfl
@[simp] theorem State.post_ports (s : State) (l : Nat) (w : Write) : (s.post l w).ports = s.ports := rfl
@[simp] theorem State.post_down (s : State) (l : Nat) (w : Write) : (s.post l w).down = s.down := rfl
@[simp] theorem State.post_outq (s : State) (l : Nat) (w : Write) : (s.post l w).outq = s.outq := rfl
@[simp] theorem State.post_wire (s : State) (l : Nat) (w : Write) : (s.post l w).wire = s.wire := rfl
@[simp] theorem State.post_groups (s : State) (l : Nat) (w : Write) : (s.post l w).groups = s.groups := rfl
@[simp] theorem State.post_collBad (s : State) (l : Nat) (w : Write) : (s.post l w).collBad = s.collBad := rfl
@[simp] theorem State.post_collMute (s : State) (l : Nat) (w : Write) : (s.post l w).collMute = s.collMute := rfl
@[simp] theorem State.post_queues (s : State) (l : Nat) (w : Write) : (s.post l w).queues = s.queues := rfl
@[simp] theorem State.post_qturn (s : State) (l : Nat) (w : Write) : (s.post l w).qturn = s.qturn := rfl
@[simp] theorem State.post_pages (s : State) (l : Nat) (w : Write) : (s.post l w).pages = s.pages := rfl
@[simp] theorem State.post_root (s : State) (l : Nat) (w : Write) : (s.post l w).root = s.root := rfl
@[simp] theorem State.post_mem (s : State) (l : Nat) (w : Write) : (s.post l w).mem = s.mem := rfl

@[simp] theorem State.setDome_cur (s : State) (d : Nat) (x : Dome) : (s.setDome d x).cur = s.cur := rfl
@[simp] theorem State.setDome_agenda (s : State) (d : Nat) (x : Dome) : (s.setDome d x).agenda = s.agenda := rfl
@[simp] theorem State.setDome_eager (s : State) (d : Nat) (x : Dome) : (s.setDome d x).eager = s.eager := rfl
@[simp] theorem State.setDome_issue (s : State) (d : Nat) (x : Dome) : (s.setDome d x).issue = s.issue := rfl
@[simp] theorem State.setDome_freeCtr (s : State) (d : Nat) (x : Dome) : (s.setDome d x).freeCtr = s.freeCtr := rfl
@[simp] theorem State.setDome_cores (s : State) (d : Nat) (x : Dome) : (s.setDome d x).cores = s.cores := rfl
@[simp] theorem State.setDome_dies (s : State) (d : Nat) (x : Dome) : (s.setDome d x).dies = s.dies := rfl
@[simp] theorem State.setDome_launches (s : State) (d : Nat) (x : Dome) : (s.setDome d x).launches = s.launches := rfl
@[simp] theorem State.setDome_nextLaunch (s : State) (d : Nat) (x : Dome) : (s.setDome d x).nextLaunch = s.nextLaunch := rfl
@[simp] theorem State.setDome_domeMask (s : State) (d : Nat) (x : Dome) : (s.setDome d x).domeMask = s.domeMask := rfl
@[simp] theorem State.setDome_victims (s : State) (d : Nat) (x : Dome) : (s.setDome d x).victims = s.victims := rfl
@[simp] theorem State.setDome_windows (s : State) (d : Nat) (x : Dome) : (s.setDome d x).windows = s.windows := rfl
@[simp] theorem State.setDome_pdcs (s : State) (d : Nat) (x : Dome) : (s.setDome d x).pdcs = s.pdcs := rfl
@[simp] theorem State.setDome_links (s : State) (d : Nat) (x : Dome) : (s.setDome d x).links = s.links := rfl
@[simp] theorem State.setDome_ports (s : State) (d : Nat) (x : Dome) : (s.setDome d x).ports = s.ports := rfl
@[simp] theorem State.setDome_down (s : State) (d : Nat) (x : Dome) : (s.setDome d x).down = s.down := rfl
@[simp] theorem State.setDome_outq (s : State) (d : Nat) (x : Dome) : (s.setDome d x).outq = s.outq := rfl
@[simp] theorem State.setDome_wire (s : State) (d : Nat) (x : Dome) : (s.setDome d x).wire = s.wire := rfl
@[simp] theorem State.setDome_groups (s : State) (d : Nat) (x : Dome) : (s.setDome d x).groups = s.groups := rfl
@[simp] theorem State.setDome_collBad (s : State) (d : Nat) (x : Dome) : (s.setDome d x).collBad = s.collBad := rfl
@[simp] theorem State.setDome_collMute (s : State) (d : Nat) (x : Dome) : (s.setDome d x).collMute = s.collMute := rfl
@[simp] theorem State.setDome_queues (s : State) (d : Nat) (x : Dome) : (s.setDome d x).queues = s.queues := rfl
@[simp] theorem State.setDome_qturn (s : State) (d : Nat) (x : Dome) : (s.setDome d x).qturn = s.qturn := rfl
@[simp] theorem State.setDome_pages (s : State) (d : Nat) (x : Dome) : (s.setDome d x).pages = s.pages := rfl
@[simp] theorem State.setDome_root (s : State) (d : Nat) (x : Dome) : (s.setDome d x).root = s.root := rfl
@[simp] theorem State.setDome_mem (s : State) (d : Nat) (x : Dome) : (s.setDome d x).mem = s.mem := rfl

@[simp] theorem State.setDie_cur (s : State) (d : Nat) (x : Die) : (s.setDie d x).cur = s.cur := rfl
@[simp] theorem State.setDie_agenda (s : State) (d : Nat) (x : Die) : (s.setDie d x).agenda = s.agenda := rfl
@[simp] theorem State.setDie_eager (s : State) (d : Nat) (x : Die) : (s.setDie d x).eager = s.eager := rfl
@[simp] theorem State.setDie_issue (s : State) (d : Nat) (x : Die) : (s.setDie d x).issue = s.issue := rfl
@[simp] theorem State.setDie_freeCtr (s : State) (d : Nat) (x : Die) : (s.setDie d x).freeCtr = s.freeCtr := rfl
@[simp] theorem State.setDie_cores (s : State) (d : Nat) (x : Die) : (s.setDie d x).cores = s.cores := rfl
@[simp] theorem State.setDie_domes (s : State) (d : Nat) (x : Die) : (s.setDie d x).domes = s.domes := rfl
@[simp] theorem State.setDie_launches (s : State) (d : Nat) (x : Die) : (s.setDie d x).launches = s.launches := rfl
@[simp] theorem State.setDie_nextLaunch (s : State) (d : Nat) (x : Die) : (s.setDie d x).nextLaunch = s.nextLaunch := rfl
@[simp] theorem State.setDie_domeMask (s : State) (d : Nat) (x : Die) : (s.setDie d x).domeMask = s.domeMask := rfl
@[simp] theorem State.setDie_victims (s : State) (d : Nat) (x : Die) : (s.setDie d x).victims = s.victims := rfl
@[simp] theorem State.setDie_windows (s : State) (d : Nat) (x : Die) : (s.setDie d x).windows = s.windows := rfl
@[simp] theorem State.setDie_pdcs (s : State) (d : Nat) (x : Die) : (s.setDie d x).pdcs = s.pdcs := rfl
@[simp] theorem State.setDie_links (s : State) (d : Nat) (x : Die) : (s.setDie d x).links = s.links := rfl
@[simp] theorem State.setDie_ports (s : State) (d : Nat) (x : Die) : (s.setDie d x).ports = s.ports := rfl
@[simp] theorem State.setDie_down (s : State) (d : Nat) (x : Die) : (s.setDie d x).down = s.down := rfl
@[simp] theorem State.setDie_outq (s : State) (d : Nat) (x : Die) : (s.setDie d x).outq = s.outq := rfl
@[simp] theorem State.setDie_wire (s : State) (d : Nat) (x : Die) : (s.setDie d x).wire = s.wire := rfl
@[simp] theorem State.setDie_groups (s : State) (d : Nat) (x : Die) : (s.setDie d x).groups = s.groups := rfl
@[simp] theorem State.setDie_collBad (s : State) (d : Nat) (x : Die) : (s.setDie d x).collBad = s.collBad := rfl
@[simp] theorem State.setDie_collMute (s : State) (d : Nat) (x : Die) : (s.setDie d x).collMute = s.collMute := rfl
@[simp] theorem State.setDie_queues (s : State) (d : Nat) (x : Die) : (s.setDie d x).queues = s.queues := rfl
@[simp] theorem State.setDie_qturn (s : State) (d : Nat) (x : Die) : (s.setDie d x).qturn = s.qturn := rfl
@[simp] theorem State.setDie_pages (s : State) (d : Nat) (x : Die) : (s.setDie d x).pages = s.pages := rfl
@[simp] theorem State.setDie_root (s : State) (d : Nat) (x : Die) : (s.setDie d x).root = s.root := rfl
@[simp] theorem State.setDie_mem (s : State) (d : Nat) (x : Die) : (s.setDie d x).mem = s.mem := rfl

@[simp] theorem State.wr_cur (s : State) (k n x : Nat) : (s.wr k n x).cur = s.cur := rfl
@[simp] theorem State.wr_agenda (s : State) (k n x : Nat) : (s.wr k n x).agenda = s.agenda := rfl
@[simp] theorem State.wr_eager (s : State) (k n x : Nat) : (s.wr k n x).eager = s.eager := rfl
@[simp] theorem State.wr_issue (s : State) (k n x : Nat) : (s.wr k n x).issue = s.issue := rfl
@[simp] theorem State.wr_freeCtr (s : State) (k n x : Nat) : (s.wr k n x).freeCtr = s.freeCtr := rfl
@[simp] theorem State.wr_cores (s : State) (k n x : Nat) : (s.wr k n x).cores = s.cores := rfl
@[simp] theorem State.wr_domes (s : State) (k n x : Nat) : (s.wr k n x).domes = s.domes := rfl
@[simp] theorem State.wr_dies (s : State) (k n x : Nat) : (s.wr k n x).dies = s.dies := rfl
@[simp] theorem State.wr_launches (s : State) (k n x : Nat) : (s.wr k n x).launches = s.launches := rfl
@[simp] theorem State.wr_nextLaunch (s : State) (k n x : Nat) : (s.wr k n x).nextLaunch = s.nextLaunch := rfl
@[simp] theorem State.wr_domeMask (s : State) (k n x : Nat) : (s.wr k n x).domeMask = s.domeMask := rfl
@[simp] theorem State.wr_victims (s : State) (k n x : Nat) : (s.wr k n x).victims = s.victims := rfl
@[simp] theorem State.wr_windows (s : State) (k n x : Nat) : (s.wr k n x).windows = s.windows := rfl
@[simp] theorem State.wr_pdcs (s : State) (k n x : Nat) : (s.wr k n x).pdcs = s.pdcs := rfl
@[simp] theorem State.wr_links (s : State) (k n x : Nat) : (s.wr k n x).links = s.links := rfl
@[simp] theorem State.wr_ports (s : State) (k n x : Nat) : (s.wr k n x).ports = s.ports := rfl
@[simp] theorem State.wr_down (s : State) (k n x : Nat) : (s.wr k n x).down = s.down := rfl
@[simp] theorem State.wr_outq (s : State) (k n x : Nat) : (s.wr k n x).outq = s.outq := rfl
@[simp] theorem State.wr_wire (s : State) (k n x : Nat) : (s.wr k n x).wire = s.wire := rfl
@[simp] theorem State.wr_groups (s : State) (k n x : Nat) : (s.wr k n x).groups = s.groups := rfl
@[simp] theorem State.wr_collBad (s : State) (k n x : Nat) : (s.wr k n x).collBad = s.collBad := rfl
@[simp] theorem State.wr_collMute (s : State) (k n x : Nat) : (s.wr k n x).collMute = s.collMute := rfl
@[simp] theorem State.wr_queues (s : State) (k n x : Nat) : (s.wr k n x).queues = s.queues := rfl
@[simp] theorem State.wr_qturn (s : State) (k n x : Nat) : (s.wr k n x).qturn = s.qturn := rfl
@[simp] theorem State.wr_pages (s : State) (k n x : Nat) : (s.wr k n x).pages = s.pages := rfl
@[simp] theorem State.wr_root (s : State) (k n x : Nat) : (s.wr k n x).root = s.root := rfl

@[simp] theorem State.touchLine_cur (s : State) (l : Nat) : (s.touchLine l).cur = s.cur := rfl
@[simp] theorem State.touchLine_agenda (s : State) (l : Nat) : (s.touchLine l).agenda = s.agenda := rfl
@[simp] theorem State.touchLine_eager (s : State) (l : Nat) : (s.touchLine l).eager = s.eager := rfl
@[simp] theorem State.touchLine_issue (s : State) (l : Nat) : (s.touchLine l).issue = s.issue := rfl
@[simp] theorem State.touchLine_freeCtr (s : State) (l : Nat) : (s.touchLine l).freeCtr = s.freeCtr := rfl
@[simp] theorem State.touchLine_domes (s : State) (l : Nat) : (s.touchLine l).domes = s.domes := rfl
@[simp] theorem State.touchLine_dies (s : State) (l : Nat) : (s.touchLine l).dies = s.dies := rfl
@[simp] theorem State.touchLine_launches (s : State) (l : Nat) : (s.touchLine l).launches = s.launches := rfl
@[simp] theorem State.touchLine_nextLaunch (s : State) (l : Nat) : (s.touchLine l).nextLaunch = s.nextLaunch := rfl
@[simp] theorem State.touchLine_domeMask (s : State) (l : Nat) : (s.touchLine l).domeMask = s.domeMask := rfl
@[simp] theorem State.touchLine_victims (s : State) (l : Nat) : (s.touchLine l).victims = s.victims := rfl
@[simp] theorem State.touchLine_windows (s : State) (l : Nat) : (s.touchLine l).windows = s.windows := rfl
@[simp] theorem State.touchLine_pdcs (s : State) (l : Nat) : (s.touchLine l).pdcs = s.pdcs := rfl
@[simp] theorem State.touchLine_links (s : State) (l : Nat) : (s.touchLine l).links = s.links := rfl
@[simp] theorem State.touchLine_ports (s : State) (l : Nat) : (s.touchLine l).ports = s.ports := rfl
@[simp] theorem State.touchLine_down (s : State) (l : Nat) : (s.touchLine l).down = s.down := rfl
@[simp] theorem State.touchLine_outq (s : State) (l : Nat) : (s.touchLine l).outq = s.outq := rfl
@[simp] theorem State.touchLine_wire (s : State) (l : Nat) : (s.touchLine l).wire = s.wire := rfl
@[simp] theorem State.touchLine_groups (s : State) (l : Nat) : (s.touchLine l).groups = s.groups := rfl
@[simp] theorem State.touchLine_collBad (s : State) (l : Nat) : (s.touchLine l).collBad = s.collBad := rfl
@[simp] theorem State.touchLine_collMute (s : State) (l : Nat) : (s.touchLine l).collMute = s.collMute := rfl
@[simp] theorem State.touchLine_queues (s : State) (l : Nat) : (s.touchLine l).queues = s.queues := rfl
@[simp] theorem State.touchLine_qturn (s : State) (l : Nat) : (s.touchLine l).qturn = s.qturn := rfl
@[simp] theorem State.touchLine_pages (s : State) (l : Nat) : (s.touchLine l).pages = s.pages := rfl
@[simp] theorem State.touchLine_root (s : State) (l : Nat) : (s.touchLine l).root = s.root := rfl
@[simp] theorem State.touchLine_mem (s : State) (l : Nat) : (s.touchLine l).mem = s.mem := rfl

@[simp] theorem State.store_cur (s : State) (k n x : Nat) : (s.store k n x).cur = s.cur := rfl
@[simp] theorem State.store_agenda (s : State) (k n x : Nat) : (s.store k n x).agenda = s.agenda := rfl
@[simp] theorem State.store_eager (s : State) (k n x : Nat) : (s.store k n x).eager = s.eager := rfl
@[simp] theorem State.store_issue (s : State) (k n x : Nat) : (s.store k n x).issue = s.issue := rfl
@[simp] theorem State.store_freeCtr (s : State) (k n x : Nat) : (s.store k n x).freeCtr = s.freeCtr := rfl
@[simp] theorem State.store_domes (s : State) (k n x : Nat) : (s.store k n x).domes = s.domes := rfl
@[simp] theorem State.store_dies (s : State) (k n x : Nat) : (s.store k n x).dies = s.dies := rfl
@[simp] theorem State.store_launches (s : State) (k n x : Nat) : (s.store k n x).launches = s.launches := rfl
@[simp] theorem State.store_nextLaunch (s : State) (k n x : Nat) : (s.store k n x).nextLaunch = s.nextLaunch := rfl
@[simp] theorem State.store_domeMask (s : State) (k n x : Nat) : (s.store k n x).domeMask = s.domeMask := rfl
@[simp] theorem State.store_victims (s : State) (k n x : Nat) : (s.store k n x).victims = s.victims := rfl
@[simp] theorem State.store_windows (s : State) (k n x : Nat) : (s.store k n x).windows = s.windows := rfl
@[simp] theorem State.store_pdcs (s : State) (k n x : Nat) : (s.store k n x).pdcs = s.pdcs := rfl
@[simp] theorem State.store_links (s : State) (k n x : Nat) : (s.store k n x).links = s.links := rfl
@[simp] theorem State.store_ports (s : State) (k n x : Nat) : (s.store k n x).ports = s.ports := rfl
@[simp] theorem State.store_down (s : State) (k n x : Nat) : (s.store k n x).down = s.down := rfl
@[simp] theorem State.store_outq (s : State) (k n x : Nat) : (s.store k n x).outq = s.outq := rfl
@[simp] theorem State.store_wire (s : State) (k n x : Nat) : (s.store k n x).wire = s.wire := rfl
@[simp] theorem State.store_groups (s : State) (k n x : Nat) : (s.store k n x).groups = s.groups := rfl
@[simp] theorem State.store_collBad (s : State) (k n x : Nat) : (s.store k n x).collBad = s.collBad := rfl
@[simp] theorem State.store_collMute (s : State) (k n x : Nat) : (s.store k n x).collMute = s.collMute := rfl
@[simp] theorem State.store_queues (s : State) (k n x : Nat) : (s.store k n x).queues = s.queues := rfl
@[simp] theorem State.store_qturn (s : State) (k n x : Nat) : (s.store k n x).qturn = s.qturn := rfl
@[simp] theorem State.store_pages (s : State) (k n x : Nat) : (s.store k n x).pages = s.pages := rfl
@[simp] theorem State.store_root (s : State) (k n x : Nat) : (s.store k n x).root = s.root := rfl

@[simp] theorem State.latch_cur (s : State) (x : Word) : (s.latch x).cur = s.cur := rfl
@[simp] theorem State.latch_agenda (s : State) (x : Word) : (s.latch x).agenda = s.agenda := rfl
@[simp] theorem State.latch_eager (s : State) (x : Word) : (s.latch x).eager = s.eager := rfl
@[simp] theorem State.latch_freeCtr (s : State) (x : Word) : (s.latch x).freeCtr = s.freeCtr := rfl
@[simp] theorem State.latch_cores (s : State) (x : Word) : (s.latch x).cores = s.cores := rfl
@[simp] theorem State.latch_domes (s : State) (x : Word) : (s.latch x).domes = s.domes := rfl
@[simp] theorem State.latch_dies (s : State) (x : Word) : (s.latch x).dies = s.dies := rfl
@[simp] theorem State.latch_launches (s : State) (x : Word) : (s.latch x).launches = s.launches := rfl
@[simp] theorem State.latch_nextLaunch (s : State) (x : Word) : (s.latch x).nextLaunch = s.nextLaunch := rfl
@[simp] theorem State.latch_domeMask (s : State) (x : Word) : (s.latch x).domeMask = s.domeMask := rfl
@[simp] theorem State.latch_victims (s : State) (x : Word) : (s.latch x).victims = s.victims := rfl
@[simp] theorem State.latch_windows (s : State) (x : Word) : (s.latch x).windows = s.windows := rfl
@[simp] theorem State.latch_pdcs (s : State) (x : Word) : (s.latch x).pdcs = s.pdcs := rfl
@[simp] theorem State.latch_links (s : State) (x : Word) : (s.latch x).links = s.links := rfl
@[simp] theorem State.latch_ports (s : State) (x : Word) : (s.latch x).ports = s.ports := rfl
@[simp] theorem State.latch_down (s : State) (x : Word) : (s.latch x).down = s.down := rfl
@[simp] theorem State.latch_outq (s : State) (x : Word) : (s.latch x).outq = s.outq := rfl
@[simp] theorem State.latch_wire (s : State) (x : Word) : (s.latch x).wire = s.wire := rfl
@[simp] theorem State.latch_groups (s : State) (x : Word) : (s.latch x).groups = s.groups := rfl
@[simp] theorem State.latch_collBad (s : State) (x : Word) : (s.latch x).collBad = s.collBad := rfl
@[simp] theorem State.latch_collMute (s : State) (x : Word) : (s.latch x).collMute = s.collMute := rfl
@[simp] theorem State.latch_queues (s : State) (x : Word) : (s.latch x).queues = s.queues := rfl
@[simp] theorem State.latch_qturn (s : State) (x : Word) : (s.latch x).qturn = s.qturn := rfl
@[simp] theorem State.latch_pages (s : State) (x : Word) : (s.latch x).pages = s.pages := rfl
@[simp] theorem State.latch_root (s : State) (x : Word) : (s.latch x).root = s.root := rfl
@[simp] theorem State.latch_mem (s : State) (x : Word) : (s.latch x).mem = s.mem := rfl

@[simp] theorem State.after_cur (s : State) (a : After) : (s.after a).cur = s.cur := rfl
@[simp] theorem State.after_agenda (s : State) (a : After) : (s.after a).agenda = s.agenda := rfl
@[simp] theorem State.after_eager (s : State) (a : After) : (s.after a).eager = s.eager := rfl
@[simp] theorem State.after_freeCtr (s : State) (a : After) : (s.after a).freeCtr = s.freeCtr := rfl
@[simp] theorem State.after_cores (s : State) (a : After) : (s.after a).cores = s.cores := rfl
@[simp] theorem State.after_domes (s : State) (a : After) : (s.after a).domes = s.domes := rfl
@[simp] theorem State.after_dies (s : State) (a : After) : (s.after a).dies = s.dies := rfl
@[simp] theorem State.after_launches (s : State) (a : After) : (s.after a).launches = s.launches := rfl
@[simp] theorem State.after_nextLaunch (s : State) (a : After) : (s.after a).nextLaunch = s.nextLaunch := rfl
@[simp] theorem State.after_domeMask (s : State) (a : After) : (s.after a).domeMask = s.domeMask := rfl
@[simp] theorem State.after_victims (s : State) (a : After) : (s.after a).victims = s.victims := rfl
@[simp] theorem State.after_windows (s : State) (a : After) : (s.after a).windows = s.windows := rfl
@[simp] theorem State.after_pdcs (s : State) (a : After) : (s.after a).pdcs = s.pdcs := rfl
@[simp] theorem State.after_links (s : State) (a : After) : (s.after a).links = s.links := rfl
@[simp] theorem State.after_ports (s : State) (a : After) : (s.after a).ports = s.ports := rfl
@[simp] theorem State.after_down (s : State) (a : After) : (s.after a).down = s.down := rfl
@[simp] theorem State.after_outq (s : State) (a : After) : (s.after a).outq = s.outq := rfl
@[simp] theorem State.after_wire (s : State) (a : After) : (s.after a).wire = s.wire := rfl
@[simp] theorem State.after_groups (s : State) (a : After) : (s.after a).groups = s.groups := rfl
@[simp] theorem State.after_collBad (s : State) (a : After) : (s.after a).collBad = s.collBad := rfl
@[simp] theorem State.after_collMute (s : State) (a : After) : (s.after a).collMute = s.collMute := rfl
@[simp] theorem State.after_queues (s : State) (a : After) : (s.after a).queues = s.queues := rfl
@[simp] theorem State.after_qturn (s : State) (a : After) : (s.after a).qturn = s.qturn := rfl
@[simp] theorem State.after_pages (s : State) (a : After) : (s.after a).pages = s.pages := rfl
@[simp] theorem State.after_root (s : State) (a : After) : (s.after a).root = s.root := rfl
@[simp] theorem State.after_mem (s : State) (a : After) : (s.after a).mem = s.mem := rfl

@[simp] theorem State.event_cur (s : State) (e : Nat) : (s.event e).cur = s.cur := rfl
@[simp] theorem State.event_agenda (s : State) (e : Nat) : (s.event e).agenda = s.agenda := rfl
@[simp] theorem State.event_eager (s : State) (e : Nat) : (s.event e).eager = s.eager := rfl
@[simp] theorem State.event_freeCtr (s : State) (e : Nat) : (s.event e).freeCtr = s.freeCtr := rfl
@[simp] theorem State.event_cores (s : State) (e : Nat) : (s.event e).cores = s.cores := rfl
@[simp] theorem State.event_domes (s : State) (e : Nat) : (s.event e).domes = s.domes := rfl
@[simp] theorem State.event_dies (s : State) (e : Nat) : (s.event e).dies = s.dies := rfl
@[simp] theorem State.event_launches (s : State) (e : Nat) : (s.event e).launches = s.launches := rfl
@[simp] theorem State.event_nextLaunch (s : State) (e : Nat) : (s.event e).nextLaunch = s.nextLaunch := rfl
@[simp] theorem State.event_domeMask (s : State) (e : Nat) : (s.event e).domeMask = s.domeMask := rfl
@[simp] theorem State.event_victims (s : State) (e : Nat) : (s.event e).victims = s.victims := rfl
@[simp] theorem State.event_windows (s : State) (e : Nat) : (s.event e).windows = s.windows := rfl
@[simp] theorem State.event_pdcs (s : State) (e : Nat) : (s.event e).pdcs = s.pdcs := rfl
@[simp] theorem State.event_links (s : State) (e : Nat) : (s.event e).links = s.links := rfl
@[simp] theorem State.event_ports (s : State) (e : Nat) : (s.event e).ports = s.ports := rfl
@[simp] theorem State.event_down (s : State) (e : Nat) : (s.event e).down = s.down := rfl
@[simp] theorem State.event_outq (s : State) (e : Nat) : (s.event e).outq = s.outq := rfl
@[simp] theorem State.event_wire (s : State) (e : Nat) : (s.event e).wire = s.wire := rfl
@[simp] theorem State.event_groups (s : State) (e : Nat) : (s.event e).groups = s.groups := rfl
@[simp] theorem State.event_collBad (s : State) (e : Nat) : (s.event e).collBad = s.collBad := rfl
@[simp] theorem State.event_collMute (s : State) (e : Nat) : (s.event e).collMute = s.collMute := rfl
@[simp] theorem State.event_queues (s : State) (e : Nat) : (s.event e).queues = s.queues := rfl
@[simp] theorem State.event_qturn (s : State) (e : Nat) : (s.event e).qturn = s.qturn := rfl
@[simp] theorem State.event_pages (s : State) (e : Nat) : (s.event e).pages = s.pages := rfl
@[simp] theorem State.event_root (s : State) (e : Nat) : (s.event e).root = s.root := rfl
@[simp] theorem State.event_mem (s : State) (e : Nat) : (s.event e).mem = s.mem := rfl

@[simp] theorem State.report_cur (s : State) (d : Nat) (r : SupRecord) : (s.report d r).cur = s.cur := rfl
@[simp] theorem State.report_agenda (s : State) (d : Nat) (r : SupRecord) : (s.report d r).agenda = s.agenda := rfl
@[simp] theorem State.report_eager (s : State) (d : Nat) (r : SupRecord) : (s.report d r).eager = s.eager := rfl
@[simp] theorem State.report_issue (s : State) (d : Nat) (r : SupRecord) : (s.report d r).issue = s.issue := rfl
@[simp] theorem State.report_freeCtr (s : State) (d : Nat) (r : SupRecord) : (s.report d r).freeCtr = s.freeCtr := rfl
@[simp] theorem State.report_cores (s : State) (d : Nat) (r : SupRecord) : (s.report d r).cores = s.cores := rfl
@[simp] theorem State.report_domes (s : State) (d : Nat) (r : SupRecord) : (s.report d r).domes = s.domes := rfl
@[simp] theorem State.report_launches (s : State) (d : Nat) (r : SupRecord) : (s.report d r).launches = s.launches := rfl
@[simp] theorem State.report_nextLaunch (s : State) (d : Nat) (r : SupRecord) : (s.report d r).nextLaunch = s.nextLaunch := rfl
@[simp] theorem State.report_domeMask (s : State) (d : Nat) (r : SupRecord) : (s.report d r).domeMask = s.domeMask := rfl
@[simp] theorem State.report_victims (s : State) (d : Nat) (r : SupRecord) : (s.report d r).victims = s.victims := rfl
@[simp] theorem State.report_windows (s : State) (d : Nat) (r : SupRecord) : (s.report d r).windows = s.windows := rfl
@[simp] theorem State.report_pdcs (s : State) (d : Nat) (r : SupRecord) : (s.report d r).pdcs = s.pdcs := rfl
@[simp] theorem State.report_links (s : State) (d : Nat) (r : SupRecord) : (s.report d r).links = s.links := rfl
@[simp] theorem State.report_ports (s : State) (d : Nat) (r : SupRecord) : (s.report d r).ports = s.ports := rfl
@[simp] theorem State.report_down (s : State) (d : Nat) (r : SupRecord) : (s.report d r).down = s.down := rfl
@[simp] theorem State.report_outq (s : State) (d : Nat) (r : SupRecord) : (s.report d r).outq = s.outq := rfl
@[simp] theorem State.report_wire (s : State) (d : Nat) (r : SupRecord) : (s.report d r).wire = s.wire := rfl
@[simp] theorem State.report_groups (s : State) (d : Nat) (r : SupRecord) : (s.report d r).groups = s.groups := rfl
@[simp] theorem State.report_collBad (s : State) (d : Nat) (r : SupRecord) : (s.report d r).collBad = s.collBad := rfl
@[simp] theorem State.report_collMute (s : State) (d : Nat) (r : SupRecord) : (s.report d r).collMute = s.collMute := rfl
@[simp] theorem State.report_queues (s : State) (d : Nat) (r : SupRecord) : (s.report d r).queues = s.queues := rfl
@[simp] theorem State.report_qturn (s : State) (d : Nat) (r : SupRecord) : (s.report d r).qturn = s.qturn := rfl
@[simp] theorem State.report_pages (s : State) (d : Nat) (r : SupRecord) : (s.report d r).pages = s.pages := rfl
@[simp] theorem State.report_root (s : State) (d : Nat) (r : SupRecord) : (s.report d r).root = s.root := rfl
@[simp] theorem State.report_mem (s : State) (d : Nat) (r : SupRecord) : (s.report d r).mem = s.mem := rfl

/-- A store leaves memory canonical. -/
theorem State.store_wf (s : State) (k n x : Nat) (h : Memory.wf s.mem = true) : Memory.wf (s.store k n x).mem = true :=
  Memory.wf_write s.mem k n x h

/-- A store changes of a core nothing but the codes of its monitor. -/
theorem State.core_touchLine (s : State) (line c : Nat) :
    (s.touchLine line).core c = (s.core c) ∨
      (s.touchLine line).core c = { s.core c with monitor := { (s.core c).monitor with codes := (s.core c).monitor.codes ++ [0] } } := by
  have key : ∀ l : List (Nat × Core), tabGet? (l.map fun e => if e.2.monitor.on line then
        (e.1, { e.2 with monitor := { e.2.monitor with codes := e.2.monitor.codes ++ [0] } }) else e) c = tabGet? l c ∨
      ∃ x, tabGet? l c = some x ∧ tabGet? (l.map fun e => if e.2.monitor.on line then
        (e.1, { e.2 with monitor := { e.2.monitor with codes := e.2.monitor.codes ++ [0] } }) else e) c =
          some { x with monitor := { x.monitor with codes := x.monitor.codes ++ [0] } } := by
    intro l
    induction l with
    | nil => exact .inl rfl
    | cons e r ih =>
      obtain ⟨j, x⟩ := e
      by_cases hj : j = c
      · by_cases hm : x.monitor.on line
        · exact .inr ⟨x, by simp [tabGet?, hj], by simp [tabGet?, hj, hm]⟩
        · exact .inl (by simp [tabGet?, hj, hm])
      · by_cases hm : x.monitor.on line <;> simpa [tabGet?, hj, hm] using ih
  unfold State.core State.touchLine
  rcases key s.cores with h | ⟨x, hx, h⟩
  · exact .inl (by rw [h])
  · exact .inr (by rw [h, hx]; rfl)

end Sys2Proof.Machine
end

