-- ==== Sys2Proof/Laws/Memory.lean ====
section
/-! SUPPORT. The operations on bytes at their homes and on copies of lines keep memory canonical. -/

namespace Sys2Proof.Machine

@[simp] theorem State.mem_setCopy (s : State) (d line : Nat) (c : Copy) : (s.setCopy d line c).mem = s.mem := rfl
@[simp] theorem State.mem_dropCopy (s : State) (d line : Nat) : (s.dropCopy d line).mem = s.mem := rfl

@[simp] theorem State.mem_fillCopy (s : State) (d key : Nat) : (s.fillCopy d key).mem = s.mem := by
  unfold State.fillCopy
  split <;> rfl

@[simp] theorem State.mem_notePage (s : State) (l : Option Nat) (va : Nat) : (s.notePage l va).mem = s.mem := by
  unfold State.notePage
  split
  · rfl
  · split
    · rfl
    · simp only
      split <;> rfl

theorem State.put_wf (s : State) (d k n x : Nat) (h : Memory.wf s.mem = true) : Memory.wf (s.put d k n x).mem = true := by
  have hf : Memory.wf (if s.eager then s else s.fillCopy d k).mem = true := by split <;> simpa
  unfold State.put
  split
  · simp only
    split
    · exact State.store_wf _ _ _ _ hf
    · exact hf
  · exact State.store_wf s k n x h

theorem State.sendBytes_wf (s : State) (line : Nat) (c : Copy) (n : Nat) (h : Memory.wf s.mem = true) :
    Memory.wf (s.sendBytes line c n).mem = true := by
  induction n with
  | zero => exact h
  | succ n ih =>
    simp only [State.sendBytes]
    split
    · exact Memory.wf_write _ _ _ _ ih
    · exact ih

theorem State.sendLine_wf (s : State) (d line : Nat) (h : Memory.wf s.mem = true) : Memory.wf (s.sendLine d line).mem = true := by
  unfold State.sendLine
  split
  · exact h
  · split
    · exact h
    · exact State.sendBytes_wf s line _ 64 h

theorem State.flushLine_wf (s : State) (d line : Nat) (h : Memory.wf s.mem = true) : Memory.wf (s.flushLine d line).mem = true := by
  unfold State.flushLine
  split
  · exact h
  · exact State.sendLine_wf s d line h

/-- An invariant that every element of a fold keeps is kept by the fold. -/
theorem fold_wf {α : Type} (f : State → α → State) (hf : ∀ s a, Memory.wf s.mem = true → Memory.wf (f s a).mem = true) (l : List α)
    (s : State) (h : Memory.wf s.mem = true) : Memory.wf (l.foldl f s).mem = true := by
  induction l generalizing s with
  | nil => exact h
  | cons a r ih => exact ih _ (hf s a h)

theorem State.release_wf (s : State) (d : Nat) (h : Memory.wf s.mem = true) : Memory.wf (s.release d).mem = true := by
  have := fold_wf (fun a l => State.sendLine a d l) (fun a l => State.sendLine_wf a d l) ((s.die d).copies.map Prod.fst) s h
  unfold State.release
  simp only
  split <;> exact this

theorem State.acquire_wf (s : State) (d : Nat) (h : Memory.wf s.mem = true) : Memory.wf (s.acquire d).mem = true :=
  fold_wf (fun a l => State.sendLine a d l) (fun a l => State.sendLine_wf a d l) ((s.die d).copies.map Prod.fst) s h

theorem State.atomic_wf (s : State) (d k n : Nat) (op : Rmw) (b : Nat) (h : Memory.wf s.mem = true) :
    Memory.wf (s.atomic d k n op b).2.mem = true := by
  have hf := State.flushLine_wf s d (k / 64) h
  unfold State.atomic
  simp only
  split
  · exact hf
  · exact State.store_wf _ _ _ _ hf

theorem State.skStatus_wf (s : State) (d k b : Nat) (h : Memory.wf s.mem = true) : Memory.wf (s.skStatus d k b).mem = true := by
  unfold State.skStatus
  split
  · exact h
  · exact State.atomic_wf _ _ _ _ _ _ h

theorem State.skUpdate_wf (s : State) (d k desc : Nat) (q : Int) (ev : Nat) (h : Memory.wf s.mem = true) :
    Memory.wf (s.skUpdate d k desc q ev).mem = true :=
  State.skStatus_wf _ _ _ _ (State.store_wf _ _ _ _ (State.flushLine_wf s d (k / 64) h))

end Sys2Proof.Machine
end

