-- ==== Sys2Proof/Laws/Operands.lean ====
section
/-! SUPPORT. What the checks of a guarded syllable do, once for all of them. -/

namespace Sys2Proof.Machine

/-- A syllable that is clear has its effect. -/
theorem guarded_clear {g : Option Guard} {rs : List Reg} {s : State} (h : Clear g rs s) (k : State → Out) :
    guarded g rs s k = k s := by
  have hp : (match g with | none => false | some g => decide (g.g ≠ 0#5)) = true → s.me.regAllot.getLsbD 8 = true := by
    cases g with
    | none => simp
    | some x => simpa using h.pred x rfl
  have hr : s.me.refused rs = none := by
    unfold Core.refused
    rw [List.find?_eq_none]
    intro b _ hb
    simp only [Bool.and_eq_true, List.any_eq_true, decide_eq_true_eq, Bool.not_eq_true'] at hb
    obtain ⟨⟨r, hr, rfl⟩, hb⟩ := hb
    simp [h.allot r hr] at hb
  have hb : rs.any s.busy = false := by
    simpa [List.any_eq_false] using h.idle
  unfold guarded
  simp only [hr, hb, h.guard, h.owed]
  cases g with
  | none => simp
  | some x =>
    by_cases hx : x.g = 0#5
    · simp [hx]
    · simp [hx, h.pred x rfl hx]

/-- A syllable whose guard is false, its predicate in the allotment, has no effect but an event for the counters (R16). -/
theorem guarded_false {g : Option Guard} {rs : List Reg} {s : State}
    (hp : ∀ x, g = some x → x.g ≠ 0#5 → s.me.regAllot.getLsbD 8 = true) (h : s.me.guardTrue g = false) (k : State → Out) :
    guarded g rs s k = .next (s.event 5) := by
  unfold guarded
  simp only [h]
  cases g with
  | none => simp
  | some x =>
    by_cases hx : x.g = 0#5
    · simp [hx]
    · simp [hx, hp x rfl hx]

/-- Whatever a guarded syllable does, it is one of six things. -/
theorem guarded_cases {g : Option Guard} {rs : List Reg} {s : State} {k : State → Out} {o : Out} (h : guarded g rs s k = o) :
    (∃ info, o = trapOut cALLOT info s) ∨ o = .next (s.event 5) ∨ (∃ bs, o = claimOut bs s) ∨ o = stallOut (s.event 6) ∨ o = k s := by
  subst h
  unfold guarded
  simp only
  repeat' split
  all_goals first
    | exact .inl ⟨_, rfl⟩
    | exact .inr (.inl rfl)
    | exact .inr (.inr (.inl ⟨_, rfl⟩))
    | exact .inr (.inr (.inr (.inl rfl)))
    | exact .inr (.inr (.inr (.inr rfl)))

/-- A trap leaves the syllable trapped. -/
theorem trapOut_res (cause : BitVec 6) (info : Word) (s t : State) (h : trapOut cause info s = .next t) :
    t.issue.res = .trapped cause info := by
  unfold trapOut at h
  cases h
  rfl

/-- A syllable that runs and does not stall has its effect or a false guard. -/
theorem guarded_ran {g : Option Guard} {rs : List Reg} {s t : State} {k : State → Out} (h : guarded g rs s k = .next t)
    (hr : t.issue.res = .ran) : t = s.event 5 ∨ k s = .next t := by
  rcases guarded_cases h with ⟨i, h1⟩ | h1 | ⟨bs, h1⟩ | h1 | h1
  · have := trapOut_res _ _ _ _ h1.symm
    simp [this] at hr
  · cases h1
    exact .inl rfl
  · unfold claimOut at h1
    cases h1
    simp at hr
  · unfold stallOut at h1
    cases h1
    simp at hr
  · exact .inr h1.symm

end Sys2Proof.Machine
end

