-- ==== Sys2Proof/Tests/Slice0.lean ====
section
/-! SUPPORT. Tests: words written out from the spec's encodings, an ill-formed term for each check of WellFormed, and for every obligation
with hypotheses a concrete state and operands that meet them. -/

namespace Sys2Proof.Tests
open Sys2Proof Sys2Proof.Machine

set_option Elab.async false

/-! ## Decoding: words of the spec's worked examples, field by field -/

/-- Guard p0, and no guard word. -/
def g0 : Guard := { gn := false, g := 0#5 }
def ctl (i6 : BitVec 6) (a : BitVec 7) (w : Bool) (d : BitVec 6) : Ctl := { fin := true, gw := none, i6 := i6, a := a, w := w, d := d }
def en (gw : Option Guard) (eng : BitVec 4) (sb sa : BitVec 6) : En := { fin := true, gw := gw, eng := eng, sb := sb, sa := sa }
def vec (vb va vd : BitVec 5) : Vec := { fin := true, vb := vb, va := va, vd := vd, lg := 0#2, wd := 0#2, ext := none }
def s3 (b a : BitVec 7) (d : BitVec 6) : S3 := { fin := false, gw := none, b := b, a := a, w := true, d := d }
def s3x (c b a : BitVec 7) (d : BitVec 6) : S3X := { fin := true, b := b, a := a, w := true, d := d, x8 := 0#8, c := c, g := g0 }
def si (i : BitVec 10) (a : BitVec 7) (d : BitVec 6) : SI := { fin := true, i10 := i, a := a, w := true, d := d, ext := none }
def mem (a : BitVec 7) (w : Bool) (d : BitVec 6) : Mem := { fin := true, off := 0#7, a := a, w := w, d := d, ext := none }

/-- Tables 2-13, 4-5 and 6-2: scalar words. -/
theorem test_scalar_words :
    decodeSyllable 0x01C34600#32 0#32 = .ok (.add (s3 7#7 6#7 6#6)) ∧
    decodeSyllable 0x0000452F#32 0x00000100#32 = .ok (.movi { fin := true, imm := 4#36, w := true, d := 5#6, g := g0 }) ∧
    decodeSyllable 0x0140542D#32 0x980009C0#32 = .ok (.movi { fin := false, imm := 0x16600027#36, w := true, d := 20#6, g := g0 }) ∧
    decodeSyllable 0x00005533#32 0x00130000#32 = .ok (.movh { fin := true, w := true, d := 21#6, imm := 0x130000#32 }) ∧
    decodeSyllable 0x0184C83F#32 0x00000004#32 = .ok (.sel { s3x 0#7 6#7 9#7 8#6 with g := { gn := false, g := 4#5 } }) ∧
    decodeSyllable 0x00000598#32 0#32 = .ok (.pfxa { fin := false, ftz := false, nan := 0#2, sat := 0#2, rnd := 2#3 }) ∧
    decodeSyllable 0x00008098#32 0#32 = .ok (.pfxm { fin := false, cache := 0#2, space := 1#2, scope := 0#3, ord := 0#3 }) := by
  decide +kernel

/-- Tables 4-5, 7-3 and 8-5: control, tag table and memory words. -/
theorem test_control_and_memory_words :
    decodeSyllable 0x2400416E#32 0#32 = .ok (.mfc (ctl 9#6 0#7 true 1#6)) ∧
    decodeSyllable 0x1440006A#32 0#32 = .ok (.joinAll (ctl 5#6 0#7 false 0#6)) ∧
    decodeSyllable 0x0100006A#32 0#32 = .ok (.exit (ctl 0#6 0#7 false 0#6)) ∧
    decodeSyllable 0x0002C68E#32 0#32 = .ok (.tlook (ctl 0#6 5#7 true 6#6)) ∧
    decodeSyllable 0x0042878E#32 0#32 = .ok (.tset (ctl 0#6 5#7 false 7#6)) ∧
    decodeSyllable 0x0084CB72#32 0#32 = .ok (.ld32 (mem 9#7 true 11#6)) ∧
    decodeSyllable 0x00C34172#32 0#32 = .ok (.ld64 (mem 6#7 true 1#6)) := by
  decide +kernel

/-- Tables 5-6, 10-6, 11-9 and 13-7: vector and engine words. -/
theorem test_vector_and_engine_words :
    decodeSyllable 0x180200BE#32 0#32 = .ok (.vmaxexp (vec 0#5 1#5 0#5)) ∧
    decodeSyllable 0x080220BE#32 0#32 = .ok (.vcvtq (vec 0#5 1#5 2#5)) ∧
    decodeSyllable 0x088040D3#32 0x00014640#32 = .ok (.skqryv { vec 2#5 0#5 4#5 with
      ext := some { fmto := 0#4, x8 := 5#8, vc := 3#5, msk := 1#3, g := g0 } }) ∧
    decodeSyllable 0x2042CACF#32 0x00000003#32 = .ok (.phinit (en (some { gn := false, g := 3#5 }) 4#4 11#6 10#6)) ∧
    decodeSyllable 0x24400ACF#32 0x00000003#32 = .ok (.phwait (en (some { gn := false, g := 3#5 }) 4#4 0#6 10#6)) ∧
    decodeSyllable 0x00434CCE#32 0#32 = .ok (.eset { n := 0#4, e := en none 4#4 13#6 12#6 }) ∧
    decodeSyllable 0x264000CE#32 0#32 = .ok (.rdsend (en none 4#4 0#6 0#6)) ∧
    decodeSyllable 0x220005CE#32 0#32 = .ok (.mdrain (en none 0#4 0#6 5#6)) ∧
    decodeSyllable 0x205009CE#32 0#32 = .ok (.twait (en none 5#4 0#6 9#6)) := by
  decide +kernel

/-- Table 17-11: link-core words. -/
theorem test_link_core_words :
    decodeDol 0x00029592#32 = .ok (.dolLdc { i := 10#18, a := 5#4, d := 6#4 }) ∧
    decodeDol 0x00019201#32 = .ok (.dolSub { b := 6#4, a := 4#4, d := 8#4 }) ∧
    decodeDol 0x0000A68C#32 = .ok (.dolSrli { i := 2#18, a := 9#4, d := 10#4 }) ∧
    decodeDol 0x00021653#32 = .ok (.dolStc { i := 8#18, a := 5#4, d := 9#4 }) ∧
    decodeDol 0x00003C1C#32 = .ok (.dolJalr { i := 0#18, a := 15#4, d := 0#4 }) := by
  decide +kernel

/-- The table's numbering of the same words: the second word's bits count on from the first. -/
theorem test_table_words :
    decodeTableWord 64 (0x0000452F + 2 ^ 32 * 0x100) = some (.movi { fin := true, imm := 4#36, w := true, d := 5#6, g := g0 }) ∧
    decodeTableWord 32 0x01C34600 = some (.add (s3 7#7 6#7 6#6)) := by
  decide +kernel

/-! ## Well-formedness: each check refuses a term -/

/-- opOk (R26, R40): MTC of a read-only control register has no encoding. -/
theorem test_wf_operation : opOk (.mtc (ctl 9#6 1#7 false 0#6)) = false ∧ ¬ WellFormed (.mtc (ctl 9#6 1#7 false 0#6)) := by
  decide +kernel

/-- fieldsOk (R41): BEXT of 65 bits; a destination named with W 0; a guard predicate above p23. -/
theorem test_wf_fields :
    ¬ WellFormed (.bext (s3x 65#7 0#7 1#7 1#6)) ∧ ¬ WellFormed (.add { s3 7#7 6#7 6#6 with w := false }) ∧
    ¬ WellFormed (.lop3 { s3x 0#7 0#7 1#7 1#6 with g := { gn := false, g := 24#5 } }) := by
  decide +kernel

/-- sourcesOk (R36): a scalar source above the last latch. -/
theorem test_wf_sources : sourcesOk (.add (s3 72#7 6#7 6#6)) = false ∧ ¬ WellFormed (.add (s3 72#7 6#7 6#6)) := by
  decide +kernel

/-- dolFieldsOk (R390): EWAIT with an immediate beyond its one bit. -/
theorem test_wf_link_core : ¬ WellFormed (.dolEwait { i := 2#18, a := 0#4, d := 4#4 }) := by
  decide +kernel

/-- What is refused is not a matter of the checks being false everywhere. -/
theorem test_wf_accepts : WellFormed (.add (s3 71#7 6#7 6#6)) ∧ WellFormed (.bext (s3x 64#7 0#7 1#7 1#6)) ∧
    WellFormed (.dolEwait { i := 1#18, a := 0#4, d := 4#4 }) := by
  decide +kernel

/-- R390, Table 17-6: opcode 0x07 is not listed, and an ADD with an unused field is refused; Table 2-7: opcode 0x35 is reserved. -/
theorem test_reserved_words : (match decodeDol 0x00000007#32 with | .bad .illop => true | _ => false) = true ∧
    (match decodeDol 0x80000000#32 with | .bad .illrsv => true | _ => false) = true ∧
    (match decodeSyllable 0x000000D6#32 0#32 with | .bad .illop => true | _ => false) = true := by
  decide +kernel

/-! ## Witnesses: states and operands that meet the hypotheses of each statement of Certificates/Slice0/Obligations.lean -/

/-- A syllable with no guard, or with p0, is clear on a core with every bank and nothing outstanding. -/
theorem clear_any {g : Option Guard} {rs : List Reg} {s : State} (hg : g = none ∨ g = some g0) (ha : s.me.regAllot = 0x1FF#9)
    (ho : s.me.outs = []) (hw : s.me.owedReg = 0#9 := by rfl) : Clear g rs s where
  pred := by rcases hg with rfl | rfl <;> simp [g0]
  guard := by rcases hg with rfl | rfl <;> simp [Core.guardTrue, g0, Core.getP]
  allot := fun r _ => by
    rw [ha]
    have h : ∀ b : Fin 9, (0x1FF#9).getLsbD b.val = true := by decide
    have hb : r.bank < 9 := by
      cases r with
      | s r => simp only [Reg.bank]; omega
      | v r => simp only [Reg.bank]; omega
      | p => simp [Reg.bank]
      | m => simp [Reg.bank]
    exact h ⟨r.bank, hb⟩
  idle := fun r _ => by simp [State.busy, State.before, ho]
  owed := by simp [Core.owedRegs, Core.owes, hw]

/-- The core after reset, and the device with core 0 as given. -/
def x0 : Core := Core.reset 0#11
def on (x : Core) : State := { State.reset with cores := [(0, x)] }
def s0 : State := on x0
/-- Core 0 with the local space in CTL_DEF. -/
def loc : State := on { x0 with ctlDef := 0x151#10 }
/-- Core 0 running and attached, s1 = 2. -/
def run0 : Core := { x0 with run := .running, join := .attached, s := x0.s.set 1 2#64 }

/-- Where the hypothesis is that the syllable is clear. -/
theorem witness_clear (rs : List Reg) : Clear none rs s0 ∧ Clear (some g0) rs s0 ∧ Clear none rs loc ∧ Clear (some g0) rs loc ∧
    Clear none rs (on run0) :=
  ⟨clear_any (.inl rfl) rfl rfl, clear_any (.inr rfl) rfl rfl, clear_any (.inl rfl) rfl rfl, clear_any (.inr rfl) rfl rfl,
    clear_any (.inl rfl) rfl rfl⟩

theorem witness_ExposedWriteLandsAfterItsLatency : x0.pend = [] ∧ 1 ≤ 1 ∧ 1 < 20 ∧ 19 < 20 ∧ 20 ≤ 20 := by decide

theorem witness_RegistersReadWhatWasWritten :
    (1#6 ≠ 0#6 ∧ 63#6 ≠ 0#6 ∧ 23#5 ≠ 0#5 ∧ (23#5).toNat < 24 ∧ 7#3 ≠ 0#3) ∧ x0.pend = [] ∧ 1 ≤ 1 ∧ 1 ≤ 20 := by decide

theorem witness_IntegerArithmeticResults : Clear none (srcReg 63#7 ++ srcReg 71#7 ++ dstReg true 63#6) s0 ∧
    Clear (some g0) (dstReg true 1#6) s0 := ⟨clear_any (.inl rfl) rfl rfl, clear_any (.inr rfl) rfl rfl⟩

theorem witness_DivisionTruncatesTowardZero : Clear none (srcReg 1#7 ++ srcReg 2#7 ++ dstReg true 3#6) s0 := clear_any (.inl rfl) rfl rfl

theorem witness_TruthTableLookup : Clear (some g0) (srcReg 1#7 ++ srcReg 2#7 ++ srcReg 3#7 ++ dstReg true 4#6) s0 :=
  clear_any (.inr rfl) rfl rfl

/-- Both lengths of a bit field at their bounds, and a vote of a detached and of an attached core. -/
theorem witness_PredicatesAndBitFields : Clear (some g0) (srcReg 1#7 ++ srcReg 2#7 ++ dstReg true 3#6) s0 ∧
    ((63#8).toNat < 64 ∧ 1 ≤ (1#7).toNat ∧ (64#7).toNat ≤ 64) ∧ Clear none [.p] (on run0) ∧ (on run0).me.join = .attached ∧
    s0.me.join ≠ .attached :=
  ⟨clear_any (.inr rfl) rfl rfl, by decide, clear_any (.inl rfl) rfl rfl, rfl, by decide +kernel⟩

/-- 1.0 and -0.0 are finite, and 0x7FC00000 is a NaN. -/
theorem witness_ScalarFloatingPointResults : Clear none (srcReg 1#7 ++ srcReg 2#7 ++ dstReg true 3#6) s0 ∧
    Nf.f32.read false 0x3F800000 = .num false (2 ^ 23) (-23) ∧ Nf.f32.read false 0x80000000 = .num true 0 (-149) ∧
    (Nf.f32.read false 0x7FC00000).isNan = true :=
  ⟨clear_any (.inl rfl) rfl rfl, by decide +kernel, by decide +kernel, by decide +kernel⟩

def lp (count : Word) : Loop :=
  { addr := 0x100#64, first := 0#32, start := 0x104#64, stop := 0x110#64, off := 4#10, count := count,
    sched := 0#32, slot := { issue := 0#32, stall := 0#32, fills := 0#32, fillb := 0#32, filll := 0#32, fillv := 0#32, fille := 0#32 } }

/-- An aligned target and another; a full loop stack; a loop at its end with one and with two iterations left, and before it. -/
theorem witness_TransfersAndLoops : Clear none (srcReg 2#7) (on run0) ∧ ((on run0).me.src 2#7).toNat % 4 = 0 ∧
    ((on run0).me.src 1#7).toNat % 4 ≠ 0 ∧ (on run0).me.ras.length < 16 ∧ (on { x0 with ras := [8#64, 2#64] }).me.ras = [8#64] ++ [2#64] ∧
    ((on { x0 with loops := [lp 0#64], pmcCfg := 0x2000000000000000#64 }).core 0).loops = lp 0#64 :: [] ∧ (lp 0#64).count = 0#64 ∧
    (on { x0 with pmcCfg := 0x2000000000000000#64 }).me.pmcCfg.getLsbD 61 = true ∧
    (lp 2#64).stop = 0x110#64 ∧ 1 < (lp 2#64).count.toNat ∧ (lp 1#64).count.toNat = 1 ∧ (lp 1#64).stop ≠ 0x10C#64 ∧ x0.inTrap = false := by
  refine ⟨clear_any (.inl rfl) rfl rfl, ?_⟩
  decide +kernel

/-- A return store of sixteen entries and its spill base in the own scratchpad, the last group included, and an empty one. -/
def full : State := on { x0 with ras := List.replicate 16 4#64, rasSpill := 120, spillBase := 0x1000#64 }
def spilt : State := on { x0 with rasSpill := 128, spillBase := 0x1000#64 }
def groupOk (s : State) (n : Need) : Bool :=
  match s.rasGroup 1 n 0x13C0#64 with
  | .inl _ => false
  | .inr ts => (ts.flatMap fun t => s.owedBank t.1).isEmpty && !s.me.rasBlocked ts

theorem witness_ReturnStoreSpillsAndRefills :
    full.me.ras.length = 16 ∧ full.me.rasSpill / 8 < 16 ∧ groupOk full needW = true ∧ spilt.me.ras = [] ∧ spilt.me.rasSpill ≠ 0 ∧
    spilt.me.rasSpill / 8 - 1 < 16 ∧ groupOk spilt needR = true ∧
    (16 ≤ spilt.me.rasSpill / 8 ∧ spilt.me.spillQuota.toNat < 64) ∧ s0.me.ras = [] ∧ s0.me.rasSpill = 0 := by
  decide +kernel

/-- Sixteen attached cores, of which core 0 has the turn and the others have shown a true guard. -/
def dome0 : State :=
  { State.reset with
    cores := (domeCores 0).map fun c => (c, { Core.reset (BitVec.ofNat 11 c) with join := .attached, run := .running })
    domes := [(0, { Dome.reset with run := .dome 0x1000#52, guards := (domeCores 0).map fun c => (0, c, true) })] }

theorem witness_SystemAndUniformInstructions : Clear none [] dome0 ∧ isSup dome0.cur = false ∧
    (∀ x ∈ dome0.cur :: domeCores (domeKey dome0.cur), (dome0.core x).join = .attached ∧ (dome0.core x).run ≠ .stopped) ∧
    fixedGuard none = true ∧ ((∀ g ∈ (dome0.showGuard true).guardsShown, g.2 = true) ∧
      ∀ x ∈ domeCores (domeKey dome0.cur), x ∈ (dome0.showGuard true).guardsShown.map Prod.fst) ∧
    (dome0.dome (domeKey dome0.cur)).run ≠ .priv ∧ dome0.me.posted = [] ∧ dome0.me.rejects = [] ∧ s0.me.join ≠ .attached ∧
    (on { x0 with inTrap := true }).me.inTrap = true ∧ s0.me.inTrap = false := by
  refine ⟨clear_any (.inl rfl) (by decide +kernel) (by decide +kernel), ?_⟩
  decide +kernel

theorem witness_SegmentHintHasNoEffect : Clear none (srcReg 1#7) s0 := clear_any (.inl rfl) rfl rfl

/-- A running core with a handler, the same in its handler, and one without. -/
def trapState (x : Core) : State := { on x with domes := [(0, { Dome.reset with run := .dome 0x1000#52 })] }
def handled : State := trapState { run0 with trapVec := 0x2000#64 }

theorem witness_TrapsEnterTheirHandler : Clear none [] handled ∧ (handled.me.inTrap = false ∧ handled.me.trapVec ≠ 0#64 ∧
    handled.issue.drop = false ∧ (handled.me.settle).trapVec = handled.me.trapVec ∧ (handled.me.settle).pmcCfg.getLsbD 63 = false ∧
    isSup 0 = false ∧ (handled.core 0).outs = [] ∧ (handled.core 0).pend = [] ∧ 0x11#6 ≠ 9#6 ∧ 0x11#6 ≠ 16#6 ∧ handled.executes 0 = true ∧
    (trapState { run0 with inTrap := true }).executes 0 = true ∧ (trapState run0).executes 0 = true ∧ s0.executes 0 = false) := by
  refine ⟨clear_any (.inl rfl) rfl rfl, ?_⟩
  decide +kernel

theorem witness_ControlRegisters : Clear none (dstReg true 1#6) s0 ∧ Clear none (srcReg 1#7) s0 ∧ (4#6).toNat ∈ [4, 8, 16, 18, 23] ∧
    isSup s0.cur = false ∧ ¬ (2#6).toNat ∈ [4, 8, 16, 18, 23] :=
  ⟨clear_any (.inl rfl) rfl rfl, clear_any (.inl rfl) rfl rfl, by decide, by decide, by decide⟩

/-- The last byte before, the first and the last of, and the first byte after the two bytes at 8. -/
theorem witness_MemoryReadsWhatWasWritten : Memory.wf [(7, 1#8), (10, 2#8)] = true ∧ (7 < 8 ∨ 8 + 2 ≤ 7) ∧ (10 < 8 ∨ 8 + 2 ≤ 10) := by
  decide


/-- A local doubleword, its last one in the scratchpad, and an access of another device. -/
def remoteAt (r : BitVec 12) : State := on { x0 with ctlDef := 0x1D1#10, s := x0.s.set 1 (r ++ 0#52) }

theorem remote_resolves (r : BitVec 12) (h : r ≠ Config.devRank) (n : Need) (w : Bool) :
    (remoteAt r).resolve 0 3 n w (r ++ 0#52) = .ok (.remote r 0#52) := by
  have h1 : ∀ r : BitVec 12, (r ++ 0#52 : Word).extractLsb' 52 12 = r ∧ (r ++ 0#52 : Word).setWidth 52 = 0#52 := by decide +kernel
  obtain ⟨h1, h2⟩ := h1 r
  simp [State.resolve, h1, h2, h]

def okMem (r : Resolved) (k : Nat) : Bool := match r with | .ok (.mem j) => j = k | _ => false
def bad (r : Resolved) (c : BitVec 6) : Bool := match r with | .bad d _ => d = c | _ => false
def okAll (r : List (Target × Word × Nat) × Option (BitVec 6 × Word)) (s : State) : Bool :=
  r.2.isNone && (r.1.flatMap fun t => s.owedBank t.1).isEmpty && r.1.all fun t => !isRemoteT t.1

/-- Scalar, vector, indexed and atomic accesses of the own scratchpad, and a load of another device with nothing outstanding and with each
answer. -/
theorem witness_AccessesAreIssued :
    Clear none (srcReg 2#7 ++ dstReg true 1#6) loc ∧ Clear (some g0) (srcReg 2#7 ++ [.v 1#5, .v 2#5] ++ maskReg 0#3) loc ∧
    (eaRule (mem 2#7 true 1#6) 8 loc).toNat % 8 = 0 ∧ okMem (loc.resolve loc.cur loc.space needR true 0#64) (spKey 0 0) = true ∧
    loc.owedBank (.mem (spKey 0 0)) = [] ∧ isRemoteT (.mem (spKey 0 0)) = false ∧
    okAll (loc.resolveAll needR 32 [(0#64, 0), (32#64, 256), (64#64, 512), (96#64, 768)]) loc = true ∧
    okAll (loc.resolveAll needW 4 ((List.range 8).map fun i => (0#64, 32 * i))) loc = true ∧
    okMem (loc.resolve loc.cur loc.space needRW false 0x3FFFF8#64) (spKey 0 0x3FFFF8) = true := by
  refine ⟨clear_any (.inl rfl) rfl rfl, clear_any (.inr rfl) rfl rfl, ?_⟩
  decide +kernel

theorem witness_RemoteLoads (r : BitVec 12) (h : r ≠ Config.devRank) : Clear none (srcReg 1#7 ++ dstReg true 2#6) (remoteAt r) ∧
    (remoteAt r).space = 3 ∧ (remoteAt r).resolve 0 3 needR true (r ++ 0#52) = .ok (.remote r 0#52) ∧ (remoteAt r).me.answer = none ∧
    (remoteAt r).me.outs = [] ∧ (remoteAt r).me.posted = [] :=
  ⟨clear_any (.inl rfl) rfl rfl, (by decide +kernel : orCode 0 ((0x1D1#10).extractLsb' 6 2).toNat = 3), remote_resolves r h _ _, rfl, rfl, rfl⟩

theorem witness_AnotherDevice : Config.devRank + 1#12 ≠ Config.devRank := by
  intro h
  have h2 := BitVec.add_right_eq_self.mp h
  exact absurd h2 (by decide)

/-- The last doubleword of the own scratchpad, and a doubleword in memory. -/
theorem witness_AccessesMoveTheirBytes :
    Clear none (srcReg 2#7 ++ [.s 1#6]) loc ∧ loc.space = 1 ∧ (0x3FFFF8#64).toNat < 2 ^ 22 ∧ (0x3FFFF8#64).toNat % 8 = 0 ∧
    loc.me.spmAllot.getLsbD ((0x3FFFF8#64).toNat / 2 ^ 16) = true ∧ loc.me.owedSpm = 0#64 ∧ loc.eager = true ∧ loc.me.outs = [] ∧
    (loc.die (dieOf loc.cur)).copies = [] ∧ Memory.wf loc.mem = true ∧ ¬(loc.ord ∈ [2, 4, 5] ∧ 4 ≤ loc.scope) ∧
    okMem (loc.resolve loc.cur loc.space needR true 0x3FFFF8#64) (spKey 0 0x3FFFF8) = true := by
  refine ⟨clear_any (.inl rfl) rfl rfl, ?_⟩
  decide +kernel

/-- An odd address; the last byte of the local space, and the first beyond; a bank outside the allotment. -/
theorem witness_AccessFaultsAndLocalSpace :
    let odd := on { x0 with ctlDef := 0x151#10, s := x0.s.set 1 0x400001#64, spmAllot := 1#64 }
    Clear none (srcReg 1#7 ++ dstReg true 2#6) odd ∧ (eaRule (mem 1#7 true 2#6) 2 odd).toNat % 2 ≠ 0 ∧
    (eaRule (mem 1#7 true 2#6) 1 odd).toNat % 1 = 0 ∧ bad (odd.resolve 0 1 needR false 0x400001#64) cPROT = true ∧
    bad (odd.resolve 0 1 needW false 0x400000#64) cPROT = true ∧ bad (odd.resolve 0 1 needW false 0x3FFFFF#64) cALLOT = true ∧
    okMem (odd.resolve 0 1 needW false 0xFFFF#64) (spKey 0 0xFFFF) = true := by
  refine ⟨clear_any (.inl rfl) rfl rfl, ?_, ?_, ?_, ?_, ?_, ?_⟩ <;> decide +kernel

/-- Whether an instruction runs. -/
def runs (o : Out) : Bool := match o with | .next t => t.issue.res = .ran | _ => false

theorem witness_AccessFrames : runs (exec (.ld64 (mem 2#7 true 1#6)) loc) = true ∧ runs (exec (.st64 (mem 2#7 false 1#6)) loc) = true ∧
    okMem (loc.resolve loc.cur loc.space needR true (eaRule (mem 2#7 true 1#6) 8 loc)) (spKey 0 0) = true ∧
    okMem (loc.resolve loc.cur loc.space needW true (eaRule (mem 2#7 false 1#6) 8 loc)) (spKey 0 0) = true := by
  decide +kernel

/-- Slots 1,023 and 1,024; a pinned slot and one in a bank outside the allotment; an address that no entry and that slot 0 matches. -/
theorem witness_TagTableInstructions :
    let pinned := { x0 with tags := [(0, { v := true, pin := true, tag := 0#33 }), (8, { v := true, pin := false, tag := 0#33 })] }
    Clear none (srcReg 1#7 ++ [.s 2#6]) s0 ∧ 1023 < (1024#64).toNat ∧ (1023#64).toNat ≤ 1023 ∧ (1023#64).toNat / 8 = tagSet 0x7F000#64 ∧
    (1023#64).toNat / 8 ≠ tagSet 0#64 ∧ pinned.tagHit 0#64 = some 0 ∧ (pinned.tag 0).pin = true ∧ pinned.tagHit 0x1000#64 = some 8 ∧
    (pinned.tag 8).pin = false ∧ x0.tagHit 0#64 = none ∧ x0.spmAllot.getLsbD (1023 / 16) = true ∧
    (x0.tag 1023).pin = false ∧ (0#64).getLsbD (1023 / 16) = false := by
  refine ⟨clear_any (.inl rfl) rfl rfl, ?_, ?_, ?_, ?_, ?_, ?_, ?_, ?_, ?_, ?_, ?_, ?_⟩ <;> decide +kernel

def armed (codes : List Nat) : Monitor := { armed := true, conf := true, space := 1#2, line := 0#46, key := 0x1000, codes := codes }

/-- A monitor that is not armed, armed with nothing pending and with codes pending; a wait of class 0 one cycle before its end and at it. -/
theorem witness_MonitorsAndWaits : Clear none (srcReg 1#7) loc ∧ okMem (loc.resolve loc.cur loc.me.ctlSpace needR false 0#64) (spKey 0 0) = true ∧
    loc.owedBank (.mem (spKey 0 0)) = [] ∧ x0.monitor.armed = false ∧ (armed []).armed = true ∧ (armed []).codes = [] ∧
    (armed [3, 0]).codes ≠ [] ∧ (∀ n ∈ (armed [3, 0]).codes, n < 4) ∧ (armed []).conf = true ∧ (armed []).key < spKey 0 0 ∧
    ({ x0 with wait := .waitm 0 1#6 true 0, waited := 1023 } : Core).wait = .waitm 0 1#6 true 0 ∧ 1023 < 2 ^ (10 + 4 * 0) ∧
    2 ^ (10 + 4 * 0) ≤ 1024 := by
  refine ⟨clear_any (.inl rfl) rfl rfl, ?_⟩
  decide +kernel

def jb (k : JobKind) (eng : Nat) (st : JobSt) (ps : List Word) : Job :=
  { kind := k, eng := eng, ord := 0, sb := 0#6, pc := 0#64, lid := 0#32, region := 0#16, ps := ps, status := none, reads := [], writes := [],
    edges := [], behind := 0, st := st, prog := 0, fl := 0#7, seed := 0#32, sums := [], intake := [[], [], []], desc := [], coll := none, made := 0,
    start := 0#64 }
/-- Core 0 with one job, in slot 0. -/
def withJob (j : Job) : State := on { x0 with eng := { Engines.reset with jobs := [(0, j)] } }
/-- A clean and a written copy of line 0x200000000 (homed on die 1) in die 0. -/
def copied (dirty : BitVec 64) : State := { s0 with dies := [(0, { Die.reset with copies := [(2 ^ 31, { bytes := 1#512, dirty := dirty })] })] }

/-- A relaxed, a core-scope and a package-scope fence; a fence that waits; EFENCE with no job and with one; copies of a line. -/
theorem witness_FencesAndDieCopies : Clear none [] s0 ∧ orCode 1 s0.me.ctlOrd = 1 ∧ orCode 4 s0.me.ctlOrd = 4 ∧ orCode 1 s0.me.ctlScope < 3 ∧
    orCode 4 s0.me.ctlScope = 4 ∧ s0.me.outs = [] ∧ s0.me.trace = [] ∧
    (on { x0 with outs := [loc.mkAccess (.read .none) (.mem 0) 8 0#64 false] }).me.outs ≠ [] ∧ s0.me.eng.jobs = [] ∧
    (∃ j ∈ (withJob (jb .copy 2 .running [])).me.eng.jobs, j.2.kind ≠ .xarm) ∧
    okMem (loc.resolve loc.cur loc.me.ctlSpace needR false 0#64) (spKey 0 0) = true ∧ foreign 0 (2 ^ 37) = true ∧ foreign 0 (2 ^ 37 - 1) = false ∧
    Memory.wf (copied 1#64).mem = true ∧ tabSorted ((copied 1#64).die 0).copies = true ∧
    (copied 1#64).copy? 0 (2 ^ 37) = some { bytes := 1#512, dirty := 1#64 } ∧ (1#64).getLsbD (2 ^ 37 % 64) = true ∧
    tabGet? ((copied 0#64).die 0).copies 5 = none := by
  refine ⟨clear_any (.inl rfl) rfl rfl, ?_⟩
  decide +kernel

/-- Empty deferral paths; a full chip; an event queue at its limit; a ring entry that finds room. -/
theorem witness_DeferralAndSpilledQueues : Clear none (.v 0#5 :: [Reg.v 1#5] ++ maskReg 0#3) s0 ∧ s0.me.spilled 3 = [] ∧ s0.me.onChip + 8 ≤ 4096 ∧
    ({ Issue.none with dqc := [(0, 0), (4096, 1)] } : Issue).dqc[1]? = some (4096, 1) ∧ 3 < 4 ∧ (s0.core 0).onChip ≤ 4096 ∧
    (s0.linkCore 3).events.length ≤ 512 ∧ (s0.rd 0x1000 8 + 2 ^ 64 - s0.rd 0x1008 8) % 2 ^ 64 ≠ 16 := by
  refine ⟨clear_any (.inl rfl) rfl rfl, ?_⟩
  decide +kernel

def vx1 (fmto : BitVec 4) (x8 : BitVec 8) (wd : BitVec 2) : Vec :=
  { fin := true, vb := 2#5, va := 1#5, vd := 0#5, lg := 0#2, wd := wd,
    ext := some { fmto := fmto, x8 := x8, vc := 3#5, msk := 0#3, g := g0 } }

/-- A float, an integer and a complex type; the saturation codes; indexes at their limits. -/
theorem witness_VectorArithmeticResults : Clear (some g0) (.v 0#5 :: rdABC (vx1 1#4 0#8 0#2) ++ maskReg 0#3) s0 ∧
    s0.typeFault (.vadd (vx1 1#4 0#8 0#2)) = none ∧ s0.typeFault (.vmulh (vx1 4#4 0#8 0#2)) = none ∧ 6 ≤ s0.elType 7#4 ∧
    (fun t => decide (t < 3)) (s0.elType 4#4) = false ∧ 256 * 2 ^ 0 / elBits (s0.elType 1#4) ≤ (8#8).toNat ∧
    256 * 2 ^ 0 / elBits (s0.elType 1#4) ≤ (136#8).toNat % 128 ∧ isCplx (s0.elType 7#4) ≠ isCplx ((0#8).toNat % 16) ∧
    isCplx (s0.elType 1#4) = isCplx ((0x11#8).toNat % 16) ∧ max 32 (elBits ((0x21#8).toNat % 16)) / min 32 (elBits 1) ≤ (0x21#8).toNat / 16 % 4 ∧
    elBits (s0.elType 2#4) < ((3#8).toNat % 4 + 1) * (Nf.ofCode s0.me.fmtQf).width ∧ s0.elType 2#4 < 3 ∧ 2 ≤ 8 ∧ 1 < 2 ∧
    ¬ isIntT (s0.elType 1#4) = true := by
  refine ⟨clear_any (.inr rfl) rfl rfl, ?_⟩
  decide +kernel

/-- Real and complex elements, with and without a draw; two halves of one element each. -/
theorem witness_VectorComparesAndReductions : Clear (some g0) ([.v 1#5, .v 2#5, .m] ++ maskReg 0#3) s0 ∧
    s0.typeFault (.veq (vx1 7#4 0#8 0#2)) = none ∧ s0.typeFault (.vradd (vx1 7#4 0#8 0#2)) = none ∧ isCplx (s0.elType 1#4) = false ∧
    isCplx (s0.elType 7#4) = true ∧ (drawsFloat (s0.elType 7#4) && s0.codes.mode = 6) = false ∧
    (drawsFloat ((on { x0 with fmt := 0xC30#13 }).elType 7#4) && (on { x0 with fmt := 0xC30#13 }).codes.mode = 6) = true ∧
    [1].length = 2 ^ 0 ∧ [2].length = 2 ^ 0 := by
  refine ⟨clear_any (.inr rfl) rfl rfl, ?_⟩
  decide +kernel

theorem witness_LanesAndIntegerReductions : Clear (some g0) ([.v 1#5, .v 0#5] ++ maskReg 0#3) s0 ∧ (768 + 8 * 32 ≤ 1024 ∧ 0 < 8 ∧ 31 < 32) ∧
    isIntT (s0.elType 6#4) = true ∧ s0.codes.sat < 2 ∧ (0#2).toNat + 2 ^ (2#2).toNat ≤ 4 := by
  refine ⟨clear_any (.inr rfl) rfl rfl, ?_⟩
  decide +kernel

theorem witness_PermutesAndMasks : Clear (some g0) (.v 0#5 :: [.v 1#5, .v 2#5] ++ maskReg 0#3) s0 ∧ Clear none ([.m, .v 1#5] ++ maskReg 0#3) s0 ∧
    Clear none ([.s 1#6, .v 1#5] ++ maskReg 0#3) s0 ∧ s0.typeFault (.vslideu (vx1 1#4 7#8 0#2)) = none ∧
    s0.typeFault (.vmovToScalar (vx1 1#4 7#8 0#2)) = none :=
  ⟨clear_any (.inr rfl) rfl rfl, clear_any (.inl rfl) rfl rfl, clear_any (.inl rfl) rfl rfl, by decide +kernel, by decide +kernel⟩

/-- Conversions of either direction; one block and two; an infinity. -/
theorem witness_VectorConversionsAndQuantisation : Clear (some g0) ([.v 1#5, .v 0#5] ++ maskReg 0#3) s0 ∧
    s0.typeFault (.vcvt (vx1 1#4 0x11#8 0#2)) = none ∧ (0x11#8).toNat % 16 < 8 ∧ s0.typeFault (.vcvtq (vx1 1#4 0#8 0#2)) = none ∧
    s0.typeFault (.vdq (vx1 1#4 3#8 0#2)) = none ∧ s0.typeFault (.vmaxexp (vx1 2#4 0#8 2#2)) = none ∧ 32 < 256 * 2 ^ 2 / elBits (s0.elType 2#4) ∧
    laneOn (s0.me.getM 0#3) 0 = true ∧ ((Nf.ofType (s0.elType 2#4)).read false 0x7C00).isInf = true := by
  refine ⟨clear_any (.inr rfl) rfl rfl, ?_⟩
  decide +kernel

/-! ### A launch of one dome: its region block at 0x2000, a record at 0x3000, a sketch at 0x40, pages mapped to themselves -/

def tl : TlbEntry := { va := 0, size := 2 ^ 20, entry := 0x1F#64, frame := 0, group := false }
def L : Launch :=
  { row := 0, col := 0, height := 1, width := 1, priv := false, id := 7#32, root := 0x2000#52, regions := 1, segTab := 0#52, entries := 0#52,
    wake := 0x8000#52, sup := false, pre := false, spm := 0x8000000000000001#64, reg := 0x1FF#9, acc := 1#32, done := 0x5000#64, dirty := [] }
def rdy : Ready := { launch := 0, level := 3, record := 0x3000#52, off := false }
def worldMem : List Host.Cell :=
  [(0x41, 1#8), (0x48, 1#8), (0x49, 3#8), (0x202D, 1#8), (0x2038, 1#8), (0x203F, 0x80#8), (0x2040, 0xFF#8), (0x2041, 1#8), (0x2048, 1#8),
   (0x2052, 1#8), (0x2058, 1#8), (0x3001, 1#8)]
/-- The device with core 0 as given. -/
def world (x : Core) : State :=
  { on x with
    dies := [(0, { Die.reset with tlb := [tl], ready := [rdy] })], launches := [(0, L)], mem := worldMem }

/-- s5 holds the address of the descriptor of a sketch of one row of eight counters. -/
def skState : State := world { x0 with s := x0.s.set 5 0x40#64 }
def okSk (r : Sum Nat SkDesc) (f : SkDesc → Bool) : Bool := match r with | .inl _ => false | .inr d => f d
def okLanes (r : Sum (BitVec 6 × Word) (List SkLane)) : Bool := match r with | .inl _ => false | .inr l => l.length = 8

theorem witness_SketchInstructions : Clear (some g0) (srcReg 5#7 ++ [.v 1#5, .v 2#5, .v 3#5] ++ maskReg 0#3) skState ∧
    skState.elType 1#4 = 0 ∧ (skState.me.src 5#7).toNat % 32 = 0 ∧ skState.space = 2 ∧
    okMem (skState.resolve skState.cur 2 needR false 0x40#64) 0x40 = true ∧ skState.readHeld 0 0x40 16 = false ∧
    okSk (skDesc 0x40#64 (skState.readNow 0 0x40 8) (skState.readNow 0 0x48 8)) (fun d => okLanes (skState.skLanes needRW (vx1 1#4 5#8 0#2) d) &&
      okLanes (skState.skLanes needR (vx1 1#4 5#8 0#2) d)) = true ∧ skState.codes.mode ≠ 6 ∧
    Memory.wf worldMem = true ∧ 0x100 + 4 ≤ 0x200 + 16 ∧ 0x200 + 24 ≤ 0x218 ∧ [1, 2, (3 : Int)].length % 2 = 1 := by
  refine ⟨clear_any (.inr rfl) rfl rfl, ?_⟩
  decide +kernel

/-- Slots in use, with a fault not reported, and with neither; the first and the last parameter pair; a full trace queue. -/
theorem witness_EngineCommands : Clear none [.s 1#6, .s 2#6] s0 ∧ (7#4).toNat < 8 ∧ (0#4).toNat < 8 ∧
    (∃ k ∈ List.range 64, (1#64).getLsbD k = true ∧ (tabGet? (withJob (jb .copy 2 .running [])).me.eng.jobs k).isSome = true) ∧
    (∀ k ∈ List.range 64, (1#64).getLsbD k = true → tabGet? s0.me.eng.jobs k = none) ∧ 1#64 &&& s0.me.eng.unrep = 0#64 ∧
    (0x8000000000000000#64).getLsbD 63 = true ∧ s0.me.trace.length < 16 ∧
    (on { x0 with pmcCfg := 0x2000000000000000#64 }).me.pmcCfg.getLsbD 61 = true ∧
    16 ≤ (List.replicate 16 (({ kind := 0#4, pc := 0#52, sched := 0#32, cycle := 0#64, data := 0#64 } : TraceRec))).length := by
  refine ⟨clear_any (.inl rfl) rfl rfl, ?_⟩
  decide +kernel

/-- MZERO of tile 0, which nothing refuses. -/
theorem witness_Submits : Clear none [] s0 ∧ tabGet? s0.me.eng.jobs 63 = none ∧ Accepted (mzeroSubmit (en none 0#4 0#6 63#6) s0) s0 ∧
    (mzeroSubmit (en none 0#4 0#6 63#6) s0).kind ≠ .xcoll :=
  ⟨clear_any (.inl rfl) rfl rfl, rfl,
    { params := by decide +kernel, status := by decide +kernel, banks := by decide +kernel, tiles := by decide +kernel,
      forms := by
        intro a ha h
        have hf : (mzeroSubmit (en none 0#4 0#6 63#6) s0).forms = [0#64] := by decide +kernel
        rw [hf, List.mem_singleton] at ha
        exact absurd ha h
      owed := by decide +kernel }, by decide +kernel⟩

def noSpm : State := on { x0 with spmAllot := 0#64, eng := { Engines.reset with params :=
  ((Engines.reset.params.set 34 64#64).set 37 5#64) } }

/-- A slot in use; a copy of no bytes; a copy whose banks lie outside the allotment. -/
theorem witness_SubmitsFail : (tabGet? (withJob (jb .copy 2 .running [])).me.eng.jobs 0).isSome = true ∧ (copySubmit s0).hold = false ∧
    (copySubmit s0).early = none ∧ (copySubmit s0).bad ≠ none ∧ (copySubmit noSpm).bad = none ∧ (copySubmit noSpm).mode = false ∧
    noSpm.me.eng.param 5 0 = 0#64 ∧ (∃ p ∈ (copySubmit noSpm).locals, 0 < p.len ∧ (∀ x ∈ p.dims, 0 < x.1) ∧ p.base < 2 ^ 22) ∧ noSpm.me.spmAllot = 0#64 := by
  decide +kernel

/-- A phaser at the end of the scratchpad; a wait for the phase it has and for the other; a signal that completes and one that does not. -/
theorem witness_Phasers : Clear none [.s 1#6, .s 2#6] s0 ∧ 0x3FFFF0 < 2 ^ 22 ∧ s0.me.spmAllot.getLsbD (0x3FFFF0 / 2 ^ 16) = true ∧
    s0.me.owedSpm = 0#64 ∧ s0.eager = true ∧ s0.me.outs = [] ∧ s0.me.eng.phq = [] ∧ s0.cur < 2056 ∧ Memory.wf s0.mem = true ∧
    0x3FFFF1 % 16 ≤ 1 ∧ 0x3FFFF0 % 16 = 0 ∧ phP (s0.phGet 0).1 = (0#64).getLsbD 0 ∧ phP (s0.phGet 0).1 ≠ (1#64).getLsbD 0 ∧
    phErr (s0.phGet 0).1 = false ∧ (4 : Nat) ≤ (4#64).toNat ∧ 0 < phExpected 2 ∧ phArrived 0 + 1 < phExpected 2 ∧ phExpected 1 ≤ phArrived 0 + 1 ∧
    0 ≤ (phExpected 1 : Int) + phSpend 0 ∧ (phExpected 1 : Int) + phSpend 0 < 2 ^ 48 ∧ 0 ≤ (phWaiters 1 : Int) + phWpend 0 ∧
    (phWaiters 1 : Int) + phWpend 0 < 2 ^ 16 := by
  refine ⟨clear_any (.inl rfl) rfl rfl, ?_⟩
  decide +kernel

def phq0 : Core := { x0 with eng := { Engines.reset with phq := [{ op := .sig, key := spKey 0 0, bytes := false, x := 1#64, before := 0 }] } }

theorem witness_QueuedPhaserCommands : phq0.eng.phq[0]? = some { op := .sig, key := spKey 0 0, bytes := false, x := 1#64, before := 0 } ∧
    phq0.phReady 0 { op := .sig, key := spKey 0 0, bytes := false, x := 1#64, before := 0 } = true ∧ farPhaser 0 (spKey 0 0) = false ∧
    ({ x0 with wait := .phwait (spKey 0 0) true } : Core).wait = .phwait (spKey 0 0) true := by
  decide +kernel

/-- A ready job, and none; an XARM. -/
theorem witness_JobsStart :
    (∀ x ∈ (s0.eng 0).jobs, x.2.st ≠ .waiting) ∧ (withJob (jb .copy 2 .waiting [])).job? 0 0 = some (jb .copy 2 .waiting []) ∧
    ((jb .copy 2 .waiting []).eng = 2 ∧ (jb .copy 2 .waiting []).edges = [] ∧
      ((withJob (jb .copy 2 .waiting [])).eng 0).held (jb .copy 2 .waiting []) = false) ∧
    ((withJob (jb .xarm 6 .waiting [])).eng 0).held (jb .xarm 6 .waiting []) = false ∧
    (∀ x ∈ ((withJob (jb .copy 2 .waiting [])).eng 0).jobs, x = (0, jb .copy 2 .waiting [])) := by
  decide +kernel

/-- A copy of one granule that has moved it. -/
def moved : Job := { jb .copy 2 .running [] with prog := 1 }

theorem witness_JobsEnd : (withJob moved).job? 0 0 = some moved ∧ tabSorted ((withJob moved).eng 0).jobs = true ∧
    moved.kind ∈ [.copy, .cstrm] ∧ granules moved.ps ≤ moved.prog ∧ (jb .xwr 6 .running []).packets ≤ 1 := by
  decide +kernel

theorem witness_JobsMeetFaults : 63 < 64 ∧ (jb .copy 2 .running []).kind ∉ [.mma, .cstrm, .xarm, .xcoll] ∧
    (∀ x ∈ ((withJob (jb .copy 2 .running [])).eng 0).jobs, ∀ g ∈ x.2.edges, g.ord ≠ 0) ∧ (jb .copy 2 .running []).eng < 16 ∧
    (jb .copy 2 (.parked 9#64) []).st = .parked 9#64 ∧ (∀ a, (jb .copy 2 .running []).st ≠ .parked a) := by
  refine ⟨by decide, by decide, by decide +kernel, by decide, rfl, by intro a; simp [jb]⟩

/-- A copy of 8,192 bytes within the scratchpad at its second granule, and the same into a stream. -/
def cp (k : JobKind) (p5 : Word) : Job :=
  { jb k 2 .running [0#64, 0x3FE000#64, 0x2000#64, 0#64, 0#64, p5, 0#64] with prog := 1 }
def skd : SkDesc := { addr := 0x40#64, base := 0x100, salt := 0#32, f := 0, logw := 3, d := 1 }
def skj (k : JobKind) (d : List SkDesc) : Job := { jb k 3 .running [0#64, 0#64, 0#64] with desc := d }

theorem witness_CopyAndSketchJobs : (withJob (cp .copy 5#64)).job? 0 0 = some (cp .copy 5#64) ∧ (cp .copy 5#64).p 2 = BitVec.ofNat 64 0x2000 ∧
    (cp .copy 5#64).p 5 = 5#64 ∧ (cp .copy 5#64).p 1 = BitVec.ofNat 64 0x3FE000 ∧ 0x3FE000 + 0x2000 ≤ 2 ^ 22 ∧ 0 + 0x2000 ≤ 0x3FE000 ∧
    (cp .copy 5#64).prog * 4096 < 0x2000 ∧ fld ((cp .cstrm 1#64).p 5) 0 2 = 1 ∧
    (((withJob (cp .cstrm 1#64)).eng 0).stream 0).length + 4096 ≤ ((withJob (cp .cstrm 1#64)).eng 0).streamSize 0 ∧
    (skj .skclr [skd]).prog < skGroups (skj .skclr [skd]) ∧
    (world { x0 with eng := { Engines.reset with jobs := [(0, skj .skclr [skd])] } }).runFault 0 needW (.dev 0x100) 32 = none := by
  decide +kernel


/-- An MMA of one element over one step of 8-bit formats, with the bytes of its step in the streams, and without. -/
def mj : Job := jb .mma 0 .running [0x6600000#64, 0#64]
def mmaState (b : List Byte) : State :=
  on { x0 with eng := { Engines.reset with jobs := [(0, mj)], streams := [(0, b), (4, b)], mcfgs := [(1, 0, 3#2)] } }

theorem witness_MatrixJobs : (mmaState [1#8]).job? 0 0 = some mj ∧ (mmaOf mj.ps mj.sb).m = 1 ∧ (mmaOf mj.ps mj.sb).n = 1 ∧
    (mmaOf mj.ps mj.sb).cplx = false ∧ fmtCplx (mmaOf mj.ps mj.sb).bf = false ∧ (mmaOf mj.ps mj.sb).scaled = false ∧
    (mmaOf mj.ps mj.sb).cacc = false ∧ mj.prog < (mmaOf mj.ps mj.sb).steps ∧ rowBytes (mmaOf mj.ps mj.sb).af 1 = 1 ∧
    rowBytes (mmaOf mj.ps mj.sb).bf 1 = 1 ∧ ((mmaState [1#8]).eng 0).stream 0 = [1#8] ∧ ((mmaState [1#8]).eng 0).stream 4 = [1#8] ∧
    (mmaOf mj.ps mj.sb).range 0 = (0, 1) ∧ tabSorted ((mmaState [1#8]).eng 0).streams = true ∧
    ((mmaState []).eng 0).mcfgs.find? (fun m => m.2.1 = 0) = some (1, 0, 3#2) ∧
    (∃ x ∈ ((mmaState []).eng 0).jobs, x.2.ofArray 0 = true ∧ x.2.ord < 1) ∧ (∀ x ∈ (s0.eng 0).jobs, x.2.ofArray 0 = true) := by
  decide +kernel

/-- Members of a reduction of one core, and of two along a row of which core 0 is not the root. -/
def rj (p2 : Word) : Job := jb .rdsend 4 .running [0#64, 0x1#64, p2, 0#64, 1#64]
def part (stage : Nat) : Partial :=
  { router := 0, stage := stage, dir := 4, key := (rj 0#64).redKey, launch := none, count := 1, fl := 0#7, vals := [5#32] }
def redState (ps : List Partial) : State := { withJob (rj 0#64) with dies := [(0, { Die.reset with partials := ps })] }

theorem witness_ReductionsCombineAlongTheTree : (redState []).job? 0 0 = some (rj 0#64) ∧ (rj 0#64).redKey.isRoot 0 = true ∧
    (rj 0x101000#64).redKey.isRoot 0 = false ∧ ((redState []).die 0).badRed = [] ∧ ((redState []).die 0).deadRed = [] ∧
    (∀ q ∈ ((redState []).die 0).partials, q.key.tag ≠ (rj 0#64).redKey.tag) ∧
    ((redState [part 3]).die 0).partials = [part 3] ∧ (part 3).router = (rj 0#64).redKey.root ∧ (part 3).vals.length = (rj 0#64).redKey.nelem ∧
    0 < (rj 0#64).redKey.nelem ∧ ((rj 0#64).p 3).toNat + 4 * 1 ≤ 2 ^ 22 ∧ fld ((rj 0#64).p 4) 0 32 ≠ 0 ∧
    [part 1].map Partial.dir = expected (rj 0#64).redKey 1 (0 / 16) (0 % 16) ∧ [part 2].map Partial.dir = expected (rj 0#64).redKey 2 0 0 := by
  decide +kernel

def acc (k : AccKind) (t : Target) (n : Nat) (done : Option (BitVec 256)) : Access :=
  { kind := k, tgt := t, n := n, ord := 1, scope := 2, ea := 0#64, space := 2, whole := true, key := 0#32, jobs := 0, done := done }
def outs (as : List Access) : State := world { x0 with outs := as }

/-- A read behind an acquire; a read, a write and a completed load; accesses of a wake port, of a sketch and of a query. -/
theorem witness_OutstandingAccesses :
    ((outs [{ acc (.read .none) (.mem 0) 8 none with ord := 2 }, acc (.read .none) (.mem 64) 8 none]).core 0).mayPerform 1
      (acc (.read .none) (.mem 64) 8 none) = false ∧
    ((outs [acc (.write 7#256) (.mem 64) 8 none]).core 0).mayPerform 0 (acc (.write 7#256) (.mem 64) 8 none) = true ∧
    foreign (dieOf 0) 64 = false ∧ (0xFF#256).toNat < 2 ^ (8 * 1) ∧
    ((outs [acc (.write 0x3000#256) (.port 0 0) 8 none]).core 0).mayPerform 0 (acc (.write 0x3000#256) (.port 0 0) 8 none) = true ∧
    tabGet? (outs []).launches 0 = some L ∧ L.onDie (0 / 64) = true ∧ ((outs []).wake? (0 / 64) 0 L 0x3001#64).isSome = true ∧
    768 + 32 ≤ 1024 ∧ (s0.die (dieOf 0)).copies = [] ∧
    ((on { x0 with wait := .remote, posted := [9#64] }).core 0).wait = .remote ∧ 9#64 ∈ ((on { x0 with posted := [9#64] }).core 0).posted ∧
    (∀ i, RemoteAnswer.reject 0 ≠ .posted i) := by
  refine ⟨?_, ?_, ?_, ?_, ?_, ?_, ?_, ?_, ?_, ?_, ?_, ?_, by intro i; simp⟩ <;> decide +kernel

/-- Tables at 0, 0x1000, 0x2000 and 0x3000, and a leaf of 4 KiB for address 0. -/
def tables : State := { s0 with mem := [(0, 1#8), (1, 0x10#8), (0x1000, 1#8), (0x1001, 0x20#8), (0x2000, 1#8), (0x2001, 0x30#8), (0x3000, 0xF#8), (0x3001, 0x40#8)] }

theorem witness_PageWalksFollowTheTables :
    (s0.rd 0 8).testBit 0 = false ∧ (s0.die 0).tlb = [] ∧ tables.rd 0 8 = 0x1001 ∧ pteFrame 0x1001 = 0x1000 ∧ tables.rd 0x1000 8 = 0x2001 ∧
    tables.rd 0x2000 8 = 0x3001 ∧ tables.rd 0x3000 8 = 0x400F ∧ (0x1001 : Nat).testBit 0 = true ∧ (0x1001 : Nat).testBit 1 = false ∧
    pteBad 0x1001 = false ∧ pteBad 0x400F = false ∧ leafBad 0x400F = false ∧
    (∀ j ∈ List.range 16, (tables.rd (0x3000 + 8 * j) 8).testBit 6 = false) := by
  decide +kernel

/-- A dome that runs its record on core 0 with the given core; its launch. -/
def domeOf' (x : Core) : State := { world { x with launch := some 0 } with domes := [(0, { Dome.reset with run := .dome 0x3000#52, launch := some 0 })] }
def vic : Victim := { dome := Dome.reset, cores := [], rcb := 0x2028, bytes := 0, held := [] }

theorem witness_BudgetsAndCoreCommands : isSup 0 = false ∧ 255 % 256 = 255 ∧ (domeOf' { run0 with budget := 0#64 }).executes 0 = true ∧
    ((domeOf' { run0 with budget := 0#64 }).core 0).budget = 0#64 ∧ (s0.core 0).outs = [] ∧ (s0.core 0).pend = [] ∧ (s0.core 0).parked = [] ∧
    (s0.core 0).run ≠ .running ∧ (s0.core 0).run ≠ .newcomer ∧ (s0.core 0).run ≠ .stopped ∧ (s0.core 0).run = .idle ∧
    ({ x0 with run := .stopped, arg := 0x1F09#64 } : Core).run = .stopped ∧ 8 < fld 0x1F09#64 0 4 ∧ fld 0x1F08#64 0 4 ≤ 8 ∧
    s0.root.released = false ∧ ((domeOf' run0).dome (domeKey 0)).run = .dome 0x3000#52 ∧
    (∀ y ∈ domeCores (domeKey 0), ((domeOf' run0).core y).outs = [] ∧ ((domeOf' run0).eng y).jobs = []) ∧
    0 ∈ domeCores (domeKey 0) ∧ tabGet? ({ s0 with victims := [(0, vic)] } : State).victims (domeKey 0) = some vic ∧ (∀ e ∈ vic.cores, e.2.eng.jobs = []) ∧
    L.holds (domeKey 0) = true ∧ L.acc.getLsbD (fld 0x0008#64 8 5) = true ∧ L.acc.getLsbD (fld 0x0108#64 8 5) = false ∧
    ({ x0 with arg := 1#64, trapVec := 4#64 } : Core).arg.getLsbD 0 = true := by
  decide +kernel

/-- A budget at its end with nothing in flight, and with a load behind a far write that is not acknowledged. -/
theorem witness_BudgetWithLoadsInFlight :
    (((domeOf' { run0 with budget := 1#64, waited := 255 }).charge 0).drainInFlight 0).landed 0 = true ∧
    ((domeOf' { run0 with budget := 0#64 }).drainInFlight 0).landed 0 = true ∧
    ((domeOf' { run0 with budget := 0#64, posted := [0#64], fenced := true, outs := [acc (.read .none) (.mem 64) 8 none] }).drainInFlight 0).landed 0 = false := by
  decide +kernel

/-- A NOP that ends its bundle at the stream's next address, and the finder's word of it. -/
def seg : Segment := { num := 0, base := 0x100#64, len := 64, image := 0#52, pin := false, stale := false, bytes := [(0, 0x6A#8)] }
def streamState : State :=
  { world run0 with
    domes := [(0, { Dome.reset with run := .dome 0x3000#52, fe := 0x100#64, segs := [seg] })] }
def okGather (r : Sum Nat (List Half)) (ws : List Half) : Bool := match r with | .inl _ => false | .inr x => x = ws
/-- A segment table at 0x4000 with one segment: 64 bytes at 0x100, whose image is the page at 0x5000. -/
def loadState : State :=
  { world { run0 with segTab := 0x4000#64 } with
    domes := [(0, { Dome.reset with run := .dome 0x3000#52, fe := 0x100#64 })],
    mem := [(0x4000, 1#8), (0x4041, 1#8), (0x4048, 64#8), (0x4051, 0x50#8), (0x5000, 0x6A#8)] }
def okLoad (r : Sum Word State) : Bool := match r with | .inl _ => false | .inr _ => true

theorem witness_InstructionDelivery : streamState.canDeliver 0 = true ∧ s0.canDeliver 0 = false ∧
    okGather (gather (streamState.dome 0).word? 9 0x100 0 0) [0x6A#32] = true ∧
    (∀ c ∈ streamState.inStream 0, ∀ q ∈ (streamState.core c).queue, q.seq ≠ 0) ∧ overlong (syllables [0x6A#32]) 0 0 = none ∧
    ((streamState.dome (domeKey 0)).server 0x13F).isSome = true ∧ (streamState.dome 0).server 0x140 = none ∧
    loadState.lead? 0 = some 0 ∧ (loadState.dome 0).server 0x100 = none ∧ okLoad (loadState.loadSegment 0 0x100) = true := by
  decide +kernel

/-- Core 0 alone at a JOIN of a dome whose other cores have exited; an idle dome with a ready record; a launch at its end. -/
def joinAt (any : Bool) : JoinOpen := { seq := 0, any := any, tag := 5#6, addr := 0x100#64, left := none }
def joinState (any : Bool) : State :=
  { s0 with
    cores := (0, { run0 with wait := .join any 5#6 0x100#64 }) ::
      ((domeCores 0).drop 1).map fun c => (c, { Core.reset (BitVec.ofNat 11 c) with join := .exited, run := .running }),
    domes := [(0, { Dome.reset with run := .dome 0x3000#52, open? := some (joinAt any) })] }

theorem witness_JoinsAndContinuations : ((joinState false).dome 0).open? = some (joinAt false) ∧ ((joinState false).dome 0).barrier = none ∧
    (∃ c ∈ domeCores 0, ((joinState false).core c).join = .attached) ∧ (joinState true).allIssued 0 = true ∧
    (joinState false).joinReady 0 (joinAt false) = true ∧
    ((world x0).dome 0).run = .idle ∧ tabGet? (world x0).victims 0 = none ∧ ((world x0).dome 0).pending = [] ∧
    (world x0).bestReady 0 = some rdy ∧ tabGet? (world x0).launches rdy.launch = some L ∧ (world x0).recValid 0 L 0x3000#52 = true ∧
    recKind ((world x0).recWord 0 0x3000#52 1) = 0 ∧ ((world x0).region? 0 L 0).isSome = true ∧ ((world x0).die 0).copies = [] ∧
    ((world x0).die 0).ready.find? (fun e => e.level < 6) = some rdy ∧ rdy.off = false ∧ (∀ e ∈ (s0.die 0).ready, 6 ≤ e.level) ∧
    (world x0).dev 0 (L.rcb 0 + 0x58) 4 = 1 ∧ ({ world x0 with mem := [] } : State).dev 0 (L.rcb 0 + 0x58) 4 = 0 ∧
    L.done ≠ 0#64 ∧ (match ({ world x0 with launches := [] } : State).qMeet needW L.done with | .key k => k = 0x5000 | _ => false) = true := by
  decide +kernel

def lk0 (x : LinkCore) : State := { s0 with links := [(0, x)] }
def LC : LinkCore := LinkCore.reset
/-- An initiator and a target context, open and closed. -/
def pdc (target : Bool) : Pdc :=
  Pdc.fresh { target := target, peer := 5#12, mode := 0#2, sec := false, sdi := 0#12, pd := 0 }
def withPdc (x : Pdc) : State := { s0 with pdcs := [(0, x)] }
def pk (acked again : Bool) : Pkt :=
  { psn := 0#32, core := 0, ord := 9, ix := 0, entropy := 0, bytes := 8, acked := acked, again := again, resp := false, body := .ack 0#32 [],
    job := none }

/-- The last word of local memory, the first address beyond and one off a word; contexts 4,094 and 4,095; words 5, 6, 15 and 16; operands at
their limits. -/
theorem witness_LinkCoreInstructions : (0x3FFFC#32).toNat % 4 = 0 ∧ (0x3FFFC#32).toNat < 2 ^ 18 ∧ 2 ^ 18 ≤ (0x40000#32).toNat ∧
    (0x3FFFE#32).toNat % 4 ≠ 0 ∧ Memory.wf s0.lk.mem = true ∧ (31#18).toNat < 32 ∧ ¬ (32#18).toNat < 32 ∧ 4094 < 4095 ∧ (15#18).toNat < 16 ∧
    16 ≤ (16#18).toNat ∧ (5#18).toNat ≤ 5 ∧ 6 ≤ (6#18).toNat ∧
    (withPdc (pdc false)).pdc? 0 0 = some (pdc false) ∧ (pdc false).isOpen = true ∧ (pdc false).isTarget = false ∧ (pdc true).isTarget = true ∧
    ({ pdc false with pkts := [pk false false] } : Pdc).unanswered 0#32 = true ∧ (pdc false).unanswered 0#32 = false ∧
    psnUpTo (pk true false).psn 0#32 = true ∧ (withPdc (pdc false)).jobOf? 0 9 = none ∧ Pdc.blank.isOpen = false ∧
    (0x5FF#32).toNat < 2 ^ 11 ∧ (0x5FF#32).toNat / 2 ^ 8 ≤ 5 ∧ 5 < (0x600#32).toNat / 2 ^ 8 ∧ (0xFFFFF#32).toNat < 2 ^ 20 ∧
    2 ^ 20 ≤ (0x100000#32).toNat ∧ 14#32 ∈ [13#32, 14#32] ∧ 12#32 ∉ [13#32, 14#32] ∧ (pdc false).pkts = [] := by
  decide +kernel

def ev : LinkEv := { w0 := 1#32, w1 := 2#32, w2 := 3#32, w3 := 4#32 }

theorem witness_LinkCoreEventsAndStops : (lk0 { LC with events := [ev] }).lk.events = ev :: [] ∧ 12#4 ≠ 0#4 ∧ (12#4).toNat ≤ 12 ∧ 12 < (13#4).toNat ∧
    (lk0 LC).lk.events = [] ∧ (lk0 LC).lk.spill = [] ∧ (1#18).getLsbD 0 = true ∧ (0#18).getLsbD 0 = false ∧
    ((lk0 { LC with state := 1#2, events := [ev] }).linkCore 0).state = 1#2 ∧ ((lk0 { LC with state := 2#2 }).linkCore 0).state = 2#2 ∧
    Memory.wf s0.mem = true ∧ LC.times.length < 7 ∧ LC.stops ≠ 15#4 ∧ lcHALT = 0#6 := by
  decide +kernel

/-- A write of 8,192 bytes to rank 5 at its first packet, with a window that has room and one that has none; packets that are acknowledged,
that wait and that are to be sent again; link cores with room for events. -/
def xj : Job := jb .xwr 6 .running [0#64, 0x0050000000000000#64, 0x1FFF#64, 0#64, 0#64, 0#64, 4#64]
def path1 (x : Pdc) : Pdc := x.setWord 5 1#32
def sending (x : Pdc) : State := { withJob xj with pdcs := [(0, path1 x)], down := [] }

theorem witness_PacketDelivery : (sending (pdc false)).openPdc? false 0 0 = some (path1 (pdc false)) ∧ pathPorts ((path1 (pdc false)).word 5) = [0] ∧
    (sending (pdc false)).nextSender (path1 (pdc false)) = some ((0, 0, xj), false) ∧ (sending (pdc false)).job? 0 0 = some xj ∧ (pdc false).key.mode ≠ 3#2 ∧
    0 ∉ (sending (pdc false)).down ∧ ((path1 (pdc false)).word 3).toNat + xj.payload xj.made ≤ ((path1 (pdc false)).word 4).toNat ∧
    (((path1 (pdc false)).setWord 4 4095#32).word 4).toNat < ((path1 (pdc false)).word 3).toNat + xj.payload xj.made ∧
    pathPorts ((pdc false).word 5) = [] ∧ (∀ e ∈ (s0.eng (pk false true).core).jobs, e.2.ord ≠ (pk false true).ord) ∧
    (sending (pdc false)).pdcNeeded (pdc false).key = true ∧ s0.pdcHost (pdc false).key = some 0 ∧ s0.pdcFree 0 = some 0 ∧
    (s0.linkCore 0).spill = [] ∧ (s0.linkCore 0).events.length < 512 ∧ (∀ e ∈ s0.pdcs, e.2.state = 0) ∧
    s0.pdcNeeded (pdc false).key = false ∧ (pdc true).unacked = 0 ∧ (withPdc (pdc true)).openPdc? true 0 0 = some (pdc true) ∧
    xj.sends = true ∧ xj.prog < xj.packets ∧ { xj with prog := 2 }.packets ≤ 2 ∧ tabSorted ((sending (pdc false)).eng 0).jobs = true ∧
    ({ pdc false with pkts := [{ pk false false with ord := 0 }] } : Pdc).pkts.find? (fun p => p.psn = 0#32 && !p.acked) =
      some { pk false false with ord := 0 } ∧
    51 < 52 ∧ 51 ∉ ({ s0 with down := [] } : State).down ∧ 51 ∈ s0.down ∧ (pdc false).timer = none ∧
    ({ pdc false with timer := some 3 } : Pdc).timer ≠ none := by
  decide +kernel

/-- A packet of a collective that waits for the context, its window full or with room; a request of core 0 that has yet to leave. -/
def inLine : OutPkt := { core := 0, ord := 3, entropy := 0, key := (pdc false).key, body := .ack 0#32 [], bytes := 4096, resp := false }
def inLine0 : OutPkt := { core := 4096 + 0, ord := 0, entropy := 0, key := { (pdc false).key with mode := 1#2 }, body := .ack 0#32 [], bytes := 8, resp := true }
def waiting (x : Pdc) (q : OutPkt) : State := { withPdc (path1 x) with outq := [q], down := [] }

theorem witness_PacketsThatWait :
    (waiting (pdc false) inLine).openPdc? false 0 0 = some (path1 (pdc false)) ∧ pathPorts ((path1 (pdc false)).word 5) = [0] ∧
    0 ∉ (waiting (pdc false) inLine).down ∧ (waiting (pdc false) inLine).nextSender (path1 (pdc false)) = none ∧
    (waiting (pdc false) inLine).outq.find? (fun r => r.key = (path1 (pdc false)).key) = some inLine ∧
    ((path1 (pdc false)).word 3).toNat + inLine.bytes ≤ ((path1 (pdc false)).word 4).toNat ∧
    (((path1 (pdc false)).setWord 4 4095#32).word 4).toNat < ((path1 (pdc false)).word 3).toNat + inLine.bytes ∧
    (∀ r ∈ (waiting (pdc false) inLine0).outq, r.key ≠ (path1 (pdc false)).key) ∧
    (waiting (pdc false) inLine).pdcNeeded inLine.key = true ∧ (∀ q ∈ s0.outq, q.core ≠ 4096 + 0) ∧
    (∃ q ∈ (waiting (pdc false) inLine0).outq, q.core = 4096 + 0 ∧ q.resp = true) := by
  decide +kernel

/-- It leaves, on a port that loses it: the context keeps it under its PSN (R385, R393). -/
theorem test_waiting_packet_leaves :
    ((match exec (.packetSend 0 0) { waiting (pdc false) inLine with down := [0] } with
      | .next t => some (t.outq, t.pdcs.map fun e => (e.2.word 1, e.2.pkts.map fun p => (p.psn, p.bytes)))
      | _ => none) = some ([], [(1#32, [(0#32, 4096)])])) := by
  decide +kernel

theorem witness_PacketReadable : (sending (pdc false)).chunkFault 0 false needR (xj.source 0) = none := by decide +kernel

/-- A region at 0x5000 of 8 bytes for reads, writes and atomics, under key 0x10000; a request within it and one beyond; an armed window of one
chunk, before its arming, armed and cancelled. -/
def fw : FwImage := { raw := [], code := [], regtab := 0x4000#64, qtbase := 0x6000#64, pool := 0x7000#64, bytes := [], ttroot := 0#52, sups := [] }
def served (m : List Host.Cell) : State :=
  { world x0 with
    launches := [], root := { Root.reset with power := true, released := true, image := some fw }, mem := m, pdcs := [(0, pdc true)] }
def region : State :=
  served [(0x4021, 0x50#8), (0x4027, 0xF0#8), (0x4028, 8#8), (0x4032, 1#8)]
def rq (len : Nat) : RmaReq :=
  { k := 0, i := 0, psn := 0#32, src := 5#12, port := 0, flat := 0x5000#64, len := len, key := 0x10000#32, e2e := false, auth := true,
    data := List.replicate len 1#8, op := 0#4, half := false, cmp := 0#64 }
def wj : Job := jb .xarm 6 .running [0#64, 0#64, 0#64, 0#64, 0#64, 0#64, 4#64]
def armedWin (st : WinSt) : Window := { Window.reset with st := st, arm := 1#16, ps := wj.ps }
def placing (st : WinSt) : State := { withJob wj with pdcs := [(0, pdc true)], windows := [(0, armedWin st)] }
def pp (arm : BitVec 16) (coord : List Nat) : PlacePkt :=
  { k := 0, i := 0, psn := 0#32, src := 5#12, win := 0#10, arm := arm, coord := coord, shape := [1, 1, 1, 1], loges := 0#2, key := 0#32, sec := false,
    sdi := 0#12, auth := true, port := 0, data := [7#8] }

theorem witness_RequestsAtTheTarget : s0.openPdc? true 0 0 = none ∧ region.openPdc? true 0 0 = some (pdc true) ∧ (rq 8).auth = true ∧
    (pdc true).seenPsn 0#32 = false ∧ (pdc true).key.mode ≠ 1#2 ∧ region.regionBad (rq 8) 0 = none ∧ region.regionBad (rq 8) 1 = none ∧
    region.regionBad (rq 8) 2 = none ∧ region.regionBad (rq 9) 1 = some 3 ∧ region.regionPort (rq 8) needW = none ∧
    region.regionPort (rq 8) needR = none ∧ region.keptResults < 4096 ∧ region.regionKey (rq 8) needRW 0 = some 0x5000 ∧
    (pdc true).got = [] ∧ (pdc true).word 1 = 0#32 ∧
    (placing .armed).openPdc? true 0 0 = some (pdc true) ∧ (pp 2#16 [0, 0, 0, 0]).arm = ((placing .complete).window 0).arm + 1#16 ∧
    ((placing .complete).window 0).st ≠ .armed ∧ (pp 3#16 []).arm ≠ ((placing .armed).window 0).arm ∧
    ((placing .cancelled).window 0).st = .cancelled ∧ placeReason wj.ps (pp 1#16 [1, 0, 0, 0]) = some 3 ∧
    placeReason wj.ps (pp 1#16 [0, 0, 0, 0]) = none ∧ ((placing .armed).window 0).got.testBit 0 = false ∧ (1 : Nat).testBit 0 = true ∧
    (placing .armed).jobOf? 0 0 = some (0, wj, false) ∧ (xBase wj.ps).isSome = true := by
  decide +kernel

/-- The same window with two chunks in its tile, of which one has come. -/
def wj2 : Job := jb .xarm 6 .running [0#64, 0#64, 0#64, 1#64, 0#64, 1#64, 4#64]

theorem witness_PlacedChunk : placeReason wj2.ps (pp 1#16 [0, 0, 0, 0]) = none ∧
    ((armGrid wj2.ps).chunksOf ((armGrid wj2.ps).tileOf [0, 0, 0, 0])).all (fun m => m = 0 || (0 : Nat).testBit m) = false := by
  decide +kernel

def hdr (op : BitVec 8) : CollHdr :=
  { op := op, dtype := 0#8, redop := 0#8, sec := false, sdi := 0#12, flags := 0#9, g0 := 0#64, g1 := 0#64, g2 := 0#64, root := 0#16, count := 1#48,
    digest := 0#64, perm := 0#64, sk := 0#64 }
def coll (placed : Bool) (acks : Nat) : Coll :=
  { num := 0, hdr := hdr 3#8, ranks := [1#12, 2#12], self := 0, send := 0#64, recv := 0#64, perm := [], tmo := 0, src := none, dst := none,
    data := [(0, 0, [5#64])], sk := 0#2, acks := acks, paths := 0, placed := placed, refuse := none }
def cj (k : Coll) : Job := { jb .xcoll 6 .running [] with coll := some k, made := 1 }
def cpkt (op : BitVec 8) (num : Nat) : CollPkt :=
  { k := 0, i := 0, psn := 0#32, src := 2#12, auth := true, port := 0, launch := 0#32, num := num, hdr := hdr op, off := 0, elems := [6#64], sk := 0#2 }

/-- A collective of two members, one of whose data lack, or that is placed, acknowledged or not; packets that agree, that differ, and of no job. -/
theorem witness_CollectiveJobs : (withJob (cj (coll false 0))).collJob (cpkt 3#8 0) = some (0, 0, cj (coll false 0), coll false 0) ∧
    (cj (coll false 0)).made ≠ 0 ∧ (withJob (cj (coll false 0))).collMute = [] ∧ (withJob (cj (coll false 0))).collBad = [] ∧
    (coll true 0).placed = true ∧ (coll false 0).lacks = some 1 ∧
    ({ coll false 0 with ranks := [1#12, 2#12, 3#12], data := [(0, 0, [5#64]), (1, 0, [6#64])] } : Coll).lacks.isSome = true ∧
    (hdr 3#8).compared = (coll false 0).hdr.compared ∧ (hdr 4#8).compared ≠ (coll false 0).hdr.compared ∧
    tabSorted ((withJob (cj (coll false 0))).eng 0).jobs = true ∧ (cj (coll false 0)).status = none ∧
    (withJob (cj (coll false 0))).collJob (cpkt 3#8 1) = none ∧ s0.collVictim (cpkt 3#8 1) = none ∧ s0.collPast (cpkt 3#8 1) = false ∧
    ({ s0 with groups := [([0#64, 0#64, 0#64, 0#64], 2)] } : State).collPast (cpkt 3#8 1) = true ∧
    (coll true 1).allAcked = true ∧ (coll true 0).allAcked = false ∧
    ({ coll true 0 with data := [(0, 0, [5#64]), (1, 0, [6#64])] } : Coll).lacks = none ∧ 0 < (coll true 0).count ∧
    (cj (coll true 0)).p 8 = 0#64 ∧ ({ jb .xcoll 6 .waiting [] with coll := some (coll false 0) } : Job).st ≠ .running := by
  decide +kernel

/-- A collective of a pre-empted core, whose packets wait while its job does not run. -/
def vicColl : State :=
  { s0 with victims := [(0, { vic with cores := [(0, { x0 with eng := (withJob { cj (coll false 0) with st := .waiting }).eng 0 })] })] }

theorem witness_CollectiveOfVictim : vicColl.collJob (cpkt 3#8 0) = none ∧
    vicColl.collVictim (cpkt 3#8 0) = some (0, 0, { cj (coll false 0) with st := .waiting }, coll false 0) ∧
    ({ cj (coll false 0) with st := .waiting } : Job).victimTakes (coll false 0) (cpkt 3#8 0) = false := by
  decide +kernel

/-- A collective that is refused, or ended by a mismatch. -/
theorem witness_CollectiveRejected : (collGroup (cpkt 3#8 0).launch (cpkt 3#8 0).hdr, (cpkt 3#8 0).num) ∈
    [(collGroup (cpkt 3#8 0).launch (cpkt 3#8 0).hdr, 0)] := List.mem_singleton.mpr rfl

theorem witness_RingAndPermutationOrder : 0 < 1 ∧ permOk [1, 0] 2 = true ∧ 2 ≤ [1, 0].length ∧ 1 < 2 := by decide +kernel

/-- Queue 0 at 0x6000: enabled with a ring of 2^8 or 2^20 bytes at 0, with one of 2^7, disabled, released; TAIL at HEAD, a NOP, and off a
doubleword. -/
def qs (size en rel tail : BitVec 8) (x : CmdQ) : State :=
  { served ([(1, 1#8)] ++ [(0x6008, size), (0x600F, en), (0x6010, tail), (0x6027, rel)].filter fun c => c.2 ≠ 0#8) with queues := [(0, x)] }
def ring0 : Stream := { base := 0, size := 256, pos := 0, buf := [], body := none, skip := 0 }
def onQ : CmdQ := { CmdQ.reset with on := true, st := 1#2, strs := [ring0] }
def inHand (p : Phase) (ws : List Word) : CmdQ := { onQ with hand := some { addr := 0#64, ws := ws, phase := p } }

theorem witness_CommandQueues : (qs 8 0x80 0 0 CmdQ.reset).served 63 = true ∧ s0.served 0 = false ∧ (qs 8 0x80 0 0 CmdQ.reset).served 64 = false ∧
    ((qs 8 0x80 0 0 CmdQ.reset).qEnt 0 8).getLsbD 63 = true ∧ ((qs 8 0x80 0 0 CmdQ.reset).cmdq 0).on = false ∧
    fld ((qs 8 0x80 0 0 CmdQ.reset).qEnt 0 8) 0 5 = 8 ∧ fld ((qs 20 0x80 0 0 CmdQ.reset).qEnt 0 8) 0 5 = 20 ∧
    fld ((qs 7 0x80 0 0 CmdQ.reset).qEnt 0 8) 0 5 = 7 ∧ fld ((qs 8 0x80 0 0 CmdQ.reset).qEnt 0 0) 0 52 = 0 ∧
    ((qs 8 0 0 0 onQ).qEnt 0 8).getLsbD 63 = false ∧ ((qs 8 0 0 0 onQ).cmdq 0).on = true ∧ ((qs 8 0x80 0x20 0 onQ).qEnt 0 0x20).getLsbD 61 = true ∧
    ((qs 8 0x80 0 8 onQ).qEnt 0 8).getLsbD 61 = false ∧ ((qs 8 0x80 0 8 onQ).qEnt 0 0x20).getLsbD 61 = false ∧
    ((qs 8 0x80 0 8 onQ).qEnt 0 0x10).toNat = ring0.pos + 8 ∧ ((qs 8 0x80 0 4 onQ).qEnt 0 0x10).toNat % 8 ≠ 0 ∧
    2 ^ fld ((qs 8 0x80 0 8 onQ).qEnt 0 8) 0 5 = ring0.size ∧ (qs 8 0x80 0 8 onQ).qRead? (BitVec.ofNat 64 (0 + 0 % 256)) 8 = some 0x100 ∧
    fld 0x505#64 0 8 = 5 ∧ (0x505#64).getLsbD 21 = false ∧ (qs 8 0x80 0 8 (inHand .logWait [0x100#64])).recording 0 = false ∧
    (inHand .logWait [0x100#64]).gap = false := by
  decide +kernel

def wp (cond : BitVec 3) : WaitPkt := { cond := cond, w64 := false, a := 0x5000#64, v := 0#64, mask := 0xFFFFFFFF#64, tmo := 0#48 }
/-- A queue with a started packet over plain memory that device addresses reach, and a start vector of one dome. -/
def packet : State := { qs 8 0x80 0 8 (inHand .started [0x100#64]) with domeMask := 1#96 }
def vecMem (h : BitVec 8) : List Host.Cell :=
  [(0x2038, 1#8), (0x203F, 0x80#8), (0x2052, 1#8), (0x7001, 1#8), (0x7002, h)].filter (fun c => c.2 ≠ 0#8) ++ [(0x7011, 0x20#8), (0x7018, 1#8)]
def startVec (w0 : Word) : List Word := [w0, 0#64, 0x2000#64, 1#64, 0#64, 0#64, 0#64, 0#64]
def holdsBit (c : BitVec 3) : Bool := WaitPkt.holds (wp c) 0

theorem witness_QueuePackets : (packet.cmdq 0).back = [] ∧ (packet.cmdq 0).hand = some { addr := 0#64, ws := [0x100#64], phase := .started } ∧
    (match packet.qMeet needW 0x5000#64 with | .key k => k = 0x5000 | _ => false) = true ∧
    (match packet.qMeet needW (BitVec.allOnes 64) with | .fault _ _ => true | _ => false) = true ∧
    (packet.qRead? 0x5000#64 4).isSome = true ∧ (5#3).toNat < 6 ∧
    ((List.range 6).map fun c => holdsBit (BitVec.ofNat 3 c)).contains true = true ∧
    ((List.range 6).map fun c => holdsBit (BitVec.ofNat 3 c)).contains false = true ∧
    (packet.cmdq 0).strs = ring0 :: [] ∧ (packet.cmdq 0).strs.length < 3 ∧ 3 ≤ [ring0, ring0, ring0].length ∧
    inWindow 0xFFFFE00000000 = true ∧ 0xFFFFE00000000 % 16 = 0 ∧ inWindow 0x5000 = false ∧ 0x5000#64 ≠ 0#64 ∧
    ((List.range 8).mapM (fun i => packet.qRead? (0x7000#64 + BitVec.ofNat 64 (8 * i)) 8)).isSome = true ∧
    ({ packet with mem := vecMem 0x01#8 } : State).launchBad (startVec 0x2100#64) (Launch.ofVector (startVec 0x2100#64) false false 0x5000#64) = none ∧
    packet.launchBad (startVec 0#64) (Launch.ofVector (startVec 0#64) false false 0x5000#64) = some 32 ∧
    copyTangled 0 0x100 8 7 = false ∧ 7 < 8 := by
  decide +kernel

theorem witness_DeviceOperation : s0.root.power = false ∧ (served []).root.power = true ∧ (served []).root.fail = 0#8 ∧
    ({ Root.reset with power := true, stage := 3#4 } : Root).released = false ∧ (served []).root.image = some fw ∧ 2 ≤ (4#8).toNat ∧
    (4#8).toNat ≤ 4 ∧ (served [(0x107, 0x80#8)]).mailbox.getLsbD 63 = true ∧ (served [(0x107, 0x80#8)]).mailbox.getLsbD 62 = false ∧
    (served [(0x107, 0xC0#8)]).mailbox.getLsbD 62 = true ∧ Memory.wf [(0x107, 0x80#8)] = true ∧ 7 < 8 := by
  decide +kernel

def srec : SupRecord := { words := List.replicate 7 0#64 }
def die1 (d : Die) : State := { s0 with dies := [(0, d)] }
def shoot : Shootdown := { scope := 1#3, core := 0#11, va := 0#52, size := 12#6 }
def trec : TraceRec := { kind := 1#4, pc := 0#52, sched := 0#32, cycle := 0#64, data := 0#64 }
def traced : State :=
  world { run0 with pmcCfg := 0x3000000000000000#64, pmc := x0.pmc.set 7 (BitVec.allOnes 64), trace := [trec],
                    eng := { Engines.reset with params := Engines.reset.params } }

/-- A record and room; a full ring; sizes at their limits; shootdowns; a counter about to wrap; a consumer of each kind. -/
theorem witness_ControlSpaceAndTrace : ((die1 { Die.reset with records := [srec] }).die 0).records = srec :: [] ∧ srec.words.length = 7 ∧
    (Die.reset.sqTail - Die.reset.sqHead).toNat ≠ 2 ^ Die.reset.sqSize.toNat ∧
    (({ Die.reset with sqTail := 64#32 } : Die).sqTail - Die.reset.sqHead).toNat = 2 ^ Die.reset.sqSize.toNat ∧ fld 6#64 0 5 = 6 ∧ fld 16#64 0 5 = 16 ∧
    fld 52#64 0 6 = 52 ∧ ({ x0 with run := .stopped } : Core).run = .stopped ∧ x0.run ∈ [RunState.idle, .running, .newcomer, .halted] ∧
    (4#64).toNat / 2 ^ 14 = 0 ∧ fld 4#64 0 3 = 4 ∧ fld 5#64 0 3 = 5 ∧ (List.replicate 7 shoot).length < 8 ∧ 8 ≤ (List.replicate 8 shoot).length ∧
    x0.trace = [] ∧ (traced.core 0).pmcCfg.getLsbD 61 = true ∧ (traced.core 0).pmcCfg.getLsbD 60 = true ∧ (traced.core 0).trace.length < 16 ∧
    (traced.core 0).pmc[7]? = some (BitVec.allOnes 64) ∧ x0.pmc[7]? ≠ some (BitVec.allOnes 64) ∧
    handled.executes 0 = true ∧ handled.issue.drop = false ∧ (s0.core 0).pmcCfg = 0#64 ∧ ((lk0 LC).linkCore 0).state.toNat < 2 := by
  decide +kernel

/-- A victim that runs a record of the launch, asked to make room; a bank that is owed; a victim whose newcomer has ended. -/
def preLaunch : Launch := { L with pre := true }
def asked : State :=
  { domeOf' { run0 with arg := 0x3000#64 } with launches := [(0, preLaunch)] }
def vicCores : List (Nat × Core) := [(0, { x0 with spillBase := 0x400000#64 })]
def owed (x : Core) : State := { on x with victims := [(0, { vic with cores := vicCores })] }

theorem witness_VictimsAreSetAsideAndRestored : (asked.core 0).run ≠ .idle ∧ tabGet? asked.victims 0 = none ∧ (asked.dome 0).asked = none ∧
    asked.newcomerOf 0 0x3000#52 = some (0, preLaunch) ∧ (asked.newcomerOf 0 0x3010#52).isSome = true ∧
    ({ asked with launches := [] } : State).newcomerOf 0 0x3000#52 = none ∧ (asked.region? 0 preLaunch 0).isSome = true ∧ s0.core 0 = x0 ∧
    (∀ c ∈ domeCores 0, (s0.core c).atStop = true ∧ (s0.core c).outs = []) ∧
    tabGet? (owed { x0 with owedReg := 0x100#9 }).victims (domeKey 0) = some { vic with cores := vicCores } ∧
    ({ x0 with owedReg := 0x100#9 } : Core).owedReg.getLsbD 8 = true ∧ x0.owedReg.getLsbD 8 = false ∧
    ({ x0 with owedAcc := 0x80000000#32 } : Core).owedAcc.getLsbD 31 = true ∧ 128 + 31 = 159 ∧
    ({ x0 with owedSpm := 0x8000000000000000#64 } : Core).owedSpm.getLsbD 63 = true ∧ (63 + 1) * 2 ^ 16 ≤ (0x400000#64).toNat ∧
    (∀ e ∈ (owed x0).cores, e.2.eng.phq = []) ∧ tabSorted (owed x0).victims = true ∧
    ({ Dome.reset with run := .ending } : Dome).run = .ending ∧ (∀ c ∈ domeCores 0, ((owed x0).eng c).jobs = []) ∧ vic.held = [] ∧
    (vicCores.map Prod.fst).Nodup := by
  decide +kernel

/-- p1 false, in the allotment and outside it; a bank outside the allotment. -/
theorem witness_GuardsAndAllotment : x0.guardTrue (some { gn := false, g := 1#5 }) = false ∧ x0.regAllot.getLsbD 8 = true ∧
    ({ x0 with regAllot := 0xFF#9 } : Core).regAllot.getLsbD 8 = false ∧ x0.guardTrue (some { gn := true, g := 1#5 }) = true ∧
    ({ x0 with regAllot := 0x107#9 } : Core).refused (srcReg 1#7 ++ srcReg 48#7) = some 3 ∧ x0.refused (srcReg 1#7 ++ srcReg 48#7) = none := by
  decide +kernel

theorem witness_RegisterFamiliesKeepTheRest : runs (exec (.add (s3 1#7 2#7 3#6)) s0) = true ∧ runs (exec (.faddS (s3 1#7 2#7 3#6)) s0) = true ∧
    runs (exec (.vadd (vx1 1#4 0#8 0#2)) s0) = true ∧ runs (exec (.mtc (ctl 6#6 1#7 false 0#6)) s0) = true := by
  decide +kernel

/-- An event, a link core and a core with its turn. -/
theorem witness_StepsRunTheDecodedInstruction : isEvent .powerGood = true ∧ ((lk0 LC).linkCore 3).state = 0#2 ∧
    (match decodeDol (((lk0 LC).linkCore 3).load ((lk0 LC).linkCore 3).pc.toNat) with | .ok _ => true | _ => false) = true ∧
    (trapState run0).executes 0 = true ∧ run0.budget ≠ 0#64 ∧ run0.wait = .none ∧ run0.monitor.armed = false ∧
    okGather (gather ({ run0 with finder := [(4, 0x6A#512)] } : Core).finderWord 9 0x100 0 0) [0x6A#32] = true ∧
    (match (on run0).checkBundle [0x6A#32] with | .inr [(_, i)] => !isPrefix i && runs (exec i (on run0)) | _ => false) = true := by
  decide +kernel

theorem witness_DecodingInvertsEncoding : isDol (.dolAdd { b := 15#4, a := 1#4, d := 2#4 }) = true ∧ WellFormed (.dolAdd { b := 15#4, a := 1#4, d := 2#4 }) ∧
    WellFormed (.add (s3 71#7 0#7 63#6)) ∧ WellFormed (.addi (si 0x3FF#10 1#7 1#6)) := by
  decide +kernel

theorem witness_EveryStepKeepsMemoryCanonical : Memory.wf State.reset.mem = true ∧
    (match step { State.reset with agenda := [.event .powerGood] } with | .next t => t.root.power | _ => false) = true := by
  decide +kernel

/-! ## Further witnesses, clause by clause -/

/-- A core that runs and one that does not; accesses of the own bundle and of an earlier one. -/
def ownSt : State := on { x0 with outs := [loc.mkAccess (.write 1#256) (.mem 64) 8 0#64 false] }
def ownBundle : State := { ownSt with issue := { Issue.none with mine := 1 } }

theorem witness_InFlight : s0.executes 0 = false ∧ handled.executes 0 = true ∧ dome0.postedBefore = [] ∧
    (∀ a ∈ dome0.before, a.isRemote = true → a.isWrite = false) ∧ s0.postedBefore = [] ∧ s0.before = [] ∧ s0.issue.crs = [] ∧
    loc.me.fenced = false ∧ ¬((loc.ord ∈ [2, 4, 5] ∨ loc.fencing = true) ∧ 4 ≤ loc.scope) ∧ ¬((loc.ord = 5 ∨ loc.fencing = true) ∧ 4 ≤ loc.scope) ∧
    loc.owedBank (.mem (spKey 0 0x3FFFF8)) = [] ∧ loc.me.posted = [] ∧ ownSt.before ≠ [] ∧ ownBundle.before = [] ∧ ownBundle.me.outs ≠ [] ∧
    (∃ j ∈ (withJob (jb .copy 2 .running [])).me.eng.jobs, j.2.kind ≠ .xarm ∧ j.2.ord < 1) ∧
    (∀ j ∈ (withJob (jb .copy 2 .running [])).me.eng.jobs, 0 ≤ j.2.ord) := by
  decide +kernel

theorem witness_RemoteAnswers : ({ x0 with answer := some (.value 7#1024) } : Core).answer = some (.value 7#1024) ∧
    ({ x0 with answer := some (.reject 0) } : Core).answer = some (.reject 0) ∧
    ({ x0 with answer := some (.timeout 0) } : Core).answer = some (.timeout 0) := ⟨rfl, rfl, rfl⟩

/-- A region whose QPOOL, at 0x2040, holds 32 bytes for each of eight elements; ready entries of which the second is spilled; a ring of
sixteen entries that has room, and its spilled entry. -/
def rg : Region := { budget := 0#64, prio := 0, spMem := 0, cquota := 0, pool := 0x2040, spm := 0#64, reg := 0x1FF#9, acc := 0#32, carve := 0 }
def spilling : State := world { x0 with region := some rg, dqSpill := x0.dqSpill.set 3 [{ tag := 1#16, vals := [2#32] }] }
def offRdy : Ready := { rdy with record := 0x3040#52, off := true }
def rent : RingEnt := { core := 0, base := 0x1000, size := 16, launch := none, x := 1#64, y := 2#64, paid := none }

theorem witness_SpilledQueues : spilling.me.region = some rg ∧ 32 * 8 ≤ spilling.dev 0 rg.pool 8 ∧
    (spilling.me.path 3).length + (spilling.me.spilled 3).length + 8 < 2 ^ 32 ∧ spilling.me.spilled 3 ≠ [] ∧
    ([rdy, offRdy].countP fun e => decide (e.launch = 0) && e.level = 3 && !e.off) < 512 ∧ [rdy, offRdy] = [rdy] ++ offRdy :: [] ∧
    offRdy.off = true ∧ (∀ x ∈ [rdy], x.off = false) ∧ offRdy ∉ ([] : List Ready) ∧
    (({ s0 with windows := [(0, { Window.reset with spill := [rent] })] } : State).window 0).spill = rent :: [] ∧
    (s0.window 0).spill = [] := by
  decide +kernel

/-- Type codes 7 and 8; a mask of no lane. -/
theorem witness_VectorChecks : 8 ≤ (8#8).toNat % 16 ∧ (7#8).toNat % 16 < 8 ∧ isCplx (s0.elType 1#4) ≠ isCplx ((7#8).toNat % 16) ∧
    (∀ j, j < 8 → laneOn (({ x0 with m := x0.m.set 1 0#128 } : Core).getM 1#3) (0 + 32 * j) = false) ∧
    (∃ j, j < 8 ∧ laneOn (x0.getM 0#3) (0 + 32 * j) = true) := by
  decide +kernel

def skS1 : State := (skState.noteLatches [5#7]).ownFirst State.perform

theorem witness_SketchBundle : skS1.space = 2 ∧ okMem (skS1.resolve skS1.cur 2 needR false 0x40#64) 0x40 = true ∧ skS1.readHeld 0 0x40 16 = false ∧
    okSk (skDesc 0x40#64 (skS1.readNow 0 0x40 8) (skS1.readNow 0 0x48 8)) (fun d => okLanes (skS1.skLanes needRW (vx1 1#4 5#8 0#2) d) &&
      okLanes (skS1.skLanes needR (vx1 1#4 5#8 0#2) d)) = true ∧ skS1.codes.mode ≠ 6 ∧ 8 ≤ (8#4).toNat ∧ s0.issue.mine = 0 ∧
    s0.owedBank (.mem (spKey 0 0x3FFFF0)) = [] := by
  decide +kernel

/-- Jobs: none held back by an access; one that touches an address without a page, and one that does not; a reduction with its result at
the root and without; a job's signal; a wait that has been released. -/
def touching : Job := jb .copy 2 .running [0x100000#64, 0x2000#64, 0x1000#64, 0#64, 0#64, 6#64, 0#64]

theorem witness_JobClauses : ((withJob (jb .copy 2 .waiting [])).core 0).jobHeld 0 (jb .copy 2 .waiting []) = false ∧
    touching.prog < granules touching.ps ∧ ((withJob touching).granuleFault 0 touching true).isSome = true ∧
    (withJob (cp .copy 5#64)).granuleFault 0 (cp .copy 5#64) true = none ∧ (rj 0#64).made = 0 ∧ ((redState [part 3]).redResult 0 (rj 0#64).redKey).isSome = true ∧
    (redState []).redResult 0 (rj 0#64).redKey = none ∧ PhOp.job.signals = true ∧ PhOp.fail.signals = false ∧
    ({ x0 with wait := .phdone 0 true } : Core).wait = .phdone 0 true ∧ (skj .skclr [skd]).kind = .skclr := by
  decide +kernel

/-- A quantity of 0 and another; a query of one row and of two; a request of the core that has not left; a wait for an answer. -/
theorem witness_AccessClauses : 0 ∉ (armed [3]).codes ∧ foreign 0 (armed [3, 0]).key = false ∧
    (acc (.query 0#5 0 [(false, 0)] 0 0 0 0 []) (.mem 0) 4 none).kind = .query 0#5 0 [(false, 0)] 0 0 0 0 [] ∧ [(false, 0)].length ≤ 1 ∧
    1 < [(false, 0), (true, 4)].length ∧
    (∃ q ∈ [({ core := 4096, ord := 0, entropy := 0, key := { target := false, peer := 5#12, mode := 1#2, sec := false, sdi := 0#12, pd := 0 },
               body := .rma 0 0#64 8 0#32 [] 0 false 0#64, bytes := 8, resp := true } : OutPkt)], q.core = 4096 + 0 ∧ q.resp = true) ∧
    (∃ i, RemoteAnswer.timeout 0 = .timeout i) := by
  refine ⟨by decide +kernel, by decide +kernel, rfl, by decide, by decide, ⟨_, List.mem_singleton.mpr rfl, rfl, rfl⟩, 0, rfl⟩

/-- A window in its last cycle, and a dome with no core detached or held; the same dome before its record leaves the queue. -/
def started : State :=
  let w := world x0
  ((w.setDie 0 { w.die 0 with ready := dropReady rdy (w.die 0).ready }).unspill 0 rdy).readyBanks 0 0 L

theorem witness_DomeClauses : ({ joinAt true with left := some 0 } : JoinOpen).left = some 0 ∧ (joinState true).joinEarly 0 = true ∧
    inWindow 0x13F = false ∧ started.recValid 0 L 0x3000#52 = true ∧ recKind (started.recWord 0 0x3000#52 1) = 0 ∧
    (started.region? 0 L 0).isSome = true ∧ (started.die 0).copies = [] := by
  decide +kernel

/-- A victim with a job that sends. -/
def sender : Core := { x0 with eng := { Engines.reset with jobs := [(0, xj)] } }
def victimSends : State := { s0 with pdcs := [(0, path1 (pdc false))], victims := [(0, { vic with cores := [(0, sender)] })] }

theorem witness_VictimSends : victimSends.nextSender (path1 (pdc false)) = some ((0, 0, xj), true) ∧ (withPdc (pdc false)).jobOf? (pk false true).core (pk false true).ord = none := by
  decide +kernel

/-- A core that may trap, in a WAITM, in a wait at a phaser and in none, and one that may not; the first and the last cause. -/
theorem witness_TrapClauses : handled.mayTrap 0 = true ∧ s0.mayTrap 0 = false ∧ 1 ≤ (1#6).toNat ∧ (0x13#6).toNat ≤ 0x13 ∧ 0x13 < (0x14#6).toNat ∧
    (trapState { run0 with trapVec := 0x2000#64, wait := .waitm 0 1#6 true 0 }).mayTrap 0 = true ∧
    (trapState { run0 with trapVec := 0x2000#64, wait := .phwait 0 true }).mayTrap 0 = true ∧ run0.wait = .none ∧
    ({ x0 with arg := 1#64, trapVec := 0#64 } : Core).trapVec = 0#64 ∧ ({ x0 with trapCause := cBUDGET } : Core).trapCause = cBUDGET := by
  decide +kernel

/-- After the release PARK needs test or recovery; that the device is in neither is a free value. -/
theorem witness_Released (n : Nat) (h : Config.inRecovery n = false) :
    ({ served [] with freeCtr := n } : State).root.released = true ∧ Config.inRecovery ({ served [] with freeCtr := n } : State).freeCtr = false := ⟨rfl, h⟩

/-- A shootdown of page 0 by the package, with an access of that page outstanding and with none; errors of each new consumer. -/
def shootAll : Shootdown := { scope := 4#3, core := 0#11, va := 0#52, size := 12#6 }

theorem witness_ShootdownsAndErrors : shootAll.covers 0 0 = true ∧ s0.waitsFor shootAll 0 (acc (.read .none) (.mem 64) 8 none) = true ∧
    s0.waitsFor shootAll 0 (acc (.read .none) (.mem 64) 8 (some 0#256)) = false ∧ (jb .copy 2 .waiting []).st ≠ .running ∧
    (withJob (jb .copy 2 .running [])).job? 0 0 = some (jb .copy 2 .running []) ∧
    ((outs [acc (.write 0x3000#256) (.port 0 0) 8 none]).core 0).outs[0]? = some (acc (.write 0x3000#256) (.port 0 0) 8 none) ∧
    2 ≤ ((lk0 { LC with state := 2#2 }).linkCore 0).state.toNat ∧ needRW.w = true := by
  decide +kernel

/-- A core named by PREEMPT with its region, launch and record; a core not at its boundary; a bank that is fresh; a dome with a job that runs. -/
def askable : State := { asked with cores := [(0, { run0 with arg := 0x3000#64, launch := some 0, region := some rg })] }

theorem witness_PreemptClauses : askable.newcomerOf 0 0x3000#52 = some (0, preLaunch) ∧ (askable.launch? (askable.core 0).launch).isSome = true ∧
    (askable.core 0).region = some rg ∧ (s0.launch? (s0.core 0).launch) = none ∧
    (((domeCores 0).foldl (fun a c => a.haltCore c) s0).core 0).atStop = true ∧
    (((domeCores 0).foldl (fun a c => a.haltCore c) (on { run0 with queue := [{ seq := 0, addr := 0#64, ws := [0x6A#32], res := false, lead := none, boss := none, again := false }] })).core 0).atStop = false ∧
    ({ x0 with freshSpm := 1#64 } : Core).freshSpm.getLsbD 0 = true ∧ x0.freshSpm = 0#64 ∧ x0.freshAcc.getLsbD 31 = false ∧
    s0.domeQuiet 0 = true ∧ (withJob (jb .copy 2 .running [])).domeQuiet 0 = false ∧ (s0.die 0).badRed = [] := by
  decide +kernel

/-- The bundle of a core with no PREEMPT asked for and no vote open, delivered once. -/
theorem witness_TurnClauses : ((trapState run0).dome 0).asked = none ∧ (trapState run0).voteOpen 0 = false ∧
    ({ seq := 0, addr := 0#64, ws := [0x6A#32], res := false, lead := none, boss := none, again := false } : Delivered).again = false := by
  decide +kernel

/-! ## Witnesses of the further clauses -/

/-- Full and empty return stores whose next group lies in SPILLOVF, at 0x2000, with a quota; a group in the own scratchpad, at its end. -/
def overflow (n : Nat) (ras : List Word) : State :=
  world { x0 with ras := ras, rasSpill := n, spillOvf := 0x2000#64, spillQuota := 64#64 }
def ovfOk (s : State) (n : Need) (a : Word) : Bool :=
  match s.rasGroup 2 n a with
  | .inl _ => false
  | .inr ts => (ts.flatMap fun t => s.owedBank t.1).isEmpty && !s.me.rasBlocked ts

theorem witness_OverflowGroups : (overflow 128 (List.replicate 16 4#64)).me.ras.length = 16 ∧
    16 ≤ (overflow 128 (List.replicate 16 4#64)).me.rasSpill / 8 ∧ 64 ≤ (overflow 128 (List.replicate 16 4#64)).me.spillQuota.toNat ∧
    ovfOk (overflow 128 (List.replicate 16 4#64)) needW 0x2000#64 = true ∧ (overflow 136 []).me.ras = [] ∧
    16 ≤ (overflow 136 []).me.rasSpill / 8 - 1 ∧ ovfOk (overflow 136 []) needR 0x1FC0#64 = true ∧
    0x3FFFC0 + 64 ≤ 2 ^ 22 ∧ 0x3FFFC0 % 8 = 0 ∧ s0.me.spmAllot = 0xFFFFFFFFFFFFFFFF#64 ∧ (s0.die (dieOf s0.cur)).copies = [] ∧
    8 ≤ (List.replicate 8 4#64).length := by
  decide +kernel

/-- A hint of a segment that the table has not; a trap raised by the bundle in issue; control registers as the bundle found them. -/
def raised : State := { handled with issue := { Issue.none with res := .trapped 0x11#6 5#64, addr := 0x100#64 } }

theorem witness_HintsTrapsAndSnapshots : s0.dev (dieOf s0.cur) s0.me.segTab.toNat 8 % 2 ^ 12 ≤ (s0.me.src 1#7).toNat ∧
    raised.issue.res = .trapped 0x11#6 5#64 ∧ raised.issue.told = none ∧ raised.issue.drop = false ∧ raised.cur = 0 ∧ raised.executes 0 = true ∧
    ({ s0 with issue := { Issue.none with crs := s0.crsNow 0 } } : State).issue.crs = s0.crsNow 0 := by
  decide +kernel

/-- Vector, indexed and atomic accesses that run, in the local space. -/
def vm (a : BitVec 7) (v : BitVec 5) : VMem := { fin := true, off := 0#7, a := a, wd := 0#2, lg := 0#2, v := v }

theorem witness_AccessesRun : runs (exec (.vld (vm 2#7 1#5)) loc) = true ∧ runs (exec (.vst (vm 2#7 1#5)) loc) = true := by
  decide +kernel

def idx (o : VMem) : VIdx := { fin := true, a := o.a, v := o.v, lg := 0#2, wd := 0#2, x := { fmto := 0#4, x8 := 0#8, vc := 2#5, msk := 0#3, g := g0 } }
def atom (ext : Option AtomX) : Atom := { fin := true, b := 1#7, a := 2#7, w := true, d := 3#6, ext := ext }
def acas : Acas := { sz := false, x := s3x 5#7 4#7 2#7 3#6 }

theorem witness_IndexedAndAtomicAccessesRun : runs (exec (.vgath (idx (vm 2#7 1#5))) loc) = true ∧ runs (exec (.vscat (idx (vm 2#7 1#5))) loc) = true ∧
    runs (exec (.aadd (atom none)) loc) = true ∧ runs (exec (.aadd (atom (some { sz := true, x8 := 1#8, g := g0 }))) loc) = true ∧
    runs (exec (.acas acas) loc) = true ∧ loc.copy? (dieOf loc.cur) (spKey 0 0) = none ∧
    ((copied 1#64).copy? (dieOf 0) (2 ^ 37)).isSome = true ∧ loc.me.jobsBefore loc.efenced = false := by
  decide +kernel

/-- An order, a scope and a posted write that a FENCE of system scope waits for; an armed window alone; a submit of the own bundle. -/
theorem witness_FencesOfEachScope : orCode 2 s0.me.ctlOrd = 2 ∧ orCode 3 s0.me.ctlOrd = 3 ∧ orCode 5 s0.me.ctlOrd = 5 ∧ orCode 3 s0.me.ctlScope = 3 ∧
    orCode 5 s0.me.ctlScope = 5 ∧ s0.me.posted = [] ∧ s0.me.rejects = [] ∧ (on { x0 with posted := [9#64] }).postedBefore ≠ [] ∧
    (∀ j ∈ (withJob (jb .xarm 6 .running [])).me.eng.jobs, j.2.kind = .xarm ∧ j.2.st ≠ .waiting) ∧
    (∃ j ∈ (withJob (jb .copy 2 .waiting [])).me.eng.jobs, j.2.kind ≠ .xarm ∧
      j.2.ord < ({ withJob (jb .copy 2 .waiting []) with issue := { Issue.none with job0 := 1 } } : State).issue.job0) ∧
    (∀ j ∈ (withJob (jb .copy 2 .waiting [])).me.eng.jobs, (withJob (jb .copy 2 .waiting [])).issue.job0 ≤ j.2.ord) ∧
    (∃ j ∈ (on { x0 with eng := { Engines.reset with jobs := [(0, jb .copy 2 .waiting [])], ordNext := 1 } }).me.eng.jobs, j.2.kind ≠ .xarm ∧ j.2.ord < 1) := by
  decide +kernel

/-- A completion ring that is full, and a second entry that waits; what QPOOL has taken and what it has not. -/
def ringSt (tail : BitVec 8) : State := { s0 with windows := [(0, { Window.reset with spill := [rent, rent] })], mem := [(spKey 0 0x1000, tail)] }

theorem witness_RingsFull : ((ringSt 16#8).rd ((ringSt 16#8).entKey rent rent.base) 8 + 2 ^ 64 -
      (ringSt 16#8).rd ((ringSt 16#8).entKey rent (rent.base + 8)) 8) % 2 ^ 64 = rent.size ∧
    ((ringSt 15#8).rd ((ringSt 15#8).entKey rent rent.base) 8 + 2 ^ 64 -
      (ringSt 15#8).rd ((ringSt 15#8).entKey rent (rent.base + 8)) 8) % 2 ^ 64 ≠ rent.size ∧
    ((ringSt 15#8).window 0).spill = rent :: [rent] ∧ Memory.wf (ringSt 15#8).mem = true ∧ ((ringSt 15#8).window 0).pool = none ∧
    (let e := (ringSt 15#8).entKey rent
     ∀ p ∈ [(e (0x1000 + 16 + 240), e (0x1000 + 24 + 240)), (e (0x1000 + 16 + 240), e 0x1000), (e (0x1000 + 24 + 240), e 0x1000)],
       p.1 + 8 ≤ p.2 ∨ p.2 + 8 ≤ p.1) := by
  decide +kernel

/-- A status area with a bit set that must be 0, off its alignment, and past the end; a stream whose array is not fused; a tile outside the
allotment. -/
def withP (n : Nat) (x : Word) (p : Core → Core) : State := on (p { x0 with eng := { Engines.reset with params := Engines.reset.params.setIfInBounds n x } })
def stat (x : Word) : State := withP 80 x id
def noTile : State := withP 0 0#64 fun x => { x with accAllot := 0xFFFFFFFE#32 }

theorem witness_SubmitChecks : fld ((stat 0x400000#64).me.eng.param 5 0) 22 41 ≠ 0 ∧
    ((stat 0x8000000000000004#64).me.eng.param 5 0).getLsbD 63 = true ∧ fld ((stat 0x8000000000000004#64).me.eng.param 5 0) 0 3 ≠ 0 ∧
    fld ((stat 0x80000000003FFE00#64).me.eng.param 5 0) 0 22 + 512 = 2 ^ 22 ∧
    2 ^ 22 < fld ((stat 0x80000000003FFE08#64).me.eng.param 5 0) 0 22 + 512 ∧ fld ((stat 0x80000000003FFE08#64).me.eng.param 5 0) 22 41 = 0 ∧
    (mzeroSubmit (en none 0#4 0#6 63#6) noTile).bad = none ∧ (mzeroSubmit (en none 0#4 0#6 63#6) noTile).mode = false ∧
    (mzeroSubmit (en none 0#4 0#6 63#6) noTile).locals = [] ∧ (∃ t ∈ (mzeroSubmit (en none 0#4 0#6 63#6) noTile).tiles, noTile.me.accAllot.getLsbD t = false) ∧
    (mmaSubmit (en none 0#4 4#6 63#6) s0).mode = true ∧ (mmaSubmit (en none 0#4 4#6 63#6) s0).bad = none := by
  decide +kernel

/-- A command behind one of its phaser; commands that signal and that do not. -/
theorem witness_QueuedPhaserClauses : ({ x0 with eng := { Engines.reset with phq :=
      [{ op := .sig, key := spKey 0 0, bytes := false, x := 1#64, before := 0 }, { op := .init, key := spKey 0 0, bytes := false, x := 1#64, before := 0 }] } } : Core).phReady 1
        { op := .init, key := spKey 0 0, bytes := false, x := 1#64, before := 0 } = false ∧
    PhOp.sig.signals = true ∧ PhOp.init.signals = false ∧ ((mmaOf mj.ps mj.sb).steps ≤ ({ mj with prog := 1 } : Job).prog) ∧
    ({ mj with prog := 1 } : Job).p 4 = 0#64 := by
  decide +kernel

/-- A copy whose destination may not be written, one from an address without a page, and one within the scratchpad; a packet
whose source has no page, and one that has none left to send. -/
def barred : Job := jb .copy 2 .running [0#64, 0#64, 0x1000#64, 0#64, 0#64, 9#64, 0#64]
def readOnly (j : Job) : State := { withJob j with mem := [(0, 1#8), (1, 0x10#8), (0x1000, 1#8), (0x1001, 0x20#8), (0x2000, 1#8), (0x2001, 0x30#8), (0x3000, 7#8), (0x3001, 0x40#8)] }
def farJob : Job := { xj with ps := [0x100000#64, 0x0050000000000000#64, 0x1FFF#64, 0#64, 0#64, 0#64, 8#64] }

theorem witness_FaultsOfUnits : (readOnly barred).granuleFault 0 barred true = some (cPROT, 0#64) ∧ barred.prog < granules barred.ps ∧
    (withJob touching).granuleFault 0 touching true = some (cXLATE, 0x100000#64) ∧ touching.kind = .copy ∧
    xj.sends = true ∧ xj.prog < xj.packets ∧ { xj with prog := 2 }.packets ≤ 2 ∧ (jb .copy 2 .running []).sends = false ∧
    (cXLATE, 0x100000#64) ∈ (withJob farJob).linkFaults 0 farJob := by
  decide +kernel

/-- A SKUPD that meets no fault, and an SKADD of two sketches, in a device whose page 0 is mapped. -/
def skb : SkDesc := { skd with addr := 0x80#64, base := 0x200 }
def skWorld (j : Job) : State := world { x0 with eng := { Engines.reset with jobs := [(0, j)] } }

theorem witness_SketchJobs : (skWorld (skj .skupd [skd])).suFault 0 (skj .skupd [skd]) skd 0 1 = none ∧
    (skj .skupd [skd]).prog < skGroups (skj .skupd [skd]) ∧ (skj .skadd [skd, skb]).prog < skGroups (skj .skadd [skd, skb]) ∧
    (List.range 8).all (fun i => ((skWorld (skj .skadd [skd, skb])).skKey 0 needR (skb.base + 4 * i)).isRight &&
      ((skWorld (skj .skadd [skd, skb])).skKey 0 needRW (skd.base + 4 * i)).isRight) = true ∧
    ((skWorld (skj .skadd [skd, skb])).skKey 0 needRW skd.addr.toNat).isRight = true ∧ min 1024 (skArea skd.d skd.logw / 4) = 8 := by
  decide +kernel

/-- Matrix jobs of two rows and columns, of a complex format, and scaled ones of 32 elements; a pair of tiles at the end of the accumulator; a
drain of one row. -/
def mx (p0 p1 : Word) (sb : BitVec 6) : Mx := mmaOf [p0, p1] sb
def drains (ps : List Word) : Bool := (drainOf ps).m = 1 && decide (fld (ps.getD 2 0#64) 0 22 + drainHull ps (drainOf ps) ≤ 2 ^ 22)

theorem witness_MatrixShapes : (mx 0x6600001#64 0x100001#64 2#6).fitsTiles = true ∧ (mx 0x6600001#64 0x100001#64 2#6).m = 2 ∧
    (mx 0x6600001#64 0x100001#64 2#6).cacc = true ∧ (mx 0x1660001F#64 0#64 0#6).scaled = true ∧ (mx 0x1660001F#64 0#64 0#6).k = 32 ∧
    (mx 0x1660001F#64 0#64 0#6).k ≤ (mx 0x1660001F#64 0#64 0#6).kb ∧ fmtCplx (mx 0x6600001#64 0#64 0#6).bf = (mx 0x6600001#64 0#64 0#6).cplx ∧
    (List.range 16).any (fun f => fmtCplx f && (mx (BitVec.ofNat 64 (f * 2 ^ 20 + f * 2 ^ 24)) 0#64 0#6).cplx) = true ∧
    fld 0xE00000000#64 32 4 + ((1#6).toNat + 1) = 16 ∧ drains [0#64, 0#64, 0x3FFFF0#64] = true ∧ fld 0x3FFFF0#64 52 3 ≠ 6 ∧
    (finite32 0x3F800000).isSome = true ∧ finite32 0x7F800000 = none ∧
    (∃ h l y r, finite32 0x3F800000 = some h ∧ finite32 0 = some l ∧ finite32 0x33000000 = some y ∧
      finite32 (fop .add .f32 rne 0 0x3F800000 0x33000000).bits = some r) := by
  refine ⟨?_, ?_, ?_, ?_, ?_, ?_, ?_, ?_, ?_, ?_, ?_, ?_, ?_, ⟨_, _, _, _, rfl, rfl, rfl, rfl⟩⟩ <;> decide +kernel

/-- A byte of no queue's fields; a record of a wake that runs on, and a full queue without bytes; posted accesses of which one still stands. -/
def woken (wait : BitVec 8) (ready : List Ready) : State :=
  { world x0 with mem := worldMem ++ [(0x3038, wait)], dies := [(0, { Die.reset with tlb := [tl], ready := ready })] }
def offQ : Ready := { launch := 0, level := 0, record := 0x3040#52, off := true }
def postedBy (q : List OutPkt) : State := { on { x0 with posted := [9#64, 9#64] } with outq := q }
def request : OutPkt := { inLine0 with resp := false, body := .rma 1 9#64 8 0#32 [] 0 false 0#64 }

theorem witness_WakesAndPostedAccesses : s0.fixed 64 8 = false ∧ ((woken 2#8 []).wake? 0 0 L 0x3000#64).isSome = true ∧
    (postedBy []).standing 0 9#64 = 0 ∧ (postedBy [request]).standing 0 9#64 = 1 ∧ (postedBy []).me.posted[1]? = some 9#64 ∧
    (postedBy []).me.posted.count 9#64 ≤ (postedBy [request, request]).standing 0 9#64 ∧ (postedBy []).me.fenced = false ∧
    (postedBy []).outq = [] ∧ 9#64 ∈ (postedBy []).me.posted ∧ 8#64 ∉ (postedBy []).me.posted ∧ (postedBy []).me.posted.length ≤ 2 := by
  decide +kernel

/-- A wait at each of what counts against BUDGET, in a core that executes, with BUDGET at 1 and above; waits that do not count. -/
def waitsAt (w : Wait) (b : Word) : State := domeOf' { run0 with wait := w, waited := 255, budget := b }

theorem witness_ChargedWaits : (waitsAt (.waitm 0 1#6 true 0) 2#64).executes 0 = true ∧ (waitsAt (.phsw 0) 2#64).executes 0 = true ∧
    (waitsAt (.phwait 0 true) 2#64).executes 0 = true ∧ (waitsAt (.join true 5#6 0#64) 1#64).executes 0 = true ∧
    ((waitsAt (.join true 5#6 0#64) 1#64).core 0).budget = 1#64 ∧ ((waitsAt (.phsw 0) 2#64).core 0).budget ≠ 1#64 ∧
    (((waitsAt (.join true 5#6 0#64) 1#64).charge 0).drainInFlight 0).landed 0 = true ∧ 255 % 256 = 255 ∧ 254 % 256 ≠ 255 ∧
    (waitsAt (.fence 5 5 .none) 2#64).executes 0 = true := by
  decide +kernel

/-- A core that may be killed: its dome runs a record, with and without a launch that stands; a pre-empted one. -/
theorem witness_Kills : ((domeOf' run0).core 0).run ≠ .idle ∧ ((domeOf' run0).core 0).run ≠ .preempted ∧
    (∀ y ∈ domeCores (domeKey 0), ((domeOf' run0).core y).trace = []) ∧ ((domeOf' run0).launch? ((domeOf' run0).dome 0).launch) = some L ∧
    ({ domeOf' run0 with launches := [] } : State).launch? (some 0) = none ∧ ({ x0 with run := .preempted } : Core).run = .preempted ∧
    tabSorted ({ s0 with victims := [(0, vic)] } : State).victims = true ∧ isSup 0 = false := by
  decide +kernel

/-- The one idle dome and the second of two. -/
theorem witness_IdleDomes : (world x0).firstIdle 0 rdy = true ∧
    ({ world x0 with launches := [(0, { L with width := 2 })] } : State).firstIdle 1 rdy = false ∧
    ({ world x0 with launches := [(0, { L with width := 2 })] } : State).bestReady 1 = some rdy ∧ (world x0).fixed 0x5000 8 = false ∧
    (world x0).queueOf 0 = none := by
  decide +kernel

/-- Contexts: one that closes, one with packets received out of order; a packet whose job has ended, one of them with a source to read; a
packet of the device's own rank with an open target context; ports down from stage 2 of the start on and before it. -/
def toSelf (target : Bool) : Pdc := { path1 (pdc target) with key := { (pdc target).key with peer := Config.devRank } }
def selfTarget : Pdc := { toSelf true with key := { (toSelf false).key with target := true, pd := 0 } }

theorem witness_Contexts : ({ pdc false with words := (pdc false).words.set 0 2#32 } : Pdc).isOpen = false ∧ (pdc true).got = [] ∧
    ({ pdc true with got := [3#32] } : Pdc).got ≠ [] ∧ s0.eager = true ∧ s0.jobOf? 0 9 = none ∧ ({ pk false true with job := some xj } : Pkt).job = some xj ∧
    (sending (pdc false)).chunkFault 0 false needR (xj.source 0) = none ∧
    ({ s0 with pdcs := [(0, path1 (pdc false))], down := [] } : State).nextSender (path1 (pdc false)) = none ∧
    (51 ∈ ({ s0 with root := { Root.reset with power := true, stage := 2#4 } } : State).down) ∧ 2 ≤ (2#4 : BitVec 4).toNat ∧ s0.root.power = false ∧
    (lk0 LC).openPdc? true 0 4095 = none ∧ s0.roomFor 0 = true ∧ s0.roomFor 4 = false ∧ s0.openPdc? true 4 4095 = none := by
  decide +kernel

theorem witness_OwnRank : (toSelf false).key.peer = Config.devRank ∧ pathPorts ((toSelf false).word 5) = [0] ∧ 0 ∉ ({ s0 with down := [] } : State).down ∧
    selfTarget.key.peer = Config.devRank ∧ selfTarget.isOpen = true := by
  refine ⟨rfl, ?_, ?_, rfl, ?_⟩
  · decide +kernel
  · decide +kernel
  · decide +kernel

/-- A target context of any peer takes its packets; every context of a link core pair in use. -/
def pdcOfPeer (r : BitVec 12) (target : Bool) : Pdc := { pdc target with key := { (pdc target).key with peer := r } }

theorem witness_PeerIsAnotherDevice : ∃ r, r ≠ Config.devRank ∧ (withPdc (pdcOfPeer r true)).openPdc? true 0 0 = some (pdcOfPeer r true) ∧
    (withPdc (pdcOfPeer r false)).openPdc? false 0 0 = some (pdcOfPeer r false) ∧ (pdcOfPeer r true).key.mode ≠ 1#2 :=
  ⟨Config.devRank + 1#12, witness_AnotherDevice, rfl, rfl, by decide⟩

/-- A packet of a collective's job that a peer rejects. -/
def rejected : Pkt := { pk false false with core := 0, ord := 0 }

theorem witness_CollectivePeers : (withJob (cj (coll false 0))).job? 0 0 = some (cj (coll false 0)) ∧ (cj (coll false 0)).coll = some (coll false 0) ∧
    ({ path1 (pdc false) with pkts := [rejected] } : Pdc).pkts.find? (fun p => p.psn = 0#32 && !p.acked) = some rejected ∧ rejected.core = 0 ∧
    rejected.ord = (cj (coll false 0)).ord ∧ (cj (coll false 0)).p 10 = 0#64 := by
  decide +kernel

/-- Queue 0 asked to stop with a NOP started, and with a WAITMEM that does not hold yet. -/
def wm : List Word := [0x505#64, 0x5000#64, 1#64, 0xFFFFFFFF#64, 0#64]

theorem witness_QueueDisables : ((qs 8 0 0 0 (inHand .started [0x100#64])).qEnt 0 8).getLsbD 63 = false ∧
    ((qs 8 0 0 0 (inHand .started [0x100#64])).cmdq 0).on = true ∧
    (match decodePacket wm with
      | some (.waitmem false p) => decide (p.cond.toNat < 6) &&
          (match ({ qs 8 0 0 0 (inHand .started wm) with qturn := 0 } : State).qRead? p.a (if p.w64 then 8 else 4) with
            | some y => !WaitPkt.holds p y
            | none => false)
      | _ => false) = true := by
  decide +kernel

/-- A SIGNAL at its alignment and off it; the address of the replay mark; the body of a LOOP of one NOP. -/
def met (m : Met) (k : Nat) : Bool := match m with | .key j => j = k | _ => false
def captured (c : Captured) : Bool := match c with | .ok ps => ps.length = 1 | _ => false

theorem witness_SignalsMarksAndLoops : 0x5000 % 8 = 0 ∧ met (packet.signalMeet 0x5000#64) 0x5000 = true ∧
    (List.range 8).all (fun i => met (packet.signalMeet (0x5003#64 + BitVec.ofNat 64 i)) (0x5003 + i)) = true ∧
    (match packet.qMeet needW (packet.qField 0 0x38) with | .key _ => true | _ => false) = true ∧
    captured (packet.capture ring0 true 8 0 0#64 1 0) = true ∧ ((qs 8 0xC0 0 8 onQ).qEnt 0 8).getLsbD 62 = true := by
  decide +kernel

/-- The device in each stage of its start, with an image and without one, and with one whose supervisor cannot start. -/
def starting (n : BitVec 4) (f : Option FwImage) : State :=
  { s0 with root := { Root.reset with power := true, stage := n, boot := f, image := f } }

theorem witness_Stages : (starting 0#4 none).root.power = true ∧ (starting 1#4 none).root.fail = 0#8 ∧ (starting 1#4 (some fw)).root.boot = some fw ∧
    (starting 1#4 none).root.boot = none ∧ (starting 2#4 (some fw)).root.image = some fw ∧ fw.sups = [] ∧
    ((starting 2#4 (some fw)).loadImage fw).isSome = true ∧
    ((starting 2#4 (some fw)).loadImage { fw with sups := [(8, [], 0#52)] }) = none ∧ (starting 3#4 (some fw)).root.stage = 3#4 ∧
    (starting 3#4 (some fw)).root.released = false ∧ Memory.wf (starting 3#4 (some fw)).mem = true := by
  decide +kernel

/-- A core that owes a sample; counters of events 11 and 12; a read of a submit that meets an error. -/
theorem witness_SamplesAndMisses : (trapState { run0 with sampDue := true }).executes 0 = true ∧ (trapState { run0 with sampDue := false }).executes 0 = true ∧
    ({ x0 with pmcCfg := 11#64 } : Core).pmcEvent 0 = 11 ∧ ({ x0 with pmcCfg := 12#64 } : Core).pmcEvent 0 = 12 ∧ x0.pmcEvent 0 = 0 ∧
    ({ die := 0, unit := 1#4, loc := 0#52, who := .submitRead 0 0x40#64 } : SoftErr).who = .submitRead 0 0x40#64 ∧ handled.mayTrap 0 = true := by
  decide +kernel

/-- A vector syllable of each check under a false guard; a core outside the stream; registers that the allotment refuses. -/
theorem witness_FalseAndRefused : s0.typeFault (.vadd (vx1 1#4 0#8 0#2)) = none ∧ s0.me.join ≠ .attached ∧
    ({ x0 with regAllot := 0x1EF#9 } : Core).refused [.v 0#5] = some 4 ∧ ({ x0 with regAllot := 0x1EF#9 } : Core).guardTrue none = true ∧
    ({ x0 with regAllot := 0x1EF#9 } : Core).regAllot.getLsbD 8 = true := by
  decide +kernel

/-- A bundle at the head of a queue; syllables that run, that stall and that trap, and one that lacks an answer. -/
def res (o : Out) : Option Issued := match o with | .next t => some t.issue.res | _ => none

theorem witness_Turns : run0.seg = none ∧ res (exec (.nop (ctl 0#6 0#7 false 0#6)) (on run0)) = some .ran ∧
    res (exec (.fence (ctl 0x23#6 0#7 false 0#6)) ownSt) = some .stalled ∧
    (match res (exec (.trap (ctl 3#6 0#7 false 0#6)) handled) with | some (.trapped c _) => c = 0x11#6 | _ => false) = true ∧
    isPrefix (.nop (ctl 0#6 0#7 false 0#6)) = false := by
  decide +kernel

/-- A well-formed syllable of every format. -/
theorem witness_Formats : WellFormed (.br { fin := true, off := 0x20000#18, g := g0 }) ∧ WellFormed (.mfc (ctl 33#6 0#7 true 63#6)) ∧
    WellFormed (.loop { fin := true, n := 0x3FF#10, a := 71#7, gw := none }) ∧ WellFormed (.ld8s (mem 71#7 true 63#6)) ∧
    WellFormed (.vld (vm 71#7 31#5)) ∧ WellFormed (.vgath (idx (vm 71#7 31#5))) ∧ WellFormed (.aadd (atom (some { sz := true, x8 := 0xFF#8, g := g0 }))) ∧
    WellFormed (.acas acas) ∧ WellFormed (.vfma (vx1 1#4 0#8 0#2)) ∧ WellFormed (.copy (en none 2#4 0#6 63#6)) ∧
    WellFormed (.eset { n := 7#4, e := en none 4#4 13#6 12#6 }) ∧ WellFormed (.pfxm { fin := false, cache := 0#2, space := 1#2, scope := 0#3, ord := 0#3 }) ∧
    WellFormed (.pfxa { fin := false, ftz := true, nan := 0#2, sat := 0#2, rnd := 2#3 }) ∧ WellFormed (.movi { fin := true, imm := 4#36, w := true, d := 5#6, g := g0 }) ∧
    WellFormed (.movh { fin := true, w := true, d := 21#6, imm := 0x130000#32 }) ∧ WellFormed (.xwrPlace (en none 6#4 0#6 63#6)) := by
  decide +kernel

end Sys2Proof.Tests
end

section
/-! PROOFS. Writes in flight (R19): what the end of an issue cycle does to the only write that a core has in flight. -/

namespace Sys2Proof.Machine

/-- With nothing in flight, emptying the list of writes in flight changes nothing. -/
theorem Core.with_pend_nil {c : Core} (h : c.pend = []) : { c with pend := [] } = c := by
  rw [← h]

/-- A write with more than one cycle left comes one cycle nearer. -/
theorem Core.endCycle_post_of_one_lt {c : Core} (h : c.pend = []) {l : Nat} (hl : 1 < l) (w : Write) :
    (c.post l w).endCycle = c.post (l - 1) w := by
  have later : ¬ l ≤ 1 := by omega
  simp [Core.endCycle, Core.post, h, later]

/-- A write with one cycle left is made, whether it is one of flags or of a register. -/
theorem Core.endCycle_post_one {c : Core} (h : c.pend = []) (w : Write) : (c.post 1 w).endCycle = c.apply w := by
  cases hw : w.isFlags <;> simp [Core.endCycle, Core.post, h, hw, Core.with_pend_nil h]

/-- Fewer cycles than its latency leave a write in flight, so many cycles nearer. -/
theorem Core.endCycles_post_of_lt {c : Core} (h : c.pend = []) (w : Write) (n : Nat) :
    ∀ l, n < l → (c.post l w).endCycles n = c.post (l - n) w := by
  induction n with
  | zero => intro l _; rfl
  | succ n ih =>
    intro l hl
    have nearer : (c.post l w).endCycle = c.post (l - 1) w := Core.endCycle_post_of_one_lt h (by omega) w
    calc (c.post l w).endCycles (n + 1)
        = (c.post (l - 1) w).endCycles n := by rw [Core.endCycles, nearer]
      _ = c.post (l - 1 - n) w := ih (l - 1) (by omega)
      _ = c.post (l - (n + 1)) w := by rw [Nat.sub_sub, Nat.add_comm 1 n]

/-- The end of one more cycle, taken last. -/
theorem Core.endCycles_succ (c : Core) (n : Nat) : c.endCycles (n + 1) = (c.endCycles n).endCycle := by
  induction n generalizing c with
  | zero => rfl
  | succ n ih => exact ih c.endCycle

/-- As many cycles as its latency make the write. -/
theorem Core.endCycles_post_self {c : Core} (h : c.pend = []) (w : Write) {l : Nat} (hl : 1 ≤ l) :
    (c.post l w).endCycles l = c.apply w := by
  obtain ⟨k, rfl⟩ := Nat.exists_eq_add_of_le' hl
  rw [Core.endCycles_succ, Core.endCycles_post_of_lt h w k (k + 1) k.lt_succ_self, Nat.add_sub_cancel_left,
    Core.endCycle_post_one h]

/-- Settles O1: the write comes nearer through the first `l - 1` ends of issue cycles, and the `l`-th makes it. -/
theorem exposedWriteLandsAfterItsLatency : Obligations.ExposedWriteLandsAfterItsLatency := by
  intro c l n w h hn hl
  split
  · next hlt => exact Core.endCycles_post_of_lt h w n l hlt
  · next hge =>
    obtain rfl : n = l := by omega
    exact Core.endCycles_post_self h w hn

end Sys2Proof.Machine
end

section
/-! PROOFS. Division (R92): truncating quotients and remainders, a zero divisor and the one overflow. -/

namespace Sys2Proof.Machine

/-- A clear syllable of two scalar sources notes its latches and posts its result. -/
theorem alu2_clear {o : S3} {s : State} (h : Clear o.gw (srcReg o.a ++ srcReg o.b ++ dstReg o.w o.d) s) (l : Nat)
    (f : Word → Word → Word) :
    alu2 o l f s = .next ((s.noteLatches [o.a, o.b]).putS o.w o.d l (f (s.me.src o.a) (s.me.src o.b))) :=
  guarded_clear h _

/-- The one quotient that does not fit, 2^63, wraps to -2^63. -/
theorem divS_eq (a b : Word) : divS a b =
    if b = 0#64 then 0xFFFFFFFFFFFFFFFF#64
    else if a = 0x8000000000000000#64 ∧ b = 0xFFFFFFFFFFFFFFFF#64 then 0x8000000000000000#64
    else BitVec.ofInt 64 (a.toInt.tdiv b.toInt) := by
  unfold divS
  split
  · rfl
  · split
    · next overflow =>
      obtain ⟨rfl, rfl⟩ := overflow
      decide
    · rfl

/-- The remainder is what the truncated quotient leaves of the dividend, and -2^63 by -1 leaves nothing. -/
theorem remS_eq (a b : Word) : remS a b =
    if b = 0#64 then a
    else if a = 0x8000000000000000#64 ∧ b = 0xFFFFFFFFFFFFFFFF#64 then 0#64
    else BitVec.ofInt 64 (a.toInt - b.toInt * a.toInt.tdiv b.toInt) := by
  unfold remS
  split
  · rfl
  · split
    · next overflow =>
      obtain ⟨rfl, rfl⟩ := overflow
      decide
    · rw [Int.tmod_def]

theorem divU_eq (a b : Word) : divU a b =
    if b = 0#64 then 0xFFFFFFFFFFFFFFFF#64 else BitVec.ofNat 64 (a.toNat / b.toNat) := by
  unfold divU
  split
  · rfl
  · exact BitVec.udiv_def

theorem remU_eq (a b : Word) : remU a b =
    if b = 0#64 then a else BitVec.ofNat 64 (a.toNat - b.toNat * (a.toNat / b.toNat)) := by
  unfold remU
  split
  · rfl
  · rw [BitVec.umod_def, Nat.mod_eq_sub_mul_div]

/-- Settles O4: each division is a two-source operation of latency 12, and its function is the one of R92. -/
theorem divisionTruncatesTowardZero : Obligations.DivisionTruncatesTowardZero := by
  intro r hr o s h
  simp only [divRules, List.mem_cons, List.not_mem_nil, or_false] at hr
  obtain rfl | rfl | rfl | rfl := hr
  · simp only [exec_div, execDiv, alu2_clear h, divS_eq]
  · simp only [exec_divu, execDivu, alu2_clear h, divU_eq]
  · simp only [exec_rem, execRem, alu2_clear h, remS_eq]
  · simp only [exec_remu, execRemu, alu2_clear h, remU_eq]

end Sys2Proof.Machine
end

section
/-! PROOFS. Truth tables (R100): the minterms that LOP3 joins pick, at each bit, one entry of the table. -/

namespace Sys2Proof.Machine

/-- The entry of a truth table that three source bits select (R100). -/
def ttIndex (x y z : Bool) : Nat := 4 * x.toNat + 2 * y.toNat + z.toNat

/-- The bits at which the sources select entry `k` of the table. -/
def minterm {w : Nat} (a b c : BitVec w) (k : Nat) : BitVec w :=
  (if k.testBit 2 then a else ~~~a) &&& (if k.testBit 1 then b else ~~~b) &&& (if k.testBit 0 then c else ~~~c)

/-- LOP3 joins the minterms of the entries that are set. -/
theorem lop3_eq_foldl_minterm {w : Nat} (tt : BitVec 8) (a b c : BitVec w) :
    lop3 tt a b c = (List.range 8).foldl (fun x k => if tt.getLsbD k then x ||| minterm a b c k else x) 0#w := rfl

/-- The three bits of an entry's number are the source bits that select it. -/
theorem testBits_beq_eq_ttIndex : ∀ k < 8, ∀ x y z : Bool,
    ((k.testBit 2 == x) && (k.testBit 1 == y) && (k.testBit 0 == z)) = decide (k = ttIndex x y z) := by
  decide

/-- A source or its complement, as a minterm takes it, is set where the source has the bit asked for. -/
theorem getLsbD_ite_not {w i : Nat} (hi : i < w) (q : Bool) (a : BitVec w) :
    (if q then a else ~~~a).getLsbD i = (q == a.getLsbD i) := by
  cases q <;> simp [hi]

theorem getLsbD_minterm {w i k : Nat} (hi : i < w) (hk : k < 8) (a b c : BitVec w) :
    (minterm a b c k).getLsbD i = decide (k = ttIndex (a.getLsbD i) (b.getLsbD i) (c.getLsbD i)) := by
  rw [← testBits_beq_eq_ttIndex k hk, minterm]
  simp only [BitVec.getLsbD_and, getLsbD_ite_not hi]

/-- A bit of joined words is set where one of those that are joined has it. -/
theorem getLsbD_foldl_or {w : Nat} (p : Nat → Bool) (t : Nat → BitVec w) (l : List Nat) (x : BitVec w) (i : Nat) :
    (l.foldl (fun x k => if p k then x ||| t k else x) x).getLsbD i =
      (x.getLsbD i || l.any fun k => p k && (t k).getLsbD i) := by
  induction l generalizing x with
  | nil => simp
  | cons k r ih =>
    rw [List.foldl_cons, ih, List.any_cons]
    cases hk : p k <;> simp [Bool.or_assoc]

theorem ttIndex_lt (x y z : Bool) : ttIndex x y z < 8 := by
  cases x <;> cases y <;> cases z <;> decide

/-- LOP3 at a bit, for words of any width. -/
theorem getLsbD_lop3 {w i : Nat} (hi : i < w) (tt : BitVec 8) (a b c : BitVec w) :
    (lop3 tt a b c).getLsbD i = tt.getLsbD (ttIndex (a.getLsbD i) (b.getLsbD i) (c.getLsbD i)) := by
  rw [lop3_eq_foldl_minterm, getLsbD_foldl_or, BitVec.getLsbD_zero, Bool.false_or, Bool.eq_iff_iff, List.any_eq_true]
  constructor
  · rintro ⟨k, hk, h⟩
    rw [List.mem_range] at hk
    rw [getLsbD_minterm hi hk, Bool.and_eq_true, decide_eq_true_iff] at h
    exact h.2 ▸ h.1
  · intro h
    have hk := ttIndex_lt (a.getLsbD i) (b.getLsbD i) (c.getLsbD i)
    exact ⟨_, List.mem_range.mpr hk, by simp [getLsbD_minterm hi hk, h]⟩

theorem getLsbD_lop3Rule {i : Nat} (hi : i < 64) (tt : BitVec 8) (a b c : Word) :
    (lop3Rule tt a b c).getLsbD i = tt.getLsbD (ttIndex (a.getLsbD i) (b.getLsbD i) (c.getLsbD i)) := by
  rw [lop3Rule, BitVec.getLsbD_ofFnLE, dif_pos hi]
  rfl

theorem lop3_eq_lop3Rule (tt : BitVec 8) (a b c : Word) : lop3 tt a b c = lop3Rule tt a b c :=
  BitVec.eq_of_getLsbD_eq fun _ hi => by rw [getLsbD_lop3 hi, getLsbD_lop3Rule hi]

/-- Table 0x96 holds the parity of the bits that select an entry. -/
theorem ttIndex_parity (x y z : Bool) : (0x96#8).getLsbD (ttIndex x y z) = (x ^^ y ^^ z) := by
  cases x <;> cases y <;> cases z <;> rfl

/-- Table 0xE8 holds the majority of the bits that select an entry. -/
theorem ttIndex_majority (x y z : Bool) : (0xE8#8).getLsbD (ttIndex x y z) = (x && y || x && z || y && z) := by
  cases x <;> cases y <;> cases z <;> rfl

theorem lop3Rule_parity (a b c : Word) : lop3Rule 0x96#8 a b c = a ^^^ b ^^^ c :=
  BitVec.eq_of_getLsbD_eq fun _ hi => by simp [getLsbD_lop3Rule hi, ttIndex_parity]

theorem lop3Rule_majority (a b c : Word) : lop3Rule 0xE8#8 a b c = (a &&& b) ||| (a &&& c) ||| (b &&& c) :=
  BitVec.eq_of_getLsbD_eq fun _ hi => by simp [getLsbD_lop3Rule hi, ttIndex_majority]

/-- Settles O5: the joined minterms are the look-up of every bit, and the two tables of the examples hold parity and majority. -/
theorem truthTableLookup : Obligations.TruthTableLookup := by
  refine ⟨fun o s h => ?_, fun tt a b c i hi => getLsbD_lop3Rule hi tt a b c,
    fun a b c => ⟨lop3Rule_parity a b c, lop3Rule_majority a b c⟩⟩
  rw [exec_lop3, execLop3, guarded_clear h, lop3_eq_lop3Rule]

end Sys2Proof.Machine
end

section
/-! PROOFS. SEGHINT (R120): what the loader's note of a hinted segment leaves as it was. -/

namespace Sys2Proof.Machine

@[simp] theorem State.foldl_event_cur (es : List Nat) (s : State) : (es.foldl State.event s).cur = s.cur := by
  induction es generalizing s with
  | nil => rfl
  | cons e r ih => exact ih (s.event e)

@[simp] theorem State.noteLatches_cur (s : State) (fs : List (BitVec 7)) : (s.noteLatches fs).cur = s.cur := by
  simp only [State.noteLatches, apply_ite State.cur, State.foldl_event_cur]
  split <;> rfl

/-- A hint is ignored, or it changes the list of hinted segments of the core's dome. -/
theorem State.hint_cases (s : State) (n : Nat) :
    s.hint n = s ∨ ∃ hs, s.hint n = s.setDome (domeKey s.cur) { s.dome (domeKey s.cur) with hints := hs } := by
  simp only [State.hint]
  split
  · exact .inl rfl
  · exact .inr ⟨_, rfl⟩

theorem State.hint_of_beyond {s : State} {n : Nat} (h : s.dev (dieOf s.cur) s.me.segTab.toNat 8 % 2 ^ 12 ≤ n) : s.hint n = s := by
  simp only [State.hint, decide_eq_true h, Bool.or_true, Bool.true_or, if_true]

theorem State.hint_eq_with_domes (s : State) (n : Nat) : s.hint n = { s with domes := (s.hint n).domes } := by
  obtain h | ⟨hs, h⟩ := s.hint_cases n
  · rw [h]
  · rw [h]
    rfl

theorem State.dome_hint (s : State) (n k : Nat) : (s.hint n).dome k = { s.dome k with hints := ((s.hint n).dome k).hints } := by
  obtain h | ⟨hs, h⟩ := s.hint_cases n
  · rw [h]
  · rw [h]
    by_cases hk : k = domeKey s.cur
    · subst hk
      rw [State.dome_setDome]
    · rw [State.dome_setDome_ne s _ hk]

/-- Settles O11: the syllable notes its latch and gives the loader its hint, which leaves all but the list of hinted segments. -/
theorem segmentHintHasNoEffect : Obligations.SegmentHintHasNoEffect := by
  intro o s h
  have noted : exec (.seghint o) s = .next ((s.noteLatches [o.a]).hint (s.me.src o.a).toNat) := by
    rw [exec_seghint, execSeghint, guarded_clear h]
  refine ⟨_, noted, State.hint_eq_with_domes _ _, State.dome_hint _ _, fun beyond => State.hint_of_beyond ?_⟩
  rwa [State.noteLatches_cur]

end Sys2Proof.Machine
end
